-- ==== Sys2Proof/Word.lean ====
section
/-! DEFINITION. The word types of the PL960-M: bytes, 64-bit registers, 512-bit PE operands. -/
namespace Sys2Proof

/-- A byte of memory (00_scope R5: multi-byte values are little-endian). -/
abbrev Byte := BitVec 8

/-- A 32-bit word: an instruction, a lane. -/
abbrev Half := BitVec 32

/-- A 16-bit parcel of a host instruction. -/
abbrev Half16 := BitVec 16

/-- A 64-bit register of a host thread or of an SPE. -/
abbrev Word := BitVec 64

/-- A 512-bit operand of a PE slot (03_packed_arithmetic R71). -/
abbrev Wide := BitVec 512

/-- A 64-bit word from a natural number, its low 64 bits. -/
abbrev Word.of (n : Nat) : Word := BitVec.ofNat 64 n

end Sys2Proof
end

