-- ==== Sys2Proof/Machine/Num.lean ====
section
/-! DEFINITION. Numbers: exact values, the element formats and their encodings (02 R40 to R54),
exact arithmetic on values, correctly rounded square roots, `2^x` and `log2 x`, the binary trees of
02 R69, and integer narrowing helpers (00 R9). -/
namespace Sys2Proof

/-! ### Integers (00 R9, 02 R40, R41) -/

/-- The low n bits of v, sign-extended: `sx(v,n)` of 00 R9. -/
def sx (v : Nat) (n : Nat) : Int :=
  if v % 2 ^ n < 2 ^ (n - 1) ∨ n = 0 then (v % 2 ^ n : Nat) else (v % 2 ^ n : Nat) - (2 ^ n : Nat)

/-- The field [hi:lo] of v: `bits(v,hi,lo)` of 00 R9. -/
def bitsOf (v hi lo : Nat) : Nat := v / 2 ^ lo % 2 ^ (hi + 1 - lo)

/-- The low n bits of an integer, two's complement. -/
def lowBits (v : Int) (n : Nat) : Nat := (v % (2 ^ n : Nat)).toNat

/-- `sat_s(v,n)` of 00 R9. -/
def satS (v : Int) (n : Nat) : Int :=
  if v < -(2 ^ (n - 1) : Nat) then -(2 ^ (n - 1) : Nat)
  else if v > (2 ^ (n - 1) : Nat) - 1 then (2 ^ (n - 1) : Nat) - 1 else v

/-- `sat_n(v,n)` of 00 R9. -/
def satN (v : Int) (n : Nat) : Int :=
  if v < 0 then 0 else if v > (2 ^ n : Nat) - 1 then (2 ^ n : Nat) - 1 else v

/-- v clamped to the range of an integer type of n bits. -/
def satI (sgn : Bool) (v : Int) (n : Nat) : Int := if sgn then satS v n else satN v n

/-- v is outside the range of a signed integer of n bits. -/
def outS (v : Int) (n : Nat) : Bool := v < -(2 ^ (n - 1) : Nat) || v > (2 ^ (n - 1) : Nat) - 1

/-- The n-bit pattern v read as a signed or an unsigned integer. -/
def readInt (sgn : Bool) (v n : Nat) : Int := if sgn then sx v n else (v % 2 ^ n : Nat)

/-- The number of leading zeros of an n-bit pattern. -/
def leadingZeros (v n : Nat) : Nat := if v % 2 ^ n = 0 then n else n - 1 - (v % 2 ^ n).log2

/-- The number of set bits among the low n bits. -/
def popCount (v : Nat) : Nat → Nat
  | 0 => 0
  | n + 1 => popCount v n + v / 2 ^ n % 2

/-- The integer square root of v, found bit by bit from bit n - 1 down. -/
def isqrtFrom (v : Nat) : Nat → Nat → Nat
  | 0, r => r
  | n + 1, r => isqrtFrom v n (if (r + 2 ^ n) * (r + 2 ^ n) ≤ v then r + 2 ^ n else r)

/-- The largest r with r·r at most v. -/
def isqrt (v : Nat) : Nat := isqrtFrom v (v.log2 / 2 + 1) 0

/-! ### Exact values -/

/-- An exact value: NaN, an infinity, or (-1)^neg · m · 2^e; m = 0 is a signed zero. -/
inductive Val where
  | nan
  | inf (neg : Bool)
  | fin (neg : Bool) (m : Nat) (e : Int)
deriving DecidableEq, Repr

/-- Rounding modes: those of 02 R51 and, for host threads only, the RISC-V mode RMM. -/
inductive Rm where
  | rne | rtz | rup | rdn | rmm
deriving DecidableEq, Repr

/-- The rounding mode of a 2-bit field (02 R51). -/
def Rm.of2 (v : BitVec 2) : Rm :=
  if v = 0 then .rne else if v = 1 then .rtz else if v = 2 then .rup else .rdn

/-- The element formats that encode reals (02 R42, R46). -/
inductive Fmt where
  | f64 | f32 | bf16 | f16 | e4m3 | e5m2 | t8 | t6
deriving DecidableEq, Repr

/-- The width of an element in bits (02 R56). -/
def Fmt.width : Fmt → Nat
  | .f64 => 64 | .f32 => 32 | .bf16 => 16 | .f16 => 16 | .t6 => 6 | _ => 8
/-- Fraction bits (02 R42). -/
def Fmt.fbits : Fmt → Nat
  | .f64 => 52 | .f32 => 23 | .bf16 => 7 | .f16 => 10 | .e4m3 => 3 | .e5m2 => 2 | _ => 0
/-- Exponent bits (02 R42). -/
def Fmt.ebits : Fmt → Nat
  | .f64 => 11 | .f32 => 8 | .bf16 => 8 | .f16 => 5 | .e4m3 => 4 | .e5m2 => 5 | _ => 0
/-- Exponent bias (02 R42). -/
def Fmt.bias : Fmt → Nat
  | .f64 => 1023 | .f32 => 127 | .bf16 => 127 | .f16 => 15 | .e4m3 => 7 | .e5m2 => 15 | _ => 0
/-- A tapered format (02 R46). -/
def Fmt.tapered : Fmt → Bool
  | .t8 => true | .t6 => true | _ => false
/-- The canonical NaN (02 R42, R47). -/
def Fmt.nan : Fmt → Nat
  | .f64 => 0x7FF8000000000000 | .f32 => 0x7FC00000 | .bf16 => 0x7FC0 | .f16 => 0x7E00
  | .e4m3 => 0x7F | .e5m2 => 0x7E | .t8 => 0x80 | .t6 => 0x20
/-- The magnitude code of Ω, the value one code above max finite (02 R52). -/
def Fmt.omega : Fmt → Nat
  | .f64 => 0x7FF0000000000000 | .f32 => 0x7F800000 | .bf16 => 0x7F80 | .f16 => 0x7C00
  | .e4m3 => 0x7F | .e5m2 => 0x7C | .t8 => 0x7F | .t6 => 0x1F
/-- The smallest normal exponent. -/
def Fmt.emin (f : Fmt) : Int := 1 - (f.bias : Int)

/-- Length of the run of bits equal to `lead` in m from bit i - 1 down (02 R46). -/
def tapRun (m : Nat) (lead : Bool) : Nat → Nat
  | 0 => 0
  | i + 1 => if m.testBit i == lead then tapRun m lead i + 1 else 0

/-- The value of tapered magnitude code m of width w, 1 ≤ m; the all-ones code is read as Ω
(02 R46, R52). -/
def tapMag (w m : Nat) : Nat × Int :=
  if m = 2 ^ w - 1 then (1, if w = 7 then 11 else 7) else
  let lead := m.testBit (w - 1)
  let r := tapRun m lead w
  let k : Int := if lead then (r : Int) - 1 else -(r : Int)
  let rest := w - r - 1
  let e := if rest = 0 then 0 else m / 2 ^ (rest - 1) % 2
  let nf := rest - 1
  (2 ^ nf + m % 2 ^ nf, 2 * k + e - nf)

/-- The magnitude of a code from 0 to Ω as m · 2^e (02 R42, R46). -/
def Fmt.mag (f : Fmt) (c : Nat) : Nat × Int :=
  if f.tapered then (if c = 0 then (0, 0) else tapMag (f.width - 1) c)
  else
    let be := c / 2 ^ f.fbits
    let fr := c % 2 ^ f.fbits
    if be = 0 then (fr, f.emin - f.fbits) else (2 ^ f.fbits + fr, f.emin + be - 1 - f.fbits)

/-- The value of an element code (02 R42, R46). -/
def Fmt.dec (f : Fmt) (b : Nat) : Val :=
  let s := b.testBit (f.width - 1)
  let c := b % 2 ^ (f.width - 1)
  if f.tapered then
    if c = 0 then (if s then .nan else .fin false 0 0)
    else if c = f.omega then .inf s
    else .fin s (f.mag c).1 (f.mag c).2
  else if f = .e4m3 then
    if c = 0x7F then .nan else .fin s (f.mag c).1 (f.mag c).2
  else if c = f.omega then .inf s
  else if c > f.omega then .nan
  else .fin s (f.mag c).1 (f.mag c).2

/-- m1 · 2^e1 compared with m2 · 2^e2. -/
def cmpMag (m1 : Nat) (e1 : Int) (m2 : Nat) (e2 : Int) : Ordering :=
  if e1 ≤ e2 then compare m1 (m2 * 2 ^ (e2 - e1).toNat) else compare (m1 * 2 ^ (e1 - e2).toNat) m2

/-- A magnitude rounded down to a code: the code, whether the magnitude is exactly that code's, and
its place against the midpoint to the next code. -/
structure Floor where
  code : Nat
  exact : Bool
  half : Ordering
deriving DecidableEq, Repr

/-- The largest tapered code at most m · 2^e among codes 0 to c. -/
def tapFloor (f : Fmt) (m : Nat) (e : Int) : Nat → Nat
  | 0 => 0
  | c + 1 =>
    if cmpMag (f.mag (c + 1)).1 (f.mag (c + 1)).2 m e = .gt then tapFloor f m e c else c + 1

/-- m · 2^e rounded down to a code of f, at most Ω (02 R52). -/
def Fmt.floor (f : Fmt) (m : Nat) (e : Int) : Floor :=
  if m = 0 then ⟨0, true, .lt⟩
  else if f.tapered then
    let c := tapFloor f m e f.omega
    let lo := f.mag c
    if c = f.omega then ⟨c, true, .lt⟩
    else
      let hi := f.mag (c + 1)
      -- the midpoint is lo + hi over two; both are put over a common exponent
      let b := min lo.2 hi.2
      let mid := lo.1 * 2 ^ (lo.2 - b).toNat + hi.1 * 2 ^ (hi.2 - b).toNat
      ⟨c, cmpMag lo.1 lo.2 m e = .eq, cmpMag m e mid (b - 1)⟩
  else
    let t : Int := (m.log2 : Int) + e
    let te := max t f.emin
    let ulp := te - f.fbits
    let q := if e ≥ ulp then m * 2 ^ (e - ulp).toNat else m / 2 ^ (ulp - e).toNat
    let r := if e ≥ ulp then 0 else m % 2 ^ (ulp - e).toNat
    let c := (te - f.emin).toNat * 2 ^ f.fbits + q
    if c ≥ f.omega then ⟨f.omega, true, .lt⟩
    else ⟨c, r = 0, if e ≥ ulp then .lt else compare (2 * r) (2 ^ (ulp - e).toNat)⟩

/-- The magnitude code 0 to Ω that (-1)^neg · m · 2^e rounds to (02 R52). -/
def Fmt.roundMag (f : Fmt) (rm : Rm) (neg : Bool) (m : Nat) (e : Int) : Nat :=
  let fl := f.floor m e
  let away := match rm with
    | .rtz => false
    | .rup => !neg
    | .rdn => neg
    | _ => true
  if fl.code = f.omega then (if away then f.omega else f.omega - 1)
  else if fl.exact then fl.code
  else match rm with
    | .rne =>
      if fl.half = .gt ∨ (fl.half = .eq ∧ fl.code % 2 = 1) then fl.code + 1 else fl.code
    | .rmm => if fl.half = .lt then fl.code else fl.code + 1
    | .rtz => fl.code
    | .rup => if neg then fl.code else fl.code + 1
    | .rdn => if neg then fl.code + 1 else fl.code

/-- The sign bit of a format. -/
def Fmt.signBit (f : Fmt) (neg : Bool) : Nat := if neg then 2 ^ (f.width - 1) else 0

/-- The code of ±Ω or of an infinity under the INF rule (02 R53). -/
def Fmt.infCode (f : Fmt) (neg : Bool) : Nat :=
  if f = .e4m3 then 0x7F else f.omega + f.signBit neg

/-- A magnitude code with its sign; every zero of a tapered format is +0 (02 R54). -/
def Fmt.signed (f : Fmt) (neg : Bool) (c : Nat) : Nat :=
  if f.tapered ∧ c = 0 then 0 else c + f.signBit neg

/-- `enc(fmt, x, mode)` of 02 R52, under the INF or the SAT rule of R53. -/
def Fmt.enc (f : Fmt) (v : Val) (rm : Rm) (sat : Bool := false) : Nat :=
  match v with
  | .nan => f.nan
  | .inf neg => f.infCode neg
  | .fin neg m e =>
    let c := f.roundMag rm neg m e
    if c = f.omega then (if sat then f.omega - 1 + f.signBit neg else f.infCode neg)
    else f.signed neg c

/-- `enc` with the result flushed to a zero of its sign when it rounds to a subnormal (02 R43). -/
def Fmt.encFtz (f : Fmt) (v : Val) (rm : Rm) (ftz : Bool) (sat : Bool := false) : Nat :=
  let c := f.enc v rm sat
  let mag := c % 2 ^ (f.width - 1)
  if ftz ∧ mag ≠ 0 ∧ mag < 2 ^ f.fbits then c - mag else c

/-- A code read as a value, a subnormal read as a zero of its sign under FTZ (02 R43). -/
def Fmt.decFtz (f : Fmt) (b : Nat) (ftz : Bool) : Val :=
  let mag := b % 2 ^ (f.width - 1)
  if ftz ∧ mag < 2 ^ f.fbits then .fin (b.testBit (f.width - 1)) 0 0 else f.dec b

/-! ### Arithmetic on values -/

/-- The sign of a value; a NaN counts as positive. -/
def Val.neg? : Val → Bool
  | .nan => false | .inf n => n | .fin n _ _ => n
/-- A value is NaN. -/
def Val.isNan : Val → Bool
  | .nan => true | _ => false
/-- A value is a zero. -/
def Val.isZero : Val → Bool
  | .fin _ m _ => m = 0 | _ => false
/-- A value is an infinity. -/
def Val.isInf : Val → Bool
  | .inf _ => true | _ => false

/-- The value with its sign inverted. -/
def Val.negate : Val → Val
  | .nan => .nan | .inf n => .inf (!n) | .fin n m e => .fin (!n) m e
/-- The value with its sign cleared. -/
def Val.abs : Val → Val
  | .nan => .nan | .inf _ => .inf false | .fin _ m e => .fin false m e

/-- The exact value of an integer. -/
def Val.ofInt (i : Int) : Val := .fin (i < 0) i.natAbs 0

/-- The signed integer of a sign and a magnitude. -/
def signedInt (neg : Bool) (m : Nat) : Int := if neg then -(m : Int) else m

/-- The exact sum. A sum of two zeros of unlike sign, or an exact cancellation, is +0, or -0 when
rounding towards -infinity (IEEE 754-2019, 02 R42). -/
def Val.add (a b : Val) (rm : Rm) : Val :=
  match a, b with
  | .nan, _ => .nan
  | _, .nan => .nan
  | .inf x, .inf y => if x = y then .inf x else .nan
  | .inf x, _ => .inf x
  | _, .inf y => .inf y
  | .fin s1 m1 e1, .fin s2 m2 e2 =>
    if m1 = 0 ∧ m2 = 0 then .fin (if s1 = s2 then s1 else rm = .rdn) 0 0
    else if m1 = 0 then .fin s2 m2 e2
    else if m2 = 0 then .fin s1 m1 e1
    else
      let e := min e1 e2
      let s := signedInt s1 (m1 * 2 ^ (e1 - e).toNat) + signedInt s2 (m2 * 2 ^ (e2 - e).toNat)
      if s = 0 then .fin (rm = .rdn) 0 0 else .fin (s < 0) s.natAbs e

/-- The exact product. -/
def Val.mul (a b : Val) : Val :=
  match a, b with
  | .nan, _ => .nan
  | _, .nan => .nan
  | .inf x, .inf y => .inf (x != y)
  | .inf x, .fin s m _ => if m = 0 then .nan else .inf (x != s)
  | .fin s m _, .inf y => if m = 0 then .nan else .inf (s != y)
  | .fin s1 m1 e1, .fin s2 m2 e2 => .fin (s1 != s2) (m1 * m2) (e1 + e2)

/-- A magnitude with a sticky bit appended below it: exact if `ex`, else just above m · 2^e. -/
def jam (neg : Bool) (m : Nat) (e : Int) (ex : Bool) : Val :=
  .fin neg (2 * m + if ex then 0 else 1) (e - 1)

/-- The quotient, exact to more bits than any format keeps, with a sticky bit. -/
def Val.div (a b : Val) : Val :=
  match a, b with
  | .nan, _ => .nan
  | _, .nan => .nan
  | .inf _, .inf _ => .nan
  | .inf x, .fin s _ _ => .inf (x != s)
  | .fin s _ _, .inf y => .fin (s != y) 0 0
  | .fin s1 m1 e1, .fin s2 m2 e2 =>
    if m2 = 0 then (if m1 = 0 then .nan else .inf (s1 != s2))
    else if m1 = 0 then .fin (s1 != s2) 0 0
    else
      let k := 128 + m2.log2
      jam (s1 != s2) (m1 * 2 ^ k / m2) (e1 - e2 - k) (m1 * 2 ^ k % m2 = 0)

/-- The square root, exact to more bits than any format keeps, with a sticky bit; -0 gives -0 and
every other negative value NaN (IEEE 754-2019). -/
def Val.sqrt (a : Val) : Val :=
  match a with
  | .nan => .nan
  | .inf n => if n then .nan else .inf false
  | .fin n m e =>
    if m = 0 then .fin n 0 0
    else if n then .nan
    else
      let odd := (e % 2).toNat
      let x := m * 2 ^ odd * 2 ^ 256
      let r := isqrt x
      jam false r ((e - odd) / 2 - 128) (r * r = x)

/-- The reciprocal square root: ±0 gives an infinity of its sign, +infinity +0, a negative value
NaN (07 R199). -/
def Val.rsqrt (a : Val) : Val :=
  match a with
  | .nan => .nan
  | .inf n => if n then .nan else .fin false 0 0
  | .fin n m e =>
    if m = 0 then .inf n
    else if n then .nan
    else
      let odd := (e % 2).toNat
      let d := m * 2 ^ odd
      let k := 128 + d.log2
      let q := isqrt (2 ^ (2 * k) / d)
      jam false q (-((e - odd) / 2) - k) (q * q * d = 2 ^ (2 * k))

/-- Exact comparison of two numbers; none when either is NaN. Zeros compare equal. -/
def Val.cmp (a b : Val) : Option Ordering :=
  match a, b with
  | .nan, _ => none
  | _, .nan => none
  | .inf x, .inf y => some (if x = y then .eq else if x then .lt else .gt)
  | .inf x, _ => some (if x then .lt else .gt)
  | _, .inf y => some (if y then .gt else .lt)
  | .fin s1 m1 e1, .fin s2 m2 e2 =>
    let e := min e1 e2
    some (compare (signedInt s1 (m1 * 2 ^ (e1 - e).toNat)) (signedInt s2 (m2 * 2 ^ (e2 - e).toNat)))

/-- A magnitude m · 2^e with its sign, rounded to an integer. -/
def roundInt (rm : Rm) (neg : Bool) (m : Nat) (e : Int) : Int :=
  if e ≥ 0 then signedInt neg (m * 2 ^ e.toNat)
  else
    let d := 2 ^ (-e).toNat
    let q := m / d
    let r := m % d
    let up : Bool := match rm with
      | .rne => 2 * r > d || (2 * r = d && q % 2 = 1)
      | .rmm => 2 * r ≥ d
      | .rtz => false
      | .rup => !neg && r ≠ 0
      | .rdn => neg && r ≠ 0
    signedInt neg (if up then q + 1 else q)

/-- A value converted to an integer of n bits: rounded, then clamped; NaN gives 0, an infinity the
maximum or minimum (02 R41). -/
def Val.toInt (v : Val) (rm : Rm) (sgn : Bool) (n : Nat) : Int :=
  match v with
  | .nan => 0
  | .inf neg => satI sgn (signedInt neg (2 ^ (n + 1))) n
  | .fin neg m e =>
    -- a magnitude of 2^(n+1) or more clamps whatever its low bits are
    if m ≠ 0 ∧ (m.log2 : Int) + e > n then satI sgn (signedInt neg (2 ^ (n + 1))) n
    else satI sgn (roundInt rm neg m e) n

/-! ### Base-2 exponential and logarithm

Fixed-point series with 400 fraction bits; an inexact result carries a sticky bit. A value 2^x with
x no integer, and a value log2 x with x no power of two, is irrational, so it is never a tie. -/

/-- Fraction bits of the series. -/
def seriesBits : Nat := 400

/-- atanh(p/q) scaled by 2^seriesBits: the sum of (p/q)^(2i+1)/(2i+1), `t` the current power. -/
def atanhFrom (p q : Nat) : Nat → Nat → Nat → Nat
  | 0, _, _ => 0
  | fuel + 1, i, t => t / (2 * i + 1) + atanhFrom p q fuel (i + 1) (t * (p * p) / (q * q))

/-- atanh(p/q), at most 1/3, scaled by 2^seriesBits. -/
def atanhFix (p q : Nat) : Nat := atanhFrom p q 130 0 (p * 2 ^ seriesBits / q)

/-- The natural logarithm of 2, scaled by 2^seriesBits. -/
def ln2Fix : Nat := 2 * atanhFix 1 3

/-- exp(y) scaled, y scaled and below 1: the sum of y^i/i!. -/
def expFrom (y : Nat) : Nat → Nat → Nat → Nat
  | 0, _, _ => 0
  | fuel + 1, i, t => t + expFrom y fuel (i + 1) (t * y / 2 ^ seriesBits / (i + 1))

/-- 2^x (07 R199): exact for an integer x, else with a sticky bit. -/
def Val.exp2 (a : Val) : Val :=
  match a with
  | .nan => .nan
  | .inf n => if n then .fin false 0 0 else .inf false
  | .fin n m e =>
    if m = 0 then .fin false 1 0
    -- beyond ±2^12 every result overflows or underflows every format
    else if (m.log2 : Int) + e > 12 then (if n then .fin false 1 (-8192) else .fin false 1 8192)
    -- below 2^-200 the result differs from 1 by less than any format shows
    else if (m.log2 : Int) + e < -200 then
      (if n then .fin false (2 ^ 201 - 1) (-201) else .fin false (2 ^ 200 + 1) (-200))
    else
      let scaled : Int := if e ≥ 0 then signedInt n (m * 2 ^ e.toNat * 2 ^ seriesBits)
        else signedInt n (m * 2 ^ seriesBits) / (2 ^ (-e).toNat : Nat)
      let whole := scaled / (2 ^ seriesBits : Nat)
      let frac := (scaled % (2 ^ seriesBits : Nat)).toNat
      if frac = 0 ∧ e ≥ -(seriesBits : Int) then .fin false 1 whole
      else jam false (expFrom (frac * ln2Fix / 2 ^ seriesBits) 110 0 (2 ^ seriesBits))
        (whole - seriesBits) false

/-- log2 x (07 R199): exact for a power of two, else with a sticky bit; ±0 gives -infinity, a
negative value NaN. -/
def Val.log2 (a : Val) : Val :=
  match a with
  | .nan => .nan
  | .inf n => if n then .nan else .inf false
  | .fin n m e =>
    if m = 0 then .inf true
    else if n then .nan
    else
      let k := m.log2
      let whole : Int := k + e
      if m = 2 ^ k then Val.ofInt whole
      else
        -- ln(m / 2^k) = 2 atanh((m - 2^k) / (m + 2^k))
        let fr := 2 * atanhFix (m - 2 ^ k) (m + 2 ^ k) * 2 ^ seriesBits / ln2Fix
        let s := whole * (2 ^ seriesBits : Nat) + fr
        -- the sticky bit moves the magnitude towards the true value, which lies above s
        if s < 0 then .fin true (2 * s.natAbs - 1) (-(seriesBits : Int) - 1)
        else jam false s.natAbs (-(seriesBits : Int)) false

/-! ### Lists of lanes -/

/-- The n lanes of w bits of a wide value, lane 0 lowest. -/
def lanesOf (v w n : Nat) : List Nat := (List.range n).map fun i => v / 2 ^ (w * i) % 2 ^ w

/-- Lanes of w bits joined, the first lowest. -/
def joinLanes (w : Nat) : List Nat → Nat
  | [] => 0
  | x :: xs => x % 2 ^ w + 2 ^ w * joinLanes w xs

/-- One level of a pairwise tree: neighbours combined (02 R69). -/
def pairUp {α : Type} (f : α → α → α) : List α → List α
  | a :: b :: rest => f a b :: pairUp f rest
  | xs => xs

/-- The pairwise tree of 02 R69 over n levels. -/
def treeFold {α : Type} (f : α → α → α) : Nat → List α → List α
  | 0, xs => xs
  | n + 1, xs => treeFold f n (pairUp f xs)

/-- Field i of w bits of a wide value. -/
def lane {n : Nat} (w : Nat) (x : BitVec n) (i : Nat) : BitVec w := x.extractLsb' (w * i) w

/-- A wide value with field i of w bits replaced. -/
def setLane {n w : Nat} (x : BitVec n) (i : Nat) (v : BitVec w) : BitVec n :=
  (x &&& ~~~((BitVec.allOnes w).setWidth n <<< (w * i))) ||| (v.setWidth n <<< (w * i))

/-- The element at index i, or d. -/
def nth {α : Type} (xs : List α) (i : Nat) (d : α) : α := xs.getD i d

end Sys2Proof
end

