-- ==== Sys2Proof/Syntax.lean ====
section
/-! DEFINITION. The instruction set: one constructor of `Instr` per row of spec/opcode_table.json.
Host instructions and drain words carry their register and immediate fields, PE ops the three ring
words of their ring position (04_encodings R91, R96, R100), copy, command and queue rows the fields
of their records, and the machine's events the names of the units they concern. -/
namespace Sys2Proof

/-- A host register number, x0 to x31 or f0 to f31. -/
abbrev Reg := BitVec 5

/-- The scopes of 13_memory_model R360. -/
inductive Scope where
  | core | clu | die | dev | sys
deriving DecidableEq, Repr

/-- Operations of `patom` (04_encodings R116). -/
inductive AtomOp where
  | add | min | max | and | or | xor | swap | cas
deriving DecidableEq, Repr

/-- Types of `patom` (04_encodings R116). -/
inductive AtomType where
  | s64 | n64 | s32 | n32
deriving DecidableEq, Repr

/-- Conditions of `mwait` (15_barrier R399). -/
inductive MwaitCond where
  | eq | ne | geu | ltu
deriving DecidableEq, Repr

/-- The five PE kinds (01_device R18). -/
inductive PeKind where
  | cpe | ape | mpe | spe | dpe
deriving DecidableEq, Repr

/-! ### The base host instruction set (00_scope R3) -/

/-- Conditional branches of RV64I. -/
inductive BranchOp where
  | beq | bne | blt | bge | bltu | bgeu
deriving DecidableEq, Repr

/-- Integer loads of RV64I. -/
inductive LoadOp where
  | lb | lh | lw | ld | lbu | lhu | lwu
deriving DecidableEq, Repr

/-- Integer stores of RV64I. -/
inductive StoreOp where
  | sb | sh | sw | sd
deriving DecidableEq, Repr

/-- Immediate operations with a signed 12-bit immediate. -/
inductive ImmOp where
  | addi | slti | sltiu | xori | ori | andi | addiw
deriving DecidableEq, Repr

/-- Immediate shifts; the shift amount has 6 bits, or 5 for the `w` forms. -/
inductive ShiftOp where
  | slli | srli | srai | rori | slliUw | slliw | srliw | sraiw | roriw
deriving DecidableEq, Repr

/-- Register-register operations of RV64I, M, Zba, Zbb and Zicond. -/
inductive AluOp where
  | add | sub | sll | slt | sltu | xor | srl | sra | or | and
  | addw | subw | sllw | srlw | sraw
  | mul | mulh | mulhsu | mulhu | div | divu | rem | remu
  | mulw | divw | divuw | remw | remuw
  | addUw | sh1add | sh2add | sh3add | sh1addUw | sh2addUw | sh3addUw
  | andn | orn | xnor | min | minu | max | maxu | rol | ror | rolw | rorw
  | czeroEqz | czeroNez
deriving DecidableEq, Repr

/-- One-operand operations of Zbb. -/
inductive UnaryOp where
  | clz | ctz | cpop | clzw | ctzw | cpopw | sextB | sextH | zextH | orcB | rev8
deriving DecidableEq, Repr

/-- CSR operations of Zicsr; the `i` forms take rs1's number as the operand. -/
inductive CsrOp where
  | rw | rs | rc | rwi | rsi | rci
deriving DecidableEq, Repr

/-- Read-modify-write operations of the A extension. -/
inductive AmoOp where
  | swap | add | xor | and | or | min | max | minu | maxu
deriving DecidableEq, Repr

/-- The two float formats of F and D. -/
inductive FFmt where
  | s | d
deriving DecidableEq, Repr

/-- Fused multiply-adds of F and D. -/
inductive FmaOp where
  | madd | msub | nmsub | nmadd
deriving DecidableEq, Repr

/-- Two-operand float operations that round. -/
inductive FArithOp where
  | add | sub | mul | div
deriving DecidableEq, Repr

/-- Two-operand float operations that do not round. -/
inductive FMiscOp where
  | sgnj | sgnjn | sgnjx | min | max
deriving DecidableEq, Repr

/-- Float comparisons. -/
inductive FCmpOp where
  | le | lt | eq
deriving DecidableEq, Repr

/-- Integer types of the float conversions. -/
inductive IntFmt where
  | w | wu | l | lu
deriving DecidableEq, Repr

/-- A base host instruction: RV64IMAFDC with Zicsr, Zifencei, Zba, Zbb and Zicond (00_scope R3).
A compressed instruction is the one it expands to. -/
inductive Rv where
  | lui (rd : Reg) (imm : BitVec 20)
  | auipc (rd : Reg) (imm : BitVec 20)
  | jal (rd : Reg) (imm : BitVec 21)
  | jalr (rd rs1 : Reg) (imm : BitVec 12)
  | branch (op : BranchOp) (rs1 rs2 : Reg) (imm : BitVec 13)
  | load (op : LoadOp) (rd rs1 : Reg) (imm : BitVec 12)
  | store (op : StoreOp) (rs1 rs2 : Reg) (imm : BitVec 12)
  | immOp (op : ImmOp) (rd rs1 : Reg) (imm : BitVec 12)
  | shift (op : ShiftOp) (rd rs1 : Reg) (sh : BitVec 6)
  | alu (op : AluOp) (rd rs1 rs2 : Reg)
  | unary (op : UnaryOp) (rd rs1 : Reg)
  | fence (fm pred succ : BitVec 4) (rd rs1 : Reg)
  | fenceI (imm : BitVec 12) (rd rs1 : Reg)
  | ecall
  | ebreak
  | csr (op : CsrOp) (rd rs1 : Reg) (addr : BitVec 12)
  | lr (dbl aq rl : Bool) (rd rs1 : Reg)
  | sc (dbl aq rl : Bool) (rd rs1 rs2 : Reg)
  | amo (op : AmoOp) (dbl aq rl : Bool) (rd rs1 rs2 : Reg)
  | fload (f : FFmt) (rd rs1 : Reg) (imm : BitVec 12)
  | fstore (f : FFmt) (rs1 rs2 : Reg) (imm : BitVec 12)
  | fma (op : FmaOp) (f : FFmt) (rm : BitVec 3) (rd rs1 rs2 rs3 : Reg)
  | farith (op : FArithOp) (f : FFmt) (rm : BitVec 3) (rd rs1 rs2 : Reg)
  | fsqrt (f : FFmt) (rm : BitVec 3) (rd rs1 : Reg)
  | fmisc (op : FMiscOp) (f : FFmt) (rd rs1 rs2 : Reg)
  | fcmp (op : FCmpOp) (f : FFmt) (rd rs1 rs2 : Reg)
  | fclass (f : FFmt) (rd rs1 : Reg)
  | fcvtToInt (t : IntFmt) (f : FFmt) (rm : BitVec 3) (rd rs1 : Reg)
  | fcvtFromInt (f : FFmt) (t : IntFmt) (rm : BitVec 3) (rd rs1 : Reg)
  | fcvtFF (dst : FFmt) (rm : BitVec 3) (rd rs1 : Reg)
  | fmvToInt (f : FFmt) (rd rs1 : Reg)
  | fmvFromInt (f : FFmt) (rd rs1 : Reg)
deriving DecidableEq, Repr

/-! ### Ring positions, records -/

/-- The three ring words of one ring position of a PE slot, the opcode left out:
predicate index and sense, type selector and modifiers (04_encodings R91), the route word (R96) and
the register-address word (R100). -/
structure OpF where
  pi : BitVec 4
  ps : Bool
  typ : BitVec 4
  mod : BitVec 9
  route : BitVec 16
  addr : BitVec 16
deriving DecidableEq, Repr

/-- A copy schedule entry without its KIND (04_encodings R113). -/
structure CopyEnt where
  flags : BitVec 8
  sbuf : BitVec 8
  dbuf : BitVec 8
  mult : BitVec 32
  soff : BitVec 32
  doff : BitVec 32
  bounds : List (BitVec 16)
  cnt : BitVec 8
  cntinc : BitVec 32
  sstr : List (BitVec 24)
  dstr : List (BitVec 24)
deriving DecidableEq, Repr

/-- A queue entry without its KIND (17_queue R432). -/
structure QEnt where
  waitprev : Bool
  clu : BitVec 8
  lane : BitVec 16
  addr0 : Word
  addr1 : Word
  value : Word
  ctr : Word
  ctrinc : Word
deriving DecidableEq, Repr

/-- One access of a host-link agent (18_link R461). -/
inductive LinkAccess where
  | read (pa : Nat) (len : Nat)
  | write (pa : Nat) (bytes : List Byte)
  | snoop (pa : Nat)
  /-- the MSI-X enable and the mask bit of vector 0, as configuration space holds them -/
  | msix (enable mask : Bool)
deriving DecidableEq, Repr

/-- Where a register write comes from: the host through BAR 0, a device access through a mapping, or
firmware (17_queue R427, R443). -/
inductive RegSrc where
  | bar | device | firmware
deriving DecidableEq, Repr

/-- The four rails (01_device R26). -/
inductive Rail where
  | matrix | vector | sram | fabric
deriving DecidableEq, Repr

/-- The instruction set: one constructor for each row of spec/opcode_table.json. -/
inductive Instr where
  -- custom-0 (04_encodings R115)
  | kld (rd rs1 : Reg)
  | kfork (rd rs1 : Reg)
  | krdv (rd rs1 : Reg)
  | karg (rs1 rs2 : Reg)
  | kstop (rs1 : Reg)
  | kres (rs1 : Reg)
  | kstat (rd rs1 : Reg)
  | cstart (rd rs1 : Reg)
  | cstep (rs1 rs2 : Reg)
  | cwait (rs1 rs2 : Reg)
  | cadd (rs1 rs2 : Reg)
  | cstat (rd rs1 : Reg)
  | cpub (sc : Scope) (rs1 : Reg)
  | binit (rs1 rs2 : Reg)
  | barr (rs1 : Reg)
  | bwait (rd rs1 : Reg)
  | bpois (rs1 : Reg)
  | mwait (c : MwaitCond) (rd rs1 rs2 : Reg)
  | gstep (rs1 rs2 : Reg)
  | gabort (rs1 rs2 : Reg)
  | gtab (rd rs1 : Reg)
  | lease (rd rs1 rs2 : Reg)
  | qsub (rd rs1 rs2 : Reg)
  | lstart (rd rs1 rs2 : Reg)
  | lstat (rd rs1 : Reg)
  -- custom-1 (04_encodings R116)
  | lda (sc : Scope) (rd rs1 : Reg)
  | stl (sc : Scope) (rs1 rs2 : Reg)
  | pfence (sc : Scope)
  | patom (op : AtomOp) (ty : AtomType) (rd rs1 rs2 : Reg)
  | predF32 (rs1 rs2 : Reg)
  | predFx (rs1 rs2 : Reg)
  | stmc (rs1 rs2 : Reg)
  | rchk (rd rs1 : Reg)
  | sigst (rs1 rs2 : Reg)
  -- host-thread events
  -- op-ring ops of the PE slots
  | nop (kind : PeKind) (f : OpF)
  -- CPE (06_product_pe R160)
  | mulw (f : OpF)
  | muls (f : OpF)
  | mulc (f : OpF)
  | dotx (f : OpF)
  | outer (f : OpF)
  | outerz (f : OpF)
  | fold (f : OpF)
  | pack (f : OpF)
  | xtrc (f : OpF)
  | addw (f : OpF)
  | subw (f : OpF)
  | shlw (f : OpF)
  | shrw (f : OpF)
  | clzw (f : OpF)
  | rndw (f : OpF)
  | sclda (f : OpF)
  | scldb (f : OpF)
  | accrd (f : OpF)
  | accwr (f : OpF)
  | accclr (f : OpF)
  | drn (f : OpF)
  | bsel (f : OpF)
  | rowp (f : OpF)
  | gwset (f : OpF)
  | cset (f : OpF)
  -- APE (07_arith_seq_pe R191)
  | add (f : OpF)
  | sub (f : OpF)
  | adds (f : OpF)
  | subs (f : OpF)
  | mul (f : OpF)
  | mulh (f : OpF)
  | mad (f : OpF)
  | min (f : OpF)
  | max (f : OpF)
  | abs (f : OpF)
  | neg (f : OpF)
  | and (f : OpF)
  | or (f : OpF)
  | xor (f : OpF)
  | andn (f : OpF)
  | shl (f : OpF)
  | shr (f : OpF)
  | sra (f : OpF)
  | rot (f : OpF)
  | cmp (f : OpF)
  | sel (f : OpF)
  | cnt (f : OpF)
  | lzc (f : OpF)
  | fadd (f : OpF)
  | fsub (f : OpF)
  | fmul (f : OpF)
  | fma (f : OpF)
  | fmin (f : OpF)
  | fmax (f : OpF)
  | fcmp (f : OpF)
  | frcp (f : OpF)
  | frsq (f : OpF)
  | fexp2 (f : OpF)
  | flog2 (f : OpF)
  | fcvt (f : OpF)
  | bcast (f : OpF)
  | perm (f : OpF)
  | shufl (f : OpF)
  | rsum (f : OpF)
  | rmax (f : OpF)
  | rmin (f : OpF)
  | zip (f : OpF)
  | unzip (f : OpF)
  | ext (f : OpF)
  | tunp (f : OpF)
  | tacc (f : OpF)
  | sat (f : OpF)
  | clamp (f : OpF)
  | mov (f : OpF)
  | mask (f : OpF)
  | iota (f : OpF)
  | lut (f : OpF)
  -- SPE (07_arith_seq_pe R212)
  | pset (f : OpF)
  | pcmp (f : OpF)
  | pand (f : OpF)
  | por (f : OpF)
  | pnot (f : OpF)
  | iter (f : OpF)
  | vcc (f : OpF)
  | sadd (f : OpF)
  | ssub (f : OpF)
  | sshl (f : OpF)
  | speBarr (f : OpF)
  | bwt (f : OpF)
  | speSigst (f : OpF)
  | kexit (f : OpF)
  | trapk (f : OpF)
  | speHint (f : OpF)
  -- MPE (08_stream R246)
  | ld (f : OpF)
  | ldk (f : OpF)
  | unf (f : OpF)
  | st (f : OpF)
  | stk (f : OpF)
  | ldx (f : OpF)
  | stx (f : OpF)
  | lds (f : OpF)
  | sts (f : OpF)
  | atm (f : OpF)
  | sbar (f : OpF)
  | sadv (f : OpF)
  | pfh (f : OpF)
  | wsync (f : OpF)
  | vmsk (f : OpF)
  -- DPE op ring (09_drain R279, R280)
  | dcvsOp (f : OpF)
  | mpx8 (f : OpF)
  | mpx16 (f : OpF)
  -- drain words (09_drain R265)
  | dld (dd : BitVec 4)
  | dldStream (dd : BitVec 4) (m : Bool) (st : BitVec 4)
  | dscl (dd da db : BitVec 4) (lt rm : BitVec 2) (sat : Bool) (j : BitVec 4)
  | dbias (dd da db : BitVec 4) (lt rm : BitVec 2) (sat : Bool) (nb : BitVec 4)
  | dact (dd da db : BitVec 4) (rm : BitVec 2) (sat : Bool) (fn : BitVec 2)
  | dclp (dd da db : BitVec 4) (lt : BitVec 2) (j : BitVec 4)
  | dmax (dd da db : BitVec 4) (lt : BitVec 2) (abs : Bool)
  | dmaxGrp (dd da : BitVec 4) (lt : BitVec 2) (abs : Bool)
  | dqnt (dd da : BitVec 4) (fmt : BitVec 4) (sat : Bool) (rm : BitVec 2)
  | dqntScl (dd da db : BitVec 4) (fmt : BitVec 4) (sat : Bool) (rm : BitVec 2)
  | dqntMks (dd da : BitVec 4) (fmt : BitVec 4) (sat : Bool) (rm : BitVec 2)
  | dcvt (dd da db : BitVec 4) (dlt rm : BitVec 2) (sat : Bool) (slt : BitVec 2) (hi : Bool)
  | dpack (dd da : BitVec 4) (cs : BitVec 2)
  | dmpk (dd da : BitVec 4) (nz80 w16 : Bool)
  | dst (da : BitVec 4) (gf m : Bool) (st : BitVec 4)
  | dloop (g : BitVec 4)
  | dmov (dd da : BitVec 4)
  | dmovImm (dd : BitVec 4) (fl : Bool) (v : BitVec 12)
  | dadd (dd da db : BitVec 4) (lt rm : BitVec 2) (sat : Bool)
  | dmul (dd da db : BitVec 4) (lt rm : BitVec 2) (sat : Bool)
  | dsel (dd da db : BitVec 4) (lt : BitVec 2)
  | dcvs (dd da : BitVec 4) (q : BitVec 2) (sat : Bool) (tgt : BitVec 3)
  | dtab (dd da db : BitVec 4) (rm : BitVec 2) (sat : Bool)
  -- events of a timing domain; the domain is the one on the move
  | foldComplete (core : Nat) (cpe bank : Bool)
  | placementPass (cluster : Nat)
  | streamFillReturn (core : Nat) (m : Bool) (st pos : Nat)
  | remoteArrival (n : Nat)
  | faultTimeout (ctx fid : Nat)
  -- copy entries; the engine is the one on the move (10_copy R287)
  | move (e : CopyEnt)
  | movec (e : CopyEnt)
  | gath (e : CopyEnt)
  | scat (e : CopyEnt)
  | fill (e : CopyEnt)
  | redu (e : CopyEnt)
  | pub (e : CopyEnt)
  | copyCnt (e : CopyEnt)
  | waits (e : CopyEnt)
  -- memory and error events
  | predBankAdd (n : Nat)
  | atmBankOp (n : Nat)
  | codecMerge (n : Nat)
  | wcBufferDrain (n : Nat)
  | uncorrectableError (pa : Nat)
  | channelFail (ch : Nat)
  -- system commands (17_queue R429)
  | inval (h : Nat) (va pages : Word)
  | frameset (pa count attr : Word)
  | replay (h : Nat) (fid : Word)
  | abort (h : Nat) (fid : Word)
  | create (h : Nat) (obj : Word)
  | start (h : Nat)
  | save (h : Nat)
  | restore (h : Nat)
  | kill (h : Nat)
  | assign (res : BitVec 8) (h : Nat) (first count : Word)
  | reclaim (res : BitVec 8) (h : Nat) (first count mask : Word)
  | qctlEnable (h q : Nat)
  | qctlDisable (h q : Nat)
  | qctlReset (h q : Nat)
  | fwload (pa len : Word)
  | fwCommit (v : Word)
  -- context events
  | arbiterAck (h n : Nat)
  -- queues (17_queue R432 to R438); the queue is the one on the move
  | kickWrite (pqn : Nat) (v : Word) (bytes : Nat)
  | launch (e : QEnt)
  | timetable (e : QEnt)
  | copy (e : QEnt)
  | lane (e : QEnt)
  | wait (e : QEnt)
  | signal (e : QEnt)
  | mark (e : QEnt)
  | fence (e : QEnt)
  | queueEntryComplete (idx : Nat)
  | timetableUnitStart (idx unit : Nat)
  -- device registers
  | registerWrite (src : RegSrc) (off : Nat) (bytes : Nat) (v : Word)
  | portRst (p : Nat)
  | energySelect (bar : Bool) (v : Word)
  | eloRead (bar : Bool) (bytes : Nat)
  | flashDone (err : Bool)
  -- Vetar
  | signalStoreArrival (n : Nat)
  | sigstAck (thr : Nat) (cause : BitVec 16)
  | windowAccess (n : Nat)
  | windowResponse (eng : Nat) (cause : BitVec 16) (data : List Byte)
  | trainingComplete (p : Nat) (lanes : BitVec 2)
  | trainingTimeout (p : Nat)
  | laneLost (p : Nat) (l : Bool)
  | shedRetrainDone (p : Nat)
  | shedTimeout (p : Nat)
  | portWiden (p : Nat)
  -- groups
  | abortToken (ctx g : Nat) (origin : Word) (reason : BitVec 16)
  | cstepReport (ctx g : Nat) (pkg step : Word)
  | agreementTimeout (ctx g : Nat)
  | agreementResult (ctx g : Nat) (step : Word) (nexcl : Nat)
  -- power
  | meltUpdate (m : BitVec 16)
  | opChange (rail : Rail) (op : BitVec 2)
  | thermalCritical (tj : Byte)
  | thermalRelease (tj : Byte)
  -- lanes; the lane is the one on the move
  -- the base host instruction set
  | hostInstruction (r : Rv) (compressed : Bool)
  | flitRefused (p : Nat)
  | hostLinkAgentAccess (a : LinkAccess)
  -- rows without a field; the unit they concern is the one on the move
  | hret
  | yield
  | lrel
  | hintC
  | hintM
  | hintW
  | poolmk
  | pfenceSc
  | asyncTrapDeliver
  | hostMissReturn
  | watchFire
  | krdvWake
  | dend
  | land
  | rotate
  | moveComplete
  | forkAccepted
  | domainResume
  | drainBeat
  | drainPadWrite
  | faultQueueSpace
  | copyArmedStart
  | copyBeat
  | waitsSatisfied
  | fwswitch
  | fwWatchdog
  | contextLoaded
  | saveComplete
  | restoreCommit
  | msixUnmask
  | outboundLock
  | flashErase
  | flashProgram
  | coldReset
  | intervalEnd
  | leaseExpiry
  | laneByteStep
  | laneCommit
  | meltSensorFault
deriving DecidableEq, Repr

end Sys2Proof
end

