-- ==== Sys2Proof/Machine/Operands.lean ====
section
/-! DEFINITION. The operand forms: fields of the ring words of a PE slot (04_encodings R91 to R100),
the opcode maps (R103 to R107), and for every op the legal type selectors and modifier bits, the
number of results and the latency (06 R160, 07 R191 and R212, 08 R246, 09 R279). -/
namespace Sys2Proof

/-! ### Fields of the op, route and address words -/

/-- RMODE of an APE or CPE op, MOD[8:7] (04 R94). -/
def OpF.rmode (f : OpF) : BitVec 2 := f.mod.extractLsb' 7 2
/-- SAT, MOD[6] (04 R94). -/
def OpF.sat (f : OpF) : Bool := f.mod.getLsbD 6
/-- FTZ, MOD[5] (04 R94). -/
def OpF.ftz (f : OpF) : Bool := f.mod.getLsbD 5
/-- W of a CPE op, MOD[4:3] (04 R94). -/
def OpF.wsel (f : OpF) : Nat := (f.mod.extractLsb' 3 2).toNat
/-- The element width w in digits, 1, 2, 4 or 8 (04 R94). -/
def OpF.width (f : OpF) : Nat := 2 ^ f.wsel
/-- The stream index of an MPE op, MOD[8:5] (04 R94). -/
def OpF.stream (f : OpF) : Nat := (f.mod.extractLsb' 5 4).toNat
/-- Bits [hi:lo] of MOD as a number. -/
def OpF.modBits (f : OpF) (hi lo : Nat) : Nat := f.mod.toNat / 2 ^ lo % 2 ^ (hi + 1 - lo)
/-- The type selector as a number (04 R93). -/
def OpF.ty (f : OpF) : Nat := f.typ.toNat

/-- Source code of operand A (04 R96). -/
def OpF.sa (f : OpF) : Nat := (f.route.extractLsb' 12 4).toNat
/-- Source code of operand B (04 R96). -/
def OpF.sb (f : OpF) : Nat := (f.route.extractLsb' 8 4).toNat
/-- Source code of operand C (04 R96). -/
def OpF.sc (f : OpF) : Nat := (f.route.extractLsb' 4 4).toNat
/-- Control of latch l0 (04 R99). -/
def OpF.l0c (f : OpF) : Nat := (f.route.extractLsb' 2 2).toNat
/-- Control of latch l1 (04 R99). -/
def OpF.l1c (f : OpF) : Nat := (f.route.extractLsb' 0 2).toNat

/-- RRF entry read on port P (04 R100). -/
def OpF.pa (f : OpF) : Nat := (f.addr.extractLsb' 11 5).toNat
/-- RRF entry read on port Q (04 R100). -/
def OpF.qa (f : OpF) : Nat := (f.addr.extractLsb' 6 5).toNat
/-- RRF entry written (04 R100). -/
def OpF.wa (f : OpF) : Nat := (f.addr.extractLsb' 1 5).toNat
/-- Write enable (04 R100). -/
def OpF.we (f : OpF) : Bool := f.addr.getLsbD 0

/-- The lane width of a type selector in bits, 0 where it has none (04 R93, 07 R188). -/
def typeWidth (ty : Nat) : Nat :=
  if ty = 1 ∨ ty = 2 ∨ ty = 0xC then 8
  else if ty = 3 ∨ ty = 4 then 16
  else if ty = 5 ∨ ty = 6 ∨ ty = 9 then 32
  else if ty = 7 ∨ ty = 8 ∨ ty = 0xA then 64
  else 0

/-- A signed integer type selector (04 R93). -/
def typeSigned (ty : Nat) : Bool := ty = 1 || ty = 3 || ty = 5 || ty = 7
/-- A float type selector (04 R93). -/
def typeFloat (ty : Nat) : Bool := ty = 9 || ty = 0xA

/-! ### Opcode maps -/

/-- The kind, opcode and ring words of an op-ring instruction (04 R103 to R106, R108); none for
every other instruction. -/
def Instr.op? : Instr → Option (PeKind × Nat × OpF)
  | .nop k f => some (k, 0x00, f)
  | .mulw f => some (.cpe, 0x01, f)
  | .muls f => some (.cpe, 0x02, f)
  | .mulc f => some (.cpe, 0x03, f)
  | .dotx f => some (.cpe, 0x04, f)
  | .outer f => some (.cpe, 0x05, f)
  | .outerz f => some (.cpe, 0x06, f)
  | .fold f => some (.cpe, 0x07, f)
  | .pack f => some (.cpe, 0x08, f)
  | .xtrc f => some (.cpe, 0x09, f)
  | .addw f => some (.cpe, 0x0A, f)
  | .subw f => some (.cpe, 0x0B, f)
  | .shlw f => some (.cpe, 0x0C, f)
  | .shrw f => some (.cpe, 0x0D, f)
  | .clzw f => some (.cpe, 0x0E, f)
  | .rndw f => some (.cpe, 0x0F, f)
  | .sclda f => some (.cpe, 0x10, f)
  | .scldb f => some (.cpe, 0x11, f)
  | .accrd f => some (.cpe, 0x12, f)
  | .accwr f => some (.cpe, 0x13, f)
  | .accclr f => some (.cpe, 0x14, f)
  | .drn f => some (.cpe, 0x15, f)
  | .bsel f => some (.cpe, 0x16, f)
  | .rowp f => some (.cpe, 0x17, f)
  | .gwset f => some (.cpe, 0x18, f)
  | .cset f => some (.cpe, 0x19, f)
  | .add f => some (.ape, 0x01, f)
  | .sub f => some (.ape, 0x02, f)
  | .adds f => some (.ape, 0x03, f)
  | .subs f => some (.ape, 0x04, f)
  | .mul f => some (.ape, 0x05, f)
  | .mulh f => some (.ape, 0x06, f)
  | .mad f => some (.ape, 0x07, f)
  | .min f => some (.ape, 0x08, f)
  | .max f => some (.ape, 0x09, f)
  | .abs f => some (.ape, 0x0A, f)
  | .neg f => some (.ape, 0x0B, f)
  | .and f => some (.ape, 0x0C, f)
  | .or f => some (.ape, 0x0D, f)
  | .xor f => some (.ape, 0x0E, f)
  | .andn f => some (.ape, 0x0F, f)
  | .shl f => some (.ape, 0x10, f)
  | .shr f => some (.ape, 0x11, f)
  | .sra f => some (.ape, 0x12, f)
  | .rot f => some (.ape, 0x13, f)
  | .cmp f => some (.ape, 0x14, f)
  | .sel f => some (.ape, 0x15, f)
  | .cnt f => some (.ape, 0x16, f)
  | .lzc f => some (.ape, 0x17, f)
  | .fadd f => some (.ape, 0x18, f)
  | .fsub f => some (.ape, 0x19, f)
  | .fmul f => some (.ape, 0x1A, f)
  | .fma f => some (.ape, 0x1B, f)
  | .fmin f => some (.ape, 0x1C, f)
  | .fmax f => some (.ape, 0x1D, f)
  | .fcmp f => some (.ape, 0x1E, f)
  | .frcp f => some (.ape, 0x1F, f)
  | .frsq f => some (.ape, 0x20, f)
  | .fexp2 f => some (.ape, 0x21, f)
  | .flog2 f => some (.ape, 0x22, f)
  | .fcvt f => some (.ape, 0x23, f)
  | .bcast f => some (.ape, 0x24, f)
  | .perm f => some (.ape, 0x25, f)
  | .shufl f => some (.ape, 0x26, f)
  | .rsum f => some (.ape, 0x27, f)
  | .rmax f => some (.ape, 0x28, f)
  | .rmin f => some (.ape, 0x29, f)
  | .zip f => some (.ape, 0x2A, f)
  | .unzip f => some (.ape, 0x2B, f)
  | .ext f => some (.ape, 0x2C, f)
  | .tunp f => some (.ape, 0x2D, f)
  | .tacc f => some (.ape, 0x2E, f)
  | .sat f => some (.ape, 0x2F, f)
  | .clamp f => some (.ape, 0x30, f)
  | .mov f => some (.ape, 0x31, f)
  | .mask f => some (.ape, 0x32, f)
  | .iota f => some (.ape, 0x33, f)
  | .lut f => some (.ape, 0x34, f)
  | .pset f => some (.spe, 0x01, f)
  | .pcmp f => some (.spe, 0x02, f)
  | .pand f => some (.spe, 0x03, f)
  | .por f => some (.spe, 0x04, f)
  | .pnot f => some (.spe, 0x05, f)
  | .iter f => some (.spe, 0x06, f)
  | .vcc f => some (.spe, 0x07, f)
  | .sadd f => some (.spe, 0x08, f)
  | .sshl f => some (.spe, 0x09, f)
  | .speBarr f => some (.spe, 0x0A, f)
  | .bwt f => some (.spe, 0x0B, f)
  | .speSigst f => some (.spe, 0x0C, f)
  | .kexit f => some (.spe, 0x0D, f)
  | .trapk f => some (.spe, 0x0E, f)
  | .speHint f => some (.spe, 0x0F, f)
  | .ssub f => some (.spe, 0x10, f)
  | .ld f => some (.mpe, 0x01, f)
  | .ldk f => some (.mpe, 0x02, f)
  | .st f => some (.mpe, 0x03, f)
  | .stk f => some (.mpe, 0x04, f)
  | .ldx f => some (.mpe, 0x05, f)
  | .stx f => some (.mpe, 0x06, f)
  | .lds f => some (.mpe, 0x07, f)
  | .sts f => some (.mpe, 0x08, f)
  | .unf f => some (.mpe, 0x09, f)
  | .atm f => some (.mpe, 0x0A, f)
  | .sbar f => some (.mpe, 0x0B, f)
  | .sadv f => some (.mpe, 0x0C, f)
  | .pfh f => some (.mpe, 0x0D, f)
  | .wsync f => some (.mpe, 0x0E, f)
  | .vmsk f => some (.mpe, 0x0F, f)
  | .dcvsOp f => some (.dpe, 0x12, f)
  | .mpx8 f => some (.dpe, 0x12, f)
  | .mpx16 f => some (.dpe, 0x12, f)
  | _ => none

/-- The CPE opcode map (04 R103). -/
def cpeInstr : Nat → OpF → Option Instr
  | 0x00, f => some (.nop .cpe f) | 0x01, f => some (.mulw f) | 0x02, f => some (.muls f)
  | 0x03, f => some (.mulc f) | 0x04, f => some (.dotx f) | 0x05, f => some (.outer f)
  | 0x06, f => some (.outerz f) | 0x07, f => some (.fold f) | 0x08, f => some (.pack f)
  | 0x09, f => some (.xtrc f) | 0x0A, f => some (.addw f) | 0x0B, f => some (.subw f)
  | 0x0C, f => some (.shlw f) | 0x0D, f => some (.shrw f) | 0x0E, f => some (.clzw f)
  | 0x0F, f => some (.rndw f) | 0x10, f => some (.sclda f) | 0x11, f => some (.scldb f)
  | 0x12, f => some (.accrd f) | 0x13, f => some (.accwr f) | 0x14, f => some (.accclr f)
  | 0x15, f => some (.drn f) | 0x16, f => some (.bsel f) | 0x17, f => some (.rowp f)
  | 0x18, f => some (.gwset f) | 0x19, f => some (.cset f)
  | _, _ => none

/-- The APE opcode map (04 R104). -/
def apeInstr : Nat → OpF → Option Instr
  | 0x00, f => some (.nop .ape f) | 0x01, f => some (.add f) | 0x02, f => some (.sub f)
  | 0x03, f => some (.adds f) | 0x04, f => some (.subs f) | 0x05, f => some (.mul f)
  | 0x06, f => some (.mulh f) | 0x07, f => some (.mad f) | 0x08, f => some (.min f)
  | 0x09, f => some (.max f) | 0x0A, f => some (.abs f) | 0x0B, f => some (.neg f)
  | 0x0C, f => some (.and f) | 0x0D, f => some (.or f) | 0x0E, f => some (.xor f)
  | 0x0F, f => some (.andn f) | 0x10, f => some (.shl f) | 0x11, f => some (.shr f)
  | 0x12, f => some (.sra f) | 0x13, f => some (.rot f) | 0x14, f => some (.cmp f)
  | 0x15, f => some (.sel f) | 0x16, f => some (.cnt f) | 0x17, f => some (.lzc f)
  | 0x18, f => some (.fadd f) | 0x19, f => some (.fsub f) | 0x1A, f => some (.fmul f)
  | 0x1B, f => some (.fma f) | 0x1C, f => some (.fmin f) | 0x1D, f => some (.fmax f)
  | 0x1E, f => some (.fcmp f) | 0x1F, f => some (.frcp f) | 0x20, f => some (.frsq f)
  | 0x21, f => some (.fexp2 f) | 0x22, f => some (.flog2 f) | 0x23, f => some (.fcvt f)
  | 0x24, f => some (.bcast f) | 0x25, f => some (.perm f) | 0x26, f => some (.shufl f)
  | 0x27, f => some (.rsum f) | 0x28, f => some (.rmax f) | 0x29, f => some (.rmin f)
  | 0x2A, f => some (.zip f) | 0x2B, f => some (.unzip f) | 0x2C, f => some (.ext f)
  | 0x2D, f => some (.tunp f) | 0x2E, f => some (.tacc f) | 0x2F, f => some (.sat f)
  | 0x30, f => some (.clamp f) | 0x31, f => some (.mov f) | 0x32, f => some (.mask f)
  | 0x33, f => some (.iota f) | 0x34, f => some (.lut f)
  | _, _ => none

/-- The SPE opcode map (04 R105). -/
def speInstr : Nat → OpF → Option Instr
  | 0x00, f => some (.nop .spe f) | 0x01, f => some (.pset f) | 0x02, f => some (.pcmp f)
  | 0x03, f => some (.pand f) | 0x04, f => some (.por f) | 0x05, f => some (.pnot f)
  | 0x06, f => some (.iter f) | 0x07, f => some (.vcc f) | 0x08, f => some (.sadd f)
  | 0x09, f => some (.sshl f) | 0x0A, f => some (.speBarr f) | 0x0B, f => some (.bwt f)
  | 0x0C, f => some (.speSigst f) | 0x0D, f => some (.kexit f) | 0x0E, f => some (.trapk f)
  | 0x0F, f => some (.speHint f) | 0x10, f => some (.ssub f)
  | _, _ => none

/-- The MPE opcode map (04 R106). -/
def mpeInstr : Nat → OpF → Option Instr
  | 0x00, f => some (.nop .mpe f) | 0x01, f => some (.ld f) | 0x02, f => some (.ldk f)
  | 0x03, f => some (.st f) | 0x04, f => some (.stk f) | 0x05, f => some (.ldx f)
  | 0x06, f => some (.stx f) | 0x07, f => some (.lds f) | 0x08, f => some (.sts f)
  | 0x09, f => some (.unf f) | 0x0A, f => some (.atm f) | 0x0B, f => some (.sbar f)
  | 0x0C, f => some (.sadv f) | 0x0D, f => some (.pfh f) | 0x0E, f => some (.wsync f)
  | 0x0F, f => some (.vmsk f)
  | _, _ => none

/-- The op ring of the DPE slot accepts `nop` and `dcvs` (04 R108); TGT 5 and 6 are the
masked-packed expansions (09 R280). -/
def dpeInstr : Nat → OpF → Option Instr
  | 0x00, f => some (.nop .dpe f)
  | 0x12, f =>
    if f.modBits 2 0 = 5 then some (.mpx8 f)
    else if f.modBits 2 0 = 6 then some (.mpx16 f)
    else if f.modBits 2 0 = 7 then none
    else some (.dcvsOp f)
  | _, _ => none

/-- The instruction an opcode names in a slot of a kind (04 R103 to R108). -/
def opInstr : PeKind → Nat → OpF → Option Instr
  | .cpe => cpeInstr | .ape => apeInstr | .spe => speInstr | .mpe => mpeInstr | .dpe => dpeInstr

/-! ### Legal type selectors and modifiers -/

/-- No bit of MOD outside `mask` is set (04 R95). -/
def OpF.modWithin (f : OpF) (mask : Nat) : Bool := f.mod &&& ~~~(BitVec.ofNat 9 mask) == 0#9

/-- TYP 0x1 to 0x8, the integer types. -/
def OpF.tyInt (f : OpF) : Bool := 1 ≤ f.ty && f.ty ≤ 8
/-- TYP 0x1 to 0xA, the integer and float types. -/
def OpF.tyAny (f : OpF) : Bool := 1 ≤ f.ty && f.ty ≤ 0xA

/-- The pairs of W and TYP of the outer product (06 R174). -/
def outerPair (w ty : Nat) : Bool :=
  (w = 0 && (ty = 0xB || ty = 1 || ty = 2)) || (w = 1 && (ty = 0xB || ty = 3 || ty = 4))
    || (w = 2 && ty = 9) || (w = 3 && ty = 0xA)

/-- TYP and MOD of a CPE op are legal (06 R160, R166, R174, R179). -/
def cpeLegal (opc : Nat) (f : OpF) : Bool :=
  match opc with
  | 0x01 => (f.ty = 7 || f.ty = 8) && f.modWithin 0
  | 0x02 => f.tyInt && f.modWithin 0x18 && typeWidth f.ty = 8 * f.width
  | 0x03 | 0x04 => f.ty = 0 && f.modWithin 0x40
  | 0x05 | 0x06 => outerPair f.wsel f.ty && f.modWithin (if f.wsel ≤ 1 then 0x58 else 0x1B8)
  | 0x08 => 1 ≤ f.ty && f.ty ≤ 6 && f.modWithin 0x41
  | 0x09 => 1 ≤ f.ty && f.ty ≤ 6 && f.modWithin 0x40
  | 0x0D => f.ty = 0 && f.modWithin 1
  | 0x0F => (f.ty = 7 || f.ty = 8) && f.modWithin 0x1E0
  | 0x10 | 0x11 | 0x12 | 0x13 | 0x15 | 0x16 => f.ty = 0 && f.modWithin 1
  | 0x19 => (outerPair f.wsel f.ty || (f.wsel = 0 && f.ty = 0)) && f.modWithin 0x18
  | _ => f.ty = 0 && f.modWithin 0

/-- The source type selector of `fcvt` for its SRC field (07 R192). -/
def fcvtSrc (src : Nat) : Nat :=
  if src = 0 then 5 else if src = 1 then 7 else if src = 2 then 9 else 0xA

/-- TYP and MOD of an APE op are legal (07 R191, R192, R200, R206). -/
def apeLegal (opc : Nat) (f : OpF) : Bool :=
  match opc with
  | 0x01 | 0x02 | 0x03 | 0x04 | 0x06 | 0x08 | 0x09 | 0x10 | 0x11 | 0x12 | 0x13 | 0x16 | 0x17
  | 0x32 | 0x33 | 0x34 => f.tyInt && f.modWithin 0
  | 0x05 | 0x07 => f.tyInt && f.modWithin 0x40
  | 0x0A | 0x0B => f.tyAny && f.modWithin (if typeFloat f.ty then 0 else 0x40)
  | 0x0C | 0x0D | 0x0E | 0x0F | 0x31 => f.ty = 0 && f.modWithin 0
  | 0x14 => f.tyInt && f.modWithin 7 && f.modBits 2 0 ≤ 5
  | 0x15 | 0x24 | 0x25 | 0x26 | 0x2A | 0x2B | 0x2C => f.tyAny && f.modWithin 0
  | 0x18 | 0x19 | 0x1A | 0x1B | 0x1F | 0x20 | 0x21 => typeFloat f.ty && f.modWithin 0x1E0
  | 0x1C | 0x1D => typeFloat f.ty && f.modWithin 0x20
  | 0x1E => typeFloat f.ty && f.modWithin 0x27
  | 0x22 => typeFloat f.ty && f.modWithin 0x1A0
  | 0x23 => (f.ty = 5 || f.ty = 7 || typeFloat f.ty) && f.modWithin 0x1E3
      && fcvtSrc (f.modBits 1 0) ≠ f.ty
  | 0x27 => f.tyAny && f.modWithin (if typeFloat f.ty then 0x1E1 else 0x41)
  | 0x28 | 0x29 => f.tyAny && f.modWithin (if typeFloat f.ty then 0x21 else 1)
  | 0x2D => f.ty = 0xC && f.modWithin 0
  | 0x2E => (f.ty = 1 || f.ty = 2) && f.modWithin 0x40
  | 0x2F => f.tyInt && f.modWithin 0x1F && f.modBits 4 0 + 1 ≤ typeWidth f.ty
  | 0x30 => f.tyAny && f.modWithin (if typeFloat f.ty then 0x20 else 0)
  | _ => f.ty = 0 && f.modWithin 0

/-- The destination of a predicate op is one of p1 to p7 (07 R211). -/
def speDestOk (f : OpF) : Bool := 1 ≤ f.modBits 8 5 && f.modBits 8 5 ≤ 7

/-- TYP and MOD of an SPE op are legal (07 R211, R212, R214). -/
def speLegal (opc : Nat) (f : OpF) : Bool :=
  match opc with
  | 0x01 => f.ty = 0 && f.modWithin 0x1E0 && speDestOk f
  | 0x02 => (f.ty = 7 || f.ty = 8) && f.modWithin 0x1E3 && speDestOk f
  | 0x03 | 0x04 => f.ty = 0 && speDestOk f
  | 0x05 => f.ty = 0 && f.modWithin 0x1FE && speDestOk f
  | 0x06 => f.ty = 0 && f.modWithin 7
  | 0x08 | 0x10 => (f.ty = 7 || f.ty = 8) && f.modWithin 1
  | 0x09 | 0x0F => f.ty = 0 && f.modWithin 3 && f.modBits 1 0 ≠ 3
  | 0x0B | 0x0D => f.ty = 0 && f.modWithin 1
  | 0x0E => f.ty = 0
  | _ => f.ty = 0 && f.modWithin 0

/-- TYP and MOD of an MPE op are legal, the stream table left aside (08 R246, R252; 04 R95). -/
def mpeLegal (opc : Nat) (f : OpF) : Bool :=
  match opc with
  | 0x01 => f.modWithin 0x1E3 && f.modBits 1 0 ≠ 3 && f.stream ≤ 11 && f.ty ≤ 0xC
  | 0x02 | 0x03 | 0x04 | 0x05 | 0x06 | 0x09 =>
    f.modWithin 0x1E0 && f.stream ≤ 11 && f.ty ≤ 0xC
  | 0x07 | 0x08 => f.ty = 0 && f.modWithin 1
  | 0x0A => 5 ≤ f.ty && f.ty ≤ 9 && f.modWithin 0x1FC && f.modBits 4 2 ≤ 5 && f.stream ≤ 11
      && (f.ty ≠ 9 || f.modBits 4 2 = 0)
  | 0x0C | 0x0D | 0x0E | 0x0F => f.ty = 0 && f.modWithin 0x1E0 && f.stream ≤ 11
  | _ => f.ty = 0 && f.modWithin 0

/-- TYP and MOD of a DPE op-ring op are legal (04 R108, 09 R278, R279). -/
def dpeLegal (opc : Nat) (f : OpF) : Bool :=
  if opc = 0x12 then
    f.ty = 0 &&
    (if f.modBits 2 0 = 5 ∨ f.modBits 2 0 = 6 then f.stream ≤ 11 && !f.mod.getLsbD 3
     else f.modBits 2 0 ≤ 4 && f.modBits 8 7 = 0 && !f.mod.getLsbD 4
       && (2 ≤ f.modBits 2 0 || f.modBits 6 5 ≤ 1))
  else f.ty = 0 && f.modWithin 0

/-- TYP and MOD of an op are legal in a slot of its kind (04 R95). -/
def opLegal : PeKind → Nat → OpF → Bool
  | .cpe => cpeLegal | .ape => apeLegal | .spe => speLegal | .mpe => mpeLegal | .dpe => dpeLegal

/-! ### Results and latencies -/

/-- A `fcvt` that widens 32-bit lanes to 64-bit lanes has two results (07 R189, R200). -/
def fcvtWidens (f : OpF) : Bool :=
  typeWidth f.ty = 64 && typeWidth (fcvtSrc (f.modBits 1 0)) = 32

/-- The number of results of an op (06 R160, 07 R189 and R212, 08 R246, 09 R279). -/
def opResults (k : PeKind) (opc : Nat) (f : OpF) : Nat :=
  match k with
  | .cpe =>
    if opc = 1 ∨ opc = 2 ∨ opc = 3 ∨ opc = 4 ∨ opc = 0xA ∨ opc = 0xB then 2
    else if opc = 8 ∨ opc = 9 ∨ (0xC ≤ opc ∧ opc ≤ 0xF) ∨ opc = 0x12 then 1 else 0
  | .ape =>
    if opc = 0 then 0 else if opc = 0x2A ∨ opc = 0x2B then 2
    else if opc = 0x23 ∧ fcvtWidens f then 2 else 1
  | .spe => if (6 ≤ opc ∧ opc ≤ 9) ∨ opc = 0x0B ∨ opc = 0x10 then 1 else 0
  | .mpe => if opc = 1 ∨ opc = 2 ∨ opc = 5 ∨ opc = 7 ∨ opc = 9 ∨ opc = 0xF then 1 else 0
  | .dpe => if opc = 0x12 then 1 else 0

/-- The latency of an op in ac (06 R160, 07 R191 and R212, 08 R246, 09 R279). A `st`, `stk` or
`stx` whose elements land in another core takes 24 ac (08 R244); it has no result. -/
def opLatency (k : PeKind) (opc : Nat) (f : OpF) : Nat :=
  match k with
  | .cpe =>
    match opc with
    | 0x01 => 10
    | 0x02 | 0x05 | 0x06 => 8
    | 0x03 | 0x04 => 12
    | 0x09 | 0x0F => 3
    | 0x08 | 0x0A | 0x0B | 0x0E | 0x12 | 0x13 => 2
    | _ => 1
  | .ape =>
    match opc with
    | 0x05 | 0x06 | 0x07 | 0x18 | 0x19 | 0x1C | 0x1D | 0x1E | 0x2D => 3
    | 0x1A | 0x1B => 4
    | 0x1F | 0x20 => 6
    | 0x21 | 0x22 => 8
    | 0x27 | 0x28 | 0x29 => 5
    | 0x16 | 0x17 | 0x23 | 0x24 | 0x25 | 0x26 | 0x2A | 0x2B | 0x2C | 0x2E | 0x34 => 2
    | _ => 1
  | .spe => 1
  | .mpe =>
    match opc with
    | 0x01 | 0x02 => 6
    | 0x03 | 0x04 => 4
    | 0x05 | 0x06 | 0x09 => 8
    | 0x07 | 0x08 => if f.mod.getLsbD 0 then 24 else 4
    | _ => 1
  | .dpe => if opc = 0x12 then 2 else 1

/-- The operands that an op reads (06 R162 to R183, 07 R191 and R212, 08 R246, 09 R279). -/
def opReads (k : PeKind) (opc : Nat) (f : OpF) : Bool × Bool × Bool :=
  match k with
  | .cpe =>
    match opc with
    | 0x01 | 0x02 | 0x03 | 0x04 | 0x05 | 0x06 | 0x13 => (true, true, false)
    | 0x08 | 0x0E | 0x10 | 0x11 | 0x12 | 0x17 | 0x18 | 0x19 => (true, false, false)
    | 0x09 | 0x0A | 0x0B | 0x0C | 0x0F => (true, true, true)
    | 0x0D => (true, true, f.modBits 0 0 = 0)
    | _ => (false, false, false)
  | .ape =>
    match opc with
    | 0x00 => (false, false, false)
    | 0x0A | 0x0B | 0x16 | 0x17 | 0x1F | 0x20 | 0x21 | 0x22 | 0x2F | 0x31 | 0x32 =>
      (true, false, false)
    | 0x07 | 0x15 | 0x1B | 0x2C | 0x2E | 0x30 | 0x34 => (true, true, true)
    | 0x23 => (true, typeWidth f.ty < typeWidth (fcvtSrc (f.modBits 1 0)), false)
    | 0x27 | 0x28 | 0x29 => (true, f.modBits 0 0 = 1, false)
    | _ => (true, true, false)
  | .spe =>
    match opc with
    | 0x01 | 0x0A => (true, false, false)
    | 0x02 | 0x08 | 0x09 | 0x10 | 0x0B => (true, true, false)
    | 0x0C => (true, true, true)
    | _ => (false, false, false)
  | .mpe =>
    match opc with
    | 0x02 | 0x03 | 0x05 | 0x07 | 0x0B | 0x0C | 0x0D => (true, false, false)
    | 0x04 | 0x06 | 0x0A => (true, true, false)
    | 0x08 => (true, true, true)
    | _ => (false, false, false)
  | .dpe => (opc = 0x12 && f.modBits 2 0 ≤ 4, false, false)

/-- The latch and write-enable fields suit the number of results (04 R95, R99, R100), and the
address word of the DPE slot is zero (R100). -/
def opDestsOk (k : PeKind) (opc : Nat) (f : OpF) : Bool :=
  (0 < opResults k opc f || (!f.we && f.l0c ≠ 1 && f.l1c ≠ 1))
    && (k ≠ .dpe || f.addr == 0#16)

end Sys2Proof
end

