-- ==== Sys2Proof/Machine/KernelState.lean ====
section
/-! DEFINITION. The state of a kernel and of its timing domain (05 R131 to R159): descriptor,
configuration, PEs with banks and folds (03, 06), streams (08), drain state (09), landings, trap
events and barriers (15). Every record is plain data. -/
namespace Sys2Proof.Machine

/-- A table keyed by small numbers, keys rising; an absent key stands for a fresh entry. -/
abbrev Tab (α : Type) := List (Nat × α)

/-- The entry at a key. -/
def Tab.get? {α : Type} : Tab α → Nat → Option α
  | [], _ => none
  | (a, v) :: t, k => if a = k then some v else Tab.get? t k

/-- The entry at a key, or the fresh entry. -/
def Tab.getD {α : Type} (t : Tab α) (k : Nat) (d : α) : α := (Tab.get? t k).getD d

/-- The table with the entry at a key replaced or added. -/
def Tab.put {α : Type} : Tab α → Nat → α → Tab α
  | [], k, v => [(k, v)]
  | (a, w) :: t, k, v =>
    if a = k then (k, v) :: t else if k < a then (k, v) :: (a, w) :: t else (a, w) :: Tab.put t k v

/-- Every entry replaced by a function of its key and value. -/
def Tab.mapVal {α : Type} (t : Tab α) (f : Nat → α → α) : Tab α := t.map fun e => (e.1, f e.1 e.2)

/-- The table without the entry at a key. -/
def Tab.del {α : Type} (t : Tab α) (k : Nat) : Tab α := t.filter fun e => e.1 ≠ k

/-! ### Descriptor and configuration -/

/-- The kernel descriptor (04 R110). -/
structure KDesc where
  ii : Nat := 1
  stages : Nat := 1
  rows : Nat := 1
  cols : Nat := 1
  flags : BitVec 8 := 0
  prio : Nat := 0
  restart : Nat := 0
  lc : Nat := 0
  cfgptr : Nat := 0
  strmptr : Nat := 0
  drnptr : Nat := 0
  copyptr : Nat := 0
  nstrm : Nat := 0
  ncopy : Nat := 0
  gslot : List (BitVec 8) := [255#8, 255#8, 255#8, 255#8]
deriving DecidableEq, Repr

/-- STRICT of FLAGS (04 R110). -/
def KDesc.strict (d : KDesc) : Bool := d.flags.getLsbD 0
/-- BCTRAP of FLAGS (04 R110). -/
def KDesc.bctrap (d : KDesc) : Bool := d.flags.getLsbD 1
/-- PINNED of FLAGS (04 R110). -/
def KDesc.pinned (d : KDesc) : Bool := d.flags.getLsbD 2
/-- The number of cores of the region. -/
def KDesc.cores (d : KDesc) : Nat := d.rows * d.cols

/-- A slot image: the three rings cut to their lengths, K and LIVE (04 R111). -/
structure SlotCfg where
  ops : List (BitVec 24) := [0]
  routes : List (BitVec 16) := [0]
  addrs : List (BitVec 16) := [0]
  k : Word := 0
  live : BitVec 32 := 0
deriving DecidableEq, Repr

/-- Kinds of stream (08 R226). -/
inductive StreamKind where
  | affine | indexed | unfold
deriving DecidableEq, Repr

/-- Delivered forms of a stream (08 R226, R229). -/
inductive Deliv where
  | raw | bq8 | bq16 | f32 | i32
deriving DecidableEq, Repr

/-- A stream descriptor (08 R226). -/
structure StreamDesc where
  core : Nat := 0
  mpe : Bool := false
  strm : Nat := 0
  kind : StreamKind := .affine
  store : Bool := false
  wlog : Nat := 12
  deliv : Deliv := .raw
  swz : Bool := false
  vmask : Bool := false
  base : Nat := 0
  pref : Nat := 64
  ret : Nat := 0
  esz : Nat := 1
  mdiv : Nat := 0
  swzm : Word := 0
  mbase : Nat := 0
  bounds : List Nat := [1, 1, 1, 1]
  strides : List Int := [0, 0, 0, 0]
  ih : Nat := 0
  iw : Nat := 0
  ch : Nat := 0
  kh : Nat := 0
  kw : Nat := 0
  sh : Nat := 0
  sw : Nat := 0
  ph : Nat := 0
  pw : Nat := 0
  oh : Nat := 0
  ow : Nat := 0
deriving DecidableEq, Repr

/-! ### PE state -/

/-- The mode of an accumulator bank: width selector and type (06 R164). -/
structure BankMode where
  w : Nat
  ty : Nat
deriving DecidableEq, Repr

/-- An accumulator bank: 4,096 cells and 4,096 fold registers of 32 bits, mode and FK (03 R86). -/
structure Bank where
  cells : BitVec 131072 := 0
  folds : BitVec 131072 := 0
  mode : Option BankMode := none
  fk : BitVec 6 := 0
deriving DecidableEq, Repr

/-- A captured interval on its way into the fold registers (03 R82, R83): the virtual cycle of the
capture, the captured cells and exponents, and whether the adders have finished. -/
structure Fold where
  bank : Bool
  cap : Nat
  w : Nat
  cells : BitVec 131072
  ea : BitVec 1024
  eb : BitVec 1024
  done : Bool := false
deriving DecidableEq, Repr

/-- The state of one PE slot (06 R164, 07 R205): latches, RRF of 32 entries, RRF parity-error marks,
and, for a CPE, its registers and banks, for an APE its sticky bad-code bit. The entries of an SPE
are 64 bits wide; they stand zero-extended. -/
structure Pe where
  l0 : Wide := 0
  l1 : Wide := 0
  rrf : BitVec 16384 := 0
  parity : BitVec 32 := 0
  gw : BitVec 32 := 0x00080808#32
  rm : Word := BitVec.allOnes 64
  ea : BitVec 1024 := 0
  eb : BitVec 1024 := 0
  sel : Bool := false
  bank0 : Bank := {}
  bank1 : Bank := {}
  folds : List Fold := []
  ro : Wide := 0
  sticky : Bool := false
deriving DecidableEq, Repr

/-- The bank of a number. -/
def Pe.bank (p : Pe) (b : Bool) : Bank := if b then p.bank1 else p.bank0
/-- A bank replaced. -/
def Pe.setBank (p : Pe) (b : Bool) (k : Bank) : Pe :=
  if b then { p with bank1 := k } else { p with bank0 := k }

/-! ### Streams -/

/-- The element format of a page (11 R314, 02 R55): the format index of its leaf, CODEC, and EFMT. -/
structure PageFmt where
  idx : Nat
  codec : Bool
  efmt : Nat
deriving DecidableEq, Repr

/-- A word in a stream's window: data, validity mask, and whether it has been used (08 R236,
R243). In a STORE window the mask names the lanes that are still to be written back (08 R244). -/
structure WinWord where
  data : Wide := 0
  mask : Word := 0
  used : Bool := false
  /-- the 4 KiB frames that its fill read, besides the region's own (11 R320) -/
  frames : List Nat := []
  /-- the word of a STORE window meets an uncorrectable error: its information (13 R378) -/
  bad : Option Nat := none
  /-- the path of its write-backs in a fault record: 3 where a `dst` wrote it (11 R327) -/
  path : Nat := 1
deriving DecidableEq, Repr

/-- A fill issued and not returned: its word, the virtual cycle of its issue, and, once that cycle has
ended, the bytes of the region's scratchpads as they stood then, by virtual address (08 R236). -/
structure Fill where
  word : Nat
  cyc : Nat := 0
  taken : Bool := false
  near : List (Nat × Nat) := []
  /-- the scratchpads of the region as they stood then, where an address of the fill did not translate -/
  pads : List (List Host.Cell) := []
  /-- the word was used before its fill reissued -/
  used : Bool := false
  /-- its bytes are charged (19 R463) -/
  paid : Bool := false
deriving DecidableEq, Repr

/-- An element on its way out of a STORE stream to memory other than the region's scratchpads: the
virtual cycle of its issue, the one at whose end it may be performed, and whether it is a write-back
of a window word (08 R244, R251). -/
structure FarStore where
  va : Nat
  bytes : List Nat
  cyc : Nat
  ready : Nat
  back : Bool
  /-- it is read from a word with an uncorrectable error: the information of 0x0402 (13 R378) -/
  bad : Option Nat := none
  /-- its path in a fault record (11 R327) -/
  path : Nat := 1
deriving DecidableEq, Repr

/-- A failure of a segment: the word, page or whole stream that failed, and its cause with its
information (08 R241). -/
structure SegFail where
  word : Option Nat := none
  page : Option Nat := none
  cause : BitVec 16
  info : Nat
  /-- its kernel trap event has been raised -/
  told : Bool := false
deriving DecidableEq, Repr

/-- The state of one stream (08 R236 to R257, 09 R269, R280). -/
structure StreamSt where
  u : Nat := 0
  pref : Nat := 64
  issued : Nat := 0
  win : Tab WinWord := []
  fills : List Fill := []
  exps : Tab (BitVec 1024) := []
  /-- the element format of the page of BASE, once translated (08 R227) -/
  fmt : Option PageFmt := none
  /-- the first translation of BASE failed, and every segment with it (08 R241) -/
  failed : Bool := false
  fails : List SegFail := []
  /-- pages with a fault outstanding (08 R241) -/
  pending : List Nat := []
  far : List FarStore := []
  filled : Word := 0
  used : Word := 0
  late : Word := 0
  evict : Word := 0
  lastMask : Word := 0
  bp : Nat := 0
  /-- the byte budget has refused its oldest far store (19 R464) -/
  broke : Bool := false
deriving DecidableEq, Repr

/-- An atomic message of a stream not yet sent (08 R252). -/
structure AtmMsg where
  pe : Nat
  ops : Nat
  key : Nat
  cyc : Nat
  va : Nat
  op : Nat
  ty : Nat
  value : Word
deriving DecidableEq, Repr

/-- An `sbar` in force on a core: the streams held, those awaited and the virtual cycle of its issue
(08 R253). -/
structure SbarHold where
  core : Nat
  hold : BitVec 24
  wait : BitVec 24
  cyc : Nat
deriving DecidableEq, Repr

/-! ### Drain state -/

/-- The drain that the drain path of a core is streaming (03 R88): the bank, the number of beats fixed
when the first beat starts, the next beat and the number of the drain. -/
structure CurDrain where
  cpe : Bool
  bank : Bool
  beats : Nat
  next : Nat := 0
  serial : Nat := 0
  /-- the later of the start cycle and the end of the prologue (09 R263) -/
  e : Nat := 0
deriving DecidableEq, Repr

/-- A beat accepted by the DPE and not past `dend` (09 R260, R263): its drain, index, beats of the
drain, data, private registers, the next body word, and the cycles of body word 0 before and past the
group wall. -/
structure Beat where
  serial : Nat
  b : Nat
  n : Nat
  data : Wide
  regs : BitVec 8192 := 0
  lens : List Nat := []
  k : Nat := 0
  t0 : Nat
  t1 : Nat
deriving DecidableEq, Repr

/-- The running reduction of one group of `dmax.grp` (09 R273): the maximum so far, an integer or the
pattern of a float. -/
structure GroupMax where
  serial : Nat
  g : Nat
  best : Option Int := none
deriving DecidableEq, Repr

/-- A partial word of an output stream of a drain; those of the prologue stand under drain 0
(09 R269). -/
structure Part where
  serial : Nat
  key : Nat
  bytes : List Nat
deriving DecidableEq, Repr

/-- The drain side of a core: the drain path (03 R88) and the DPE (09 R258 to R282). -/
structure DrainSt where
  queue : List (Bool × Bool) := []
  cur : Option CurDrain := none
  /-- drains begun in the round -/
  serials : Nat := 0
  image : List (BitVec 32) := []
  /-- the next prologue word; past `dloop` once the prologue has run -/
  pos : Nat := 0
  regs : BitVec 8192 := 0
  lens : List Nat := List.replicate 16 0
  beats : List Beat := []
  groups : List GroupMax := []
  parts : List Part := []
  /-- drains whose last beat has ended, with the cycle in which their partial words are padded -/
  pads : List (Nat × Nat) := []
  /-- the cycle of body word 0, past the group wall, of the last beat accepted (09 R263) -/
  wall : Nat := 0
  cr : Wide := 0
  /-- the beat that is read in this cycle (04 R98) -/
  head : Wide := 0
deriving DecidableEq, Repr

/-! ### Landings and events -/

/-- What a landing does to the machine (05 R136, 06 R184). -/
inductive LandAct where
  /-- results to the RRF entry and the latches named at issue; `two`: the op has two results -/
  | dest (rrf : Option Nat) (c0 c1 two : Bool) (r1 r2 : Wide)
  /-- a capture of an operand or a clear at the end of the issue cycle -/
  | latch (which : Bool) (v : Wide)
  | pred (core pd : Nat) (v : Bool)
  | scale (isB hi : Bool) (v : Wide)
  | rowp (v : Word)
  | outer (z : Bool) (w ty : Nat) (sat ftz : Bool) (rm : BitVec 2) (bank : Bool) (mask : Word)
      (a b : Wide)
  | fold (bank : Bool)
  | accclr (bank : Bool)
  | accwr (bank fr : Bool) (g : Nat) (v : Wide)
  | cset (bank : Bool) (w ty n : Nat)
  | bsel (bank : Bool)
  | gwset (v : BitVec 32)
  | readOut (v : Wide)
  /-- bad ternary code found (07 R205) -/
  | sticky
  /-- a kernel trap event with its item (05 R148, 04 R515) -/
  | event (cause : BitVec 16) (item : Nat)
  | arrive (bar : Nat)
  /-- bytes of memory at a physical address, written where `en` is set; the stream whose access it is, the cycle of its
  issue and the virtual address of the first byte -/
  | bytes (pa : Nat) (v en : List Nat) (of_ : Option (Nat × Nat × Nat) := none)
  | ldxMask (key : Nat) (mask : Word)
  /-- bytes of the conversion register, then its value to the latches (09 R279) -/
  | cr (mask v : Wide) (c0 c1 : Bool)
  | signal (dest : Word) (data addend : Word)
deriving DecidableEq, Repr

/-- A landing: the virtual cycle at whose end it takes effect, the PE (16·core + slot), the op slot
and the effect. -/
structure Landing where
  cyc : Nat
  pe : Nat
  ops : Nat
  act : LandAct
deriving DecidableEq, Repr

/-- What the landing-record area keeps of an op in flight (16 R411): form, cycle, PE, destination and
latch bytes, op word, GW, bank, RM, XPOS and three values. -/
structure OpRec where
  cyc : Nat
  pe : Nat
  form : Nat
  dst : Nat
  lat : Nat
  opw : BitVec 24
  gw : BitVec 32
  bank : Bool
  rm : Word
  xpos : Nat
  v0 : Wide
  v1 : Wide
  v2 : Wide
deriving DecidableEq, Repr

/-- A kernel trap event awaiting a boundary (05 R148): VCC, PE (none orders after every PE), op
slot, index, cause and htval. -/
structure TrapEvent where
  vcc : Nat
  pe : Nat
  ops : Nat
  idx : Nat
  cause : BitVec 16
  info : Word
deriving DecidableEq, Repr

/-- A remote barrier arrival in flight and the virtual cycle at whose end it is counted at the
latest (07 R217). -/
structure Arrival where
  due : Nat
  bar : Nat
  /-- the domain has stood since: the 24 cycles end before `due` -/
  loose : Bool := false
deriving DecidableEq, Repr

/-! ### Posted operations and effects of engines -/

/-- A posted operation on its way to a pool bank or a codec home (13 R370, 08 R252, 12 R348). -/
inductive BankOp where
  /-- `pred.f32` -/
  | fadd (src pa : Nat) (v : BitVec 32)
  /-- `pred.fx` -/
  | fx (src pa : Nat) (v : Word)
  /-- `atm` of a kernel: AOP and TYP of 08 R252, and the PE and op slot that it is of -/
  | atm (src pa : Nat) (op ty : Nat) (v : Word) (pe : Nat := 0) (ops : Nat := 0)
  /-- bytes written to a codec page -/
  | merge (src pa : Nat) (v en : List Nat)
deriving DecidableEq, Repr

/-- What an engine does to memory: bytes at virtual addresses with a mask of bits each, to the shadow of
a published buffer where one is named; a completion add; an addition at a pool bank; a publish. -/
inductive FlightAct where
  | bytes (vas v mask : List Nat) (shadow : Option Nat)
  | count (va : Nat) (inc : BitVec 32)
  | redu (va n v : Nat) (float : Bool) (shadow : Option Nat)
  | publish (handle : Nat)
deriving DecidableEq, Repr

/-- What the strict-mode store buffer holds: stores, arrivals, with the virtual cycle at whose end one at another core's
barrier is counted at the latest, and messages (05 R147, 07 R217, R221), and the posted operations, completion adds and
publishes of the round (log entry 44). `va` is the virtual address of the first byte where a translation gave the place,
and whether that translation has been dropped since (11 R324; log entry 46). -/
inductive BufEnt where
  | store (pe pa : Nat) (v en : List Nat) (va : Option (Nat × Bool) := none)
  | arrive (bar : Nat) (due : Option Nat := none)
  | signal (core : Nat) (dest : Word) (data addend : Word)
  | bank (b : BankOp) (va : Option (Nat × Bool) := none)
  | count (pa : Nat) (inc : BitVec 32) (va : Option (Nat × Bool) := none)
  | publish (handle : Nat)
deriving DecidableEq, Repr

/-- What a domain has still to do in a virtual cycle: issue an op, accept a drain beat, run a drain
word or pad a partial word. -/
inductive Site where
  | op (core slot : Nat)
  | beat (core : Nat)
  | word (core : Nat) (beat : Option (Nat × Nat))
  | pad (core : Nat)
deriving DecidableEq, Repr

/-- Where a domain stands in its virtual cycle: before a rotation, before the late accesses are known,
at issue, or behind its landings, where TIMED copies move their beats. -/
inductive Phase where
  | rotate | check | issue | beats
deriving DecidableEq, Repr

/-- The state of a round of a kernel (05 R135 to R149) with its PEs, streams, drains and barriers.
A snapshot or a save is a value of this type. -/
structure Run where
  vcc : Nat := 0
  start : Nat := 0
  iter : Nat := 0
  ro : Nat := 0
  lim : Nat := 0
  stage : BitVec 8 := 0
  preds : Tab (BitVec 8) := []
  kexit : Option Bool := none
  strict : Bool := false
  /-- issue has stopped at a retirement instant -/
  retired : Bool := false
  phase : Phase := .rotate
  todo : List Site := []
  /-- bank conflicts of this cycle have been served (05 R145) -/
  served : Bool := false
  /-- bytes of this cycle's requests are charged (19 R464) -/
  paused : Bool := false
  pes : Tab Pe := []
  streams : Tab StreamSt := []
  drains : Tab DrainSt := []
  land : List Landing := []
  recs : List OpRec := []
  atms : List AtmMsg := []
  sbars : List SbarHold := []
  events : List TrapEvent := []
  /-- held in the middle of an entry by a stop while paused on `bwt` (07 R219) -/
  midEntry : Bool := false
deriving DecidableEq, Repr

/-- The states of a kernel (05 R132). -/
inductive KState where
  | waiting | loaded | running | stopped | frozen | retired | moving | saved
deriving DecidableEq, Repr

/-- The code that `kstat` returns (05 R132). -/
def KState.code : KState → Nat
  | .waiting => 1 | .loaded => 2 | .running => 3 | .stopped => 4
  | .frozen => 5 | .retired => 6 | .moving => 7 | .saved => 8

/-- A kernel: an allocated entry of a context's kernel table (05 R131). -/
structure Kernel where
  state : KState := .waiting
  /-- SAVED, its region released (16 R405, R409) -/
  away : Bool := false
  /-- SAVED without its context (16 R409) -/
  alone : Bool := false
  desc : KDesc := {}
  cfg : List SlotCfg := []
  strms : List StreamDesc := []
  cluster : Nat := 0
  /-- logical core index of the region's origin (05 R141) -/
  origin : Nat := 0
  /-- order of `kld`, and of the last fork or placement (05 R142) -/
  order : Nat := 0
  used : Nat := 0
  /-- some `kfork` has started a round of it (05 R142) -/
  forked : Bool := false
  lc : Nat := 0
  ec : Nat := 0
  run : Run := {}
  snap : Option Run := none
  /-- the barrier set and the arrivals on their way at the last restart boundary (16 R410) -/
  snapBars : Tab Word := []
  snapArrivals : List Arrival := []
  buffer : List BufEnt := []
  arrivals : List Arrival := []
  bars : Tab Word := []
  /-- the last of the host's events at each barrier since the last virtual cycle, by its place in their order (15 R395)
  -/
  hostEvs : Tab Nat := []
  stopReq : Bool := false
  moveReq : Bool := false
  saveReq : Bool := false
  /-- GTC of the last move of the region (05 R143) -/
  lastMove : Option Nat := none
  /-- origin to which the region moves (05 R143) -/
  target : Nat := 0
  cause : BitVec 16 := 0
  info : Word := 0
  delivered : Bool := true
  strictRound : Bool := false
  /-- state before SAVED (05 R133) -/
  savedFrom : KState := .waiting
  /-- copy engines forked with the round -/
  engines : List Nat := []
  /-- scratchpads of the region while it is saved (16 R409, R414), by region-relative core -/
  spads : List (List Host.Cell) := []
  /-- queue and entry of a kernel that a queue launched (17 R437) -/
  owner : Option (Nat × Nat) := none
  /-- loaded for a timetable, its controller and engines reserved (17 R438) -/
  armed : Bool := false
deriving DecidableEq, Repr

end Sys2Proof.Machine
end

