-- ==== Sys2Proof/Machine/State.lean ====
section
/-! DEFINITION. The whole machine state of the PL960-M as plain data, with the faults, the refusals
and the state after reset. INVENTORY.md lists every field with the rule that names it. -/
namespace Sys2Proof.Machine

/-! ### Agents -/

/-- The unit on the move: the indices that the instruction being executed acts through. -/
structure Focus where
  thr : Nat := 0
  ctx : Nat := 0
  kern : Nat := 0
  core : Nat := 0
  slot : Nat := 0
  /-- op-ring index of the op on the move -/
  ops : Nat := 0
  /-- the beat of a drain word: drain serial and index; none in the prologue -/
  beat : Option (Nat × Nat) := none
  eng : Nat := 0
  queue : Nat := 0
  lane : Nat := 0
deriving DecidableEq, Repr

/-! ### Memory -/

/-- DMASK and the four DELTAs of a replica-set entry (11 R321). -/
structure Replicas where
  dmask : BitVec 4 := 0
  deltas : List Int := []
deriving DecidableEq, Repr

/-- A cached translation (11 R323): cluster, ASID, virtual and physical page base, page size, the
leaf, and of a replicated page its replica set. -/
structure TlbEnt where
  clu : Nat
  asid : Nat
  va : Nat
  pa : Nat
  size : Nat
  leaf : Word
  /-- fetch-map words of the page, cached with it (11 R332) -/
  maps : Tab Word := []
  reps : Replicas := {}
  /-- every frame of the page has been compared with the leaf: the walk was not inside a published buffer (11 R319,
  13 R372) -/
  whole : Bool := true
deriving DecidableEq, Repr

/-- The attributes of a 4 KiB frame (11 R318). -/
structure FrameAttr where
  pol : Nat := 0
  codec : Bool := false
  cri : Nat := 0
deriving DecidableEq, Repr

/-- A write-combining buffer (13 R356): its 128-byte line and the bytes it holds. -/
structure WcBuf where
  base : Nat
  bytes : List (Nat × Byte) := []
  /-- context and cluster, where the mapping counts its requests (11 R330) -/
  count : Option (Nat × Nat) := none
deriving DecidableEq, Repr

/-- An entry of the codec region table (12 R336). -/
structure CodecEnt where
  cfg : Word := 0
  dbase : Word := 0
  nfr : Word := 0
  estore : Word := 0
  acc : Word := 0
  /-- the reserved bytes 0x28 to 0x3F: nothing writes them (00 R7) -/
  rsv : List Word := [0, 0, 0]
deriving DecidableEq, Repr

/-! ### Host threads (00 R3, 16 R415) -/

/-- What a host thread is doing. A thread in a wait re-executes its waiting instruction when it
becomes ready again. -/
inductive ThrSt where
  /-- no context runs it -/
  | off
  | ready
  /-- a line of the L1 is on its way (08 R245): its physical address, and ACNT of its mapping -/
  | miss (line : Nat) (acnt : Bool)
  /-- a byte budget is spent (19 R464) -/
  | budget
  /-- waiting on a fault record (11 R327) -/
  | faultWait
  | krdv (kh : Nat)
  | cwait
  | bwait
  | mwait
  | kfork (kh : Nat)
  /-- an acknowledgement is awaited (18 R456) -/
  | sigst
  /-- its context is FAULTED by its trap (16 R420, R422) -/
  | stopped
deriving DecidableEq, Repr

/-- An asynchronous cause for a thread (16 R422). -/
structure AsyncCause where
  cause : BitVec 16
  kt : Bool
  info : Word
deriving DecidableEq, Repr

/-- A watch (15 R399): virtual address, comparand, condition, armed, and the physical address of the
line watched. -/
structure Watch where
  va : Nat := 0
  cmp : Word := 0
  cond : BitVec 3 := 0
  armed : Bool := false
  pa : Nat := 0
deriving DecidableEq, Repr

/-- A host thread (00 R3, 04 R119 to R122, 16 R415). -/
structure Thr where
  st : ThrSt := .off
  ctx : Nat := 0
  x : Vector Word 32 := Vector.replicate 32 0
  pc : Word := 0
  f : Vector Word 32 := Vector.replicate 32 0
  fcsr : Byte := 0
  htvec : Word := 0
  hcause : Word := 0
  hepc : Word := 0
  htval : Word := 0
  kctl : Word := 0
  scsel : Word := 0
  aesel : Word := 0
  esel : Word := 0
  /-- arrival token (15 R398) -/
  token : Option (Word × BitVec 16) := none
  watch : Watch := {}
  /-- causes that have arrived and wait for the next instruction -/
  inbox : List AsyncCause := []
  /-- the pending entries, at most four (16 R422) -/
  pend : List AsyncCause := []
  /-- lease: level and the GTC of its end (19 R468) -/
  lease : Option (Nat × Nat) := none
  /-- a message awaiting its acknowledgement (18 R456) -/
  msg : Nat := 0
  /-- groups whose abort holds the thread (14 R384) -/
  holds : List Nat := []
  /-- it has been woken from a `bwait` that it has not yet executed again (15 R398) -/
  again : Bool := false
  /-- the next transfer of an access of its own meets a second parity error, at a core (13 R377) -/
  upset : Option Nat := none
deriving DecidableEq, Repr

/-! ### Copy engines (10 R283 to R304) -/

/-- A buffer descriptor (10 R284). -/
structure Buf where
  base : Nat := 0
  esz : Nat := 0
  swz : Bool := false
  shadow : Bool := false
  bounded : Bool := false
  index : Bool := false
  ixb : Nat := 0
  nrow : Nat := 0
  pitch : Nat := 0
  ncol : Nat := 0
  swzm : Word := 0
  mbase : Nat := 0
  shandle : Nat := 0
deriving DecidableEq, Repr

/-- A launch record (10 R283) with its start offsets, read at launch. -/
structure Launch where
  nent : Nat := 1
  entptr : Nat := 0
  timed : Bool := false
  repeat_ : Nat := 1
  tperiod : Nat := 0
  statptr : Nat := 0
  bufs : List Buf := []
  ctrs : List Nat := []
  tstart : List Nat := []
deriving DecidableEq, Repr

/-- The states of a copy engine (10 R286). -/
inductive EngSt where
  | free | armed | running | waiting | stopped | faulted | done
deriving DecidableEq, Repr

/-- The code that `cstat` returns (10 R286). -/
def EngSt.code : EngSt → Nat
  | .free => 0 | .armed => 1 | .running => 2 | .waiting => 3 | .stopped => 4 | .faulted => 5
  | .done => 6

/-- An effect of a timed engine on its way and the virtual cycle at whose end it lands (10 R300). -/
structure Flight where
  due : Nat
  act : FlightAct
  /-- the format that the page of an element must carry (10 R284) -/
  fmt : Option PageFmt := none
deriving DecidableEq, Repr

/-- A copy engine (10 R286). -/
structure Engine where
  st : EngSt := .free
  /-- context that holds the engine by ASSIGN (17 R430) -/
  own : Option Nat := none
  /-- context that last held it (16 R402) -/
  last : Option Nat := none
  thr : Option Nat := none
  /-- queue and entry that launched it -/
  queue : Option (Nat × Nat) := none
  kern : Option Nat := none
  launch : Launch := {}
  recva : Nat := 0
  serial : Nat := 0
  run : Nat := 0
  entry : Nat := 0
  /-- elements of the entry performed -/
  elem : Nat := 0
  /-- bounds of the entry in hand, and its elements to a beat (10 R300) -/
  bounds : List (BitVec 16) := []
  nb : Nat := 1
  stg : Word := 0
  cause : BitVec 16 := 0
  addr : Nat := 0
  /-- the state to return to after STOPPED -/
  before : EngSt := .running
  /-- a stop is asked for by a group abort (14 R384) -/
  halted : Bool := false
  groups : List Nat := []
  /-- order of finishing (10 R306) -/
  fin : Nat := 0
  /-- start VCC of the round of a TIMED record -/
  start : Nat := 0
  /-- element formats of buffers touched -/
  fmts : Tab PageFmt := []
  /-- the mask of the row in hand (10 R289) -/
  rowMask : Word := 0
  /-- the last element of the row is written, the row's mask is not (10 R303) -/
  maskDue : Bool := false
  /-- the value of a FILL (10 R293) -/
  fillVal : Option Nat := none
  flights : List Flight := []
  /-- the state that a status record, not yet written, announces (10 R304) -/
  bound : Option EngSt := none
  /-- data returned by peers, by access of the entry (18 R453) -/
  replies : Tab (List Byte) := []
  /-- reserved for an armed unit of a timetable (17 R438) -/
  held : Bool := false
  /-- the write of the status record waits on a fault record (10 R304) -/
  recWait : Bool := false
  /-- the number that its handles carry, where a restore has put it on another engine (16 R416; log entry 12) -/
  name : Option Nat := none
deriving DecidableEq, Repr

/-! ### Transducer lanes (20 R484 to R494) -/

/-- A job record (20 R486). -/
structure Job where
  nclass : Nat := 1
  clog : Nat := 12
  nstate : Nat := 1
  s0 : Nat := 0
  taila : Bool := false
  tailc : Bool := false
  scope : Nat := 0
  outbuf : Nat := 0
  cmap : Nat := 0
  table : Nat := 0
  accpt : Nat := 0
  inptr : Nat := 0
  inlen : Nat := 1
  firstc : Nat := 0
  oslot : Nat := 64
  ctra : Nat := 0
  ctrinc : Word := 0
  statptr : Nat := 0
deriving DecidableEq, Repr

/-- A sub-stream (20 R488). -/
structure SubStream where
  chunk : Option Nat := none
  pos : Nat := 0
  s : Nat := 0
  a : BitVec 32 := 0
  c : BitVec 32 := 0
  h : Nat := 0
  n : Nat := 0
  /-- the page on whose fault record the chunk stalls -/
  stall : Option Nat := none
deriving DecidableEq, Repr

/-- The states of a lane (20 R493). -/
inductive LaneSt where
  | off | free | idle | armed | running | stopped | failed | done
deriving DecidableEq, Repr

/-- The code that `lstat` returns (20 R493). -/
def LaneSt.code : LaneSt → Nat
  | .armed => 1 | .running => 2 | .stopped => 4 | .failed => 5 | .done => 6 | _ => 0

/-- A lane (20 R493, R494). -/
structure Lane where
  st : LaneSt := .free
  own : Option Nat := none
  thr : Option Nat := none
  queue : Option (Nat × Nat) := none
  groups : List Nat := []
  job : Job := {}
  recva : Nat := 0
  serial : Nat := 0
  /-- the class map, the table and the accept bitmap, once loaded (20 R488) -/
  loaded : Bool := false
  /-- a group abort stops the job (14 R384) -/
  halted : Bool := false
  cmap : List Nat := []
  table : List Nat := []
  accept : Nat := 0
  subs : List SubStream := List.replicate 8 {}
  next : Nat := 0
  /-- lengths of the complete chunks (20 R490) -/
  lens : Tab Nat := []
  /-- the lowest chunk that has failed in the lane cycle in hand (20 R491) -/
  failing : Option Nat := none
  /-- the state that a status record, not yet written, announces -/
  bound : Option LaneSt := none
  /-- steps of the commit that are behind the job (20 R490) -/
  stage : Nat := 0
  /-- the page on whose fault record the load, the commit or the status record stalls -/
  stall : Option Nat := none
  fail : Nat := 0
  cause : BitVec 16 := 0
  chcause : BitVec 16 := 0
  addr : Nat := 0
  /-- the trap information that goes with the cause -/
  info : Word := 0
deriving DecidableEq, Repr

/-! ### Contexts (16 R401 to R406) -/

/-- The fields of a translation block that the last load or INVAL took in, with the queue positions
(11 R313). -/
structure XlBlock where
  base : Nat := 0
  ptroot : Nat := 0
  asid : Nat := 0
  acthr : Nat := 0
  fmbase : Nat := 0
  rstbase : Nat := 0
  fqbase : Nat := 0
  fqlog : Nat := 0
  nqlog : Nat := 0
  nqbase : Nat := 0
  ndrop : Nat := 0
  fqp : Nat := 0
  fqc : Nat := 0
  nqp : Nat := 0
  nqc : Nat := 0
deriving DecidableEq, Repr

/-- Who waits on a fault (11 R327, R328); an entry of a queue by queue + 64·index. -/
inductive Waiter where
  | host (thr : Nat)
  | stream (kern key : Nat)
  | copy (eng : Nat)
  | lane (l : Nat)
  | queue (entry : Nat)
deriving DecidableEq, Repr

/-- An outstanding fault of a context (11 R327); `posted` once its record stands in the queue at `at_`. -/
structure FaultRec where
  fid : Nat
  page : Nat
  va : Nat
  cause : BitVec 16
  path : Nat
  acc : Nat
  unit : Nat
  gtc : Nat
  posted : Bool
  waiters : List Waiter
  /-- the virtual addresses of waiting accesses that joined it -/
  own : List (Waiter × Nat) := []
  /-- place of the posted record in the queue: its number and its physical address -/
  pos : Nat := 0
  at_ : Nat := 0
deriving DecidableEq, Repr

/-- A published-buffer entry as the last covering INVAL took it in (13 R371). -/
structure PubEnt where
  vabase : Nat
  npg : Nat
  cur : Bool
  p0 : Nat
  p1 : Nat
  valid : Bool
  /-- V as it was taken in -/
  vset : Bool := true
deriving DecidableEq, Repr

/-- The states of a context (16 R403). -/
inductive CtxSt where
  | empty | loading | ready | running | frozen | saved | restoring | faulted | killing | released
deriving DecidableEq, Repr

/-- The code in CSTAT (16 R403). -/
def CtxSt.code : CtxSt → Nat
  | .empty => 0 | .loading => 1 | .ready => 2 | .running => 3 | .frozen => 4 | .saved => 5
  | .restoring => 6 | .faulted => 7 | .killing => 8 | .released => 9

/-- The context object (16 R401). -/
structure CtxObj where
  prio : Nat := 0
  maxcores : Nat := 1
  threads : BitVec 128 := 0
  xlate : Nat := 0
  fmttab : Nat := 0
  grptab : Nat := 0
  pubtab : Nat := 0
  qtab : Nat := 0
  savebase : Nat := 0
  savelen : Nat := 0
  entry : Word := 0
  arg : Word := 0
deriving DecidableEq, Repr

/-- The states of a group (14 R382). -/
inductive GroupSt where
  | free | filled | active | aborting | unwound
deriving DecidableEq, Repr

/-- The code in a group entry (14 R382). -/
def GroupSt.code : GroupSt → Nat
  | .free => 0 | .filled => 1 | .active => 2 | .aborting => 3 | .unwound => 4

/-- A group entry (14 R380) with the agreement in progress (14 R385). -/
structure Group where
  st : GroupSt := .free
  cstep : Word := 0
  astep : Word := 0
  reason : BitVec 16 := 0
  nexcl : Nat := 0
  threads : BitVec 128 := 0
  /-- remote packages: identity and group index there -/
  remotes : List (Word × Nat) := []
  /-- GTC of the first token -/
  since : Nat := 0
  /-- the package that collects the reports: the one that first entered ABORTING -/
  collector : Word := 0
  /-- reports received: package and step -/
  reports : List (Word × Word) := []
  excluded : List Word := []
  /-- this package has reported -/
  reported : Bool := false
deriving DecidableEq, Repr

/-- An endpoint (18 R451) as the last INVAL took it in. -/
structure Endpoint where
  pkgid : Word := 0
  vbase : Nat := 0
  rbase : Nat := 0
  npg : Nat := 0
  rctx : Nat := 0
  ord : Bool := false
  vc : Nat := 0
  valid : Bool := false
  lcause : BitVec 16 := 0
  nfail : Word := 0
deriving DecidableEq, Repr

/-- The states of a queue (17 R435). -/
inductive QueueSt where
  | disabled | idle | active | draining | error
deriving DecidableEq, Repr

/-- The code in a queue descriptor (17 R431). -/
def QueueSt.code : QueueSt → Nat
  | .disabled => 0 | .idle => 1 | .active => 2 | .draining => 3 | .error => 4

/-- What a dispatched queue entry waits for (17 R432). -/
inductive QWork where
  | kernel (kh : Nat)
  | engine (e : Nat)
  | lane (l : Nat)
  | timetable
  | fence
  /-- complete as soon as it is dispatched -/
  | now
deriving DecidableEq, Repr

/-- A dispatched entry that is not yet complete (17 R432). -/
structure QRun where
  idx : Nat
  work : QWork
  ctr : Nat
  ctrinc : Word
  /-- dispatched before the queue was last enabled: it does not count in DONE -/
  old : Bool := false
deriving DecidableEq, Repr

/-- A unit of a timetable (17 R438): its kind, start, the unit once armed, whether it has started. -/
structure TtUnit where
  entry : Nat
  tstart : Nat
  kind : Nat
  clu : Nat
  lane : Nat
  desc : Nat
  /-- the kernel handle, engine or lane once armed -/
  armed : Option Nat := none
  started : Bool := false
deriving DecidableEq, Repr

/-- A timetable in force (17 R438). -/
structure Timetable where
  idx : Nat
  group : Nat
  units : List TtUnit
deriving DecidableEq, Repr

/-- A queue (17 R431). -/
structure Queue where
  st : QueueSt := .disabled
  ring : Nat := 0
  log : Nat := 4
  prio : Nat := 0
  tsub : Bool := false
  kick : Nat := 0
  cons : Nat := 0
  done : Nat := 0
  err : Nat := 0
  errcause : BitVec 16 := 0
  pqn : Option Nat := none
  erridx : Nat := 0
  errinfo : Word := 0
  /-- the head: whether it was read and the GTC at which it became ready (17 R436) -/
  since : Nat := 0
  runs : List QRun := []
  tables : List Timetable := []
  /-- the entry at the head, once it has been read (17 R433) -/
  head : Option (List Byte) := none
deriving DecidableEq, Repr

/-- What a save keeps of the units that it gives back (16 R414, 19 R472): the engines of the context,
and the suspended leases: thread, level, remaining GTC ticks. -/
structure Image where
  leases : List (Nat × Nat × Nat) := []
  engines : Tab Engine := []
deriving DecidableEq, Repr

/-- A context slot (16 R401 to R406). -/
structure Ctx where
  st : CtxSt := .empty
  obj : CtxObj := {}
  nest : Bool := false
  orig : BitVec 16 := 0
  thr : Nat := 0
  cause : BitVec 16 := 0
  cinfo : Word := 0
  serial : Nat := 0
  gen : BitVec 8 := 0
  xl : XlBlock := {}
  kernels : Tab Kernel := []
  faults : List FaultRec := []
  nextFid : Nat := 0
  pubs : Tab PubEnt := []
  groups : Tab Group := []
  eps : Tab Endpoint := []
  /-- pins of ordered streams: peer package, VC and port (18 R457) -/
  pins : List (Word × Nat × Nat) := []
  queues : Tab Queue := []
  energy : Tab (BitVec 49) := []
  image : Option Image := none
  /-- forked engines at the last restart boundary, by kernel (05 R147, 10 R303) -/
  snaps : Tab (Tab Engine) := []
  /-- arbiters that have not acknowledged a kill (16 R418) -/
  acks : List Nat := []
  /-- to be saved and restored by a firmware switch (false) or the thermal emergency (true)
  (17 R442, 19 R474) -/
  auto : Option Bool := none
  /-- engines that the freeze of the context stopped (10 R286) -/
  froze : List Nat := []
  /-- threads that held a lease at the critical mark (19 R474) -/
  stops : List Nat := []
  /-- the slot was RELEASED before CREATE (11 R313) -/
  wasReleased : Bool := false
deriving DecidableEq, Repr

/-! ### Vetar (18 R445 to R459) -/

/-- The states of a port (18 R448). -/
inductive PortSt where
  | down | training | up | shedding | degraded | failed
deriving DecidableEq, Repr

/-- The code in PSTAT (18 R448). -/
def PortSt.code : PortSt → Nat
  | .down => 0 | .training => 1 | .up => 2 | .shedding => 3 | .degraded => 4 | .failed => 5

/-- A port (18 R448, R449). -/
structure Port where
  st : PortSt := .down
  replay : BitVec 32 := 0
  retrain : BitVec 16 := 0
  lanes : BitVec 2 := 0
  rate : Nat := 896
  /-- GTC of the start of the training or retraining in progress -/
  since : Nat := 0
  /-- the retraining is a widening -/
  widen : Bool := false
deriving DecidableEq, Repr

/-- The sender of a message (18 R456, R453). -/
inductive Sender where
  | thread (t : Nat)
  | spe
  | engine (e : Nat)
  /-- another package -/
  | remote
deriving DecidableEq, Repr

/-- What a message asks for (18 R453, R455). -/
inductive MsgKind where
  | signal (data : List Nat) (addend : Word)
  /-- n bytes, and the element address that their scale goes by where they are decoded -/
  | read (len : Nat) (at_ : Option Nat)
  /-- bytes with a mask of bits each -/
  | write (bytes mask : List Nat)
  /-- a reduction: float or integer addition of a value of some bytes (10 R294) -/
  | redu (len : Nat) (v : Nat)
  | add (v : Word)
deriving DecidableEq, Repr

/-- A message in flight (18 R453 to R458): source and destination packages, the sender's context and
handle there, address of data and counter at the peer. -/
structure Msg where
  id : Nat
  sender : Sender
  src : Word
  dst : Word
  sctx : Nat
  rctx : Nat
  ep : Nat
  kind : MsgKind
  va : Nat
  ctr : Nat := 0
  local_ : Nat := 0
  port : Nat
  ord : Bool
  vc : Nat
  gen : BitVec 8 := 0
  /-- the format that the pages at the peer must carry (10 R284) -/
  fmt : Option PageFmt := none
  /-- the cause with which it was performed or refused, and the data read, once at the peer -/
  answer : Option (BitVec 16 × List Byte) := none
deriving DecidableEq, Repr

/-- The limits of the configuration record (01 R35). -/
structure Limits where
  coreret : BitVec 1024 := 0
  copydis : BitVec 128 := 0
  lanedis : BitVec 512 := 0
  vetdis : BitVec 128 := 0
  opmin : BitVec 32 := 0
  psust : BitVec 16 := 0
  psprint : BitVec 16 := 0
  tcrit : Byte := 0
  trel : Byte := 0
deriving DecidableEq, Repr

/-- What firmware and the fixed logic beside it do of their own accord, with no row in the opcode table: firmware
extends a measurement register with a load of its own, tightens the fixed limits, or asks for an attestation quote
(01 R36, R38, R39; 17 R443); the fixed logic answers a power draw above a ceiling by lowering an operating point and
the budgets of the clusters (19 R465). -/
inductive FwAct where
  | extend (i : Nat) (item : List Byte)
  | tighten (l : Limits)
  | quote (nonce : List Byte)
  | overPower (watts : Nat) (sustained : Bool) (rail : Rail) (op : BitVec 2) (buds : List Nat)
deriving DecidableEq, Repr

/-- An uncorrectable error in a store or on a path without a physical address (13 R377): a word of a stream's window;
a second parity error of a transfer that a host thread, a copy engine or a lane waits on, at a core. -/
inductive Upset where
  | window (ctx kern key word : Nat)
  /-- an RRF entry of a PE that has no copy (05 R150) -/
  | entry (ctx kern pe n : Nat)
  | thread (thr core : Nat)
  | engine (eng core : Nat)
  | lane (l core : Nat)
deriving DecidableEq, Repr

/-- Who moves next (log entry 1). -/
inductive Agent where
  | host (thr : Nat)
  | domain (ctx kern : Nat)
  | copy (eng : Nat)
  | queue (ctx q : Nat)
  | command
  | lane (l : Nat)
  | clock (n : Nat)
  /-- a message of another package reaches this one -/
  | arrival (m : Msg)
  | event (i : Instr) (at_ : Focus)
  | firmware (a : FwAct)
  | upset (u : Upset)
deriving DecidableEq, Repr, Inhabited

/-- What the package has sent to the outside world: MSI-X signals, abort tokens, reports, agreement
results and answers (17 R429, 14 R384 to R386, 18 R453). -/
inductive Sent where
  | msix
  | token (dst : Word) (g : Nat) (origin : Word) (reason : BitVec 16)
  | report (dst : Word) (g : Nat) (step : Word)
  | result (dst : Word) (g : Nat) (step : Word) (nexcl : Nat)
  /-- the answer to a message of another package: its context and handle there, cause and data -/
  | answer (dst : Word) (ctx : Nat) (handle : Nat) (cause : BitVec 16) (data : List Byte)
  /-- an attestation quote (01 R39) -/
  | quote (sig : List Byte)
deriving DecidableEq, Repr

/-! ### Device registers, power, boot -/

/-- The state of the Pewter store (19 R467). -/
inductive StoreSt where
  | solid | melting | refreeze | locked
deriving DecidableEq, Repr

/-- The code in `leasest` (04 R123). -/
def StoreSt.code : StoreSt → Nat
  | .solid => 0 | .melting => 1 | .refreeze => 2 | .locked => 3

/-- Where the machine stands in the reset order (17 R444, 01 R37). -/
inductive BootSt where
  | cold | recovery | training | ready
deriving DecidableEq, Repr

/-- A command in progress (17 R429): its record and code, and the context it drives. -/
structure Busy where
  record : Nat
  code : Nat
  ctx : Nat
deriving DecidableEq, Repr

/-- The power page (19 R462). -/
structure Power where
  ewt0 : Word := 0
  ewt1 : Word := 0
  swt : BitVec 16 := 0
  awt : BitVec 40 := 0
  opcur : Byte := 0
  lvbud : List (BitVec 32) := [0, 0, 0, 0, 0]
  lmax : BitVec 32 := 0
  core : BitVec 10 := 0
  ctx : BitVec 6 := 0
  /-- latched EHI and SAT of BAR 0 and of device accesses (19 R482) -/
  latchBar : BitVec 17 := 0
  latchDev : BitVec 17 := 0
  tjmax : Byte := 0
  /-- samples of TJMAX, the latest first: GTC and value (19 R473) -/
  tjs : List (Nat × Byte) := []
  /-- the release mark is reached and the contexts of the emergency come back (19 R474) -/
  releasing : Bool := false
  melt : BitVec 16 := 0
  store : StoreSt := .solid
  sensorOk : Bool := true
  /-- no new work is accepted (19 R474) -/
  hold : Bool := false
  /-- power is removed from the matrix, vector and SRAM rails (19 R474) -/
  cut : Bool := false
  /-- GTC of the last change of each rail (01 R27) -/
  changed : List Nat := [0, 0, 0, 0]
deriving DecidableEq, Repr

/-- Whose request is charged to the meter of a cluster (19 R463): a host thread, a copy engine, a lane, an op or a drain
word of a PE, the fills or the far stores of a stream. -/
inductive Payer where
  | thread (t : Nat)
  | engine (e : Nat)
  | lane (l : Nat)
  | op (ctx kh pe : Nat)
  | fill (ctx kh key : Nat)
  | far (ctx kh key : Nat)
deriving DecidableEq, Repr

/-- A cluster (01 R14, 19 R462, R463). -/
structure Cluster where
  /-- resident lines of the host core's L1 (08 R245) -/
  lines : List Nat := []
  /-- the context that last held each core (16 R402) -/
  lastCtx : Tab Nat := []
  /-- the thread of the host core whose turn it is (08 R245) -/
  turn : Nat := 0
  lvl : Nat := 0
  bud : Nat := 0
  meter : Nat := 0
  /-- requests that the meter has refused, with their charges, in the order of refusal (19 R464) -/
  waits : List (Payer × Nat) := []
  /-- waiting requests charged at the start of the interval (19 R464) -/
  paid : List (Payer × Nat) := []
deriving DecidableEq, Repr

/-- Firmware slots and control (17 R440 to R442). -/
structure Fw where
  active : Bool := false
  trial : Bool := false
  fwver : List Word := [0, 0]
  svn : List Word := [0, 0]
  /-- slots that hold a verified image -/
  good : List Bool := [false, false]
  /-- the images of the slots -/
  images : List (List Byte) := [[], []]
  /-- the old firmware is restoring what the switch saved (17 R442) -/
  reverting : Bool := false
  /-- GTC at which the trial watchdog expires (17 R442) -/
  deadline : Option Nat := none
deriving DecidableEq, Repr

/-- The recovery registers (01 R37). -/
structure Recovery where
  rstat : Word := 0
  floff : Word := 0
  busy : Nat := 0
  err : Bool := false
  window : List Host.Cell := []
  /-- the sector and the data of the flash command in progress -/
  sector : Nat := 0
  data : List Host.Cell := []
deriving DecidableEq, Repr

/-- The system command interface and MSI-X (17 R428, R429). -/
structure SysIf where
  base : Word := 0
  log : Nat := 6
  kick : Word := 0
  done : Word := 0
  msixOn : Bool := false
  msixMask : Bool := true
  msixPend : Bool := false
  busy : Option Busy := none
deriving DecidableEq, Repr

/-- The machine. -/
structure State where
  sched : List Agent := []
  cur : Focus := {}
  draws : Nat := 0
  gtc : Word := 0
  mem : List Host.Cell := []
  thrs : Tab Thr := []
  clus : Tab Cluster := []
  ctxs : Tab Ctx := []
  engs : Tab Engine := []
  lanes : Tab Lane := []
  /-- orders of `kld`, forks and engine finishes so far (05 R142, 10 R306) -/
  orders : Nat := 0
  tlb : List TlbEnt := []
  frames : Tab FrameAttr := []
  counts : Tab (List Nat) := []
  poison : List Nat := []
  failedCh : List Nat := []
  chanRet : BitVec 512 := 0
  limits : Limits := {}
  banks : List BankOp := []
  /-- load-reserve reservations by thread: physical address and bytes (00 R3) -/
  resvs : Tab (Nat × Nat) := []
  wc : Tab WcBuf := []
  /-- the 128-byte lines of HBM and host memory that the pool of each die holds (13 R355) -/
  pools : Tab (List Nat) := []
  codec : Tab CodecEnt := []
  /-- explicit pool steps given to a context, by 12·die + step (13 R357) -/
  steps : Tab Nat := []
  /-- the context that last held a step (16 R402) -/
  stepLast : Tab Nat := []
  /-- outbound windows: HBASE and the size-and-rights word of each (18 R461) -/
  windows : Tab (Word × Word) := []
  winLock : Bool := false
  portMask : BitVec 64 := 0
  pkgid : Word := 0
  epbase : Tab Word := []
  ports : Tab Port := []
  msgs : List Msg := []
  msgIds : Nat := 0
  sent : List Sent := []
  sys : SysIf := {}
  /-- the queue served last, by package queue number (17 R436) -/
  served : Nat := 0
  fw : Fw := {}
  pow : Power := {}
  /-- accounting intervals ended (19 R463) -/
  ival : Nat := 0
  boot : BootSt := .cold
  recov : Recovery := {}
  flash : List Host.Cell := []
  meas : List (BitVec 512) := List.replicate 8 0
  saveKey : Nat := 0
  /-- the key block: the device identity key, derived at this boot (01 R38) -/
  identKey : Option (BitVec 256) := none
deriving DecidableEq, Repr

/-- Why the machine stops. -/
inductive Fault where
  /-- Raised by `step` when the schedule names a unit that the package does not have (01 R14, R24).
  Safe: the hardware has no such step. -/
  | noSuchUnit
deriving DecidableEq, Repr

/-- Why an instruction has no meaning. -/
inductive Refusal where
  /-- Raised by an arm of `exec` whose instruction is not modelled yet, by name. Safe: nothing is
  claimed of the instruction. -/
  | notModelled (mnemonic : String)
deriving DecidableEq, Repr

/-- The machine right after reset: every field at the value INVENTORY.md gives. -/
def State.reset : State := {}

end Sys2Proof.Machine
end

