-- ==== Sys2Proof/Config.lean ====
section
/-! DEFINITION. What the spec leaves open: opaque constants, so that nothing can prove a value of
them. `draws` of the state counts the free values taken (log entry 2). -/
namespace Sys2Proof.Config

/-- Which agent moves next when the schedule names none (13 R361; log entry 1). -/
opaque freeAgent : Nat → Machine.Agent

/-- Whether a line request is served by the requesting die's pool and so is not counted at the home
(11 R330; log entry 2). -/
opaque poolHit : Nat → Bool

/-- A value that the spec does not state (log entry 2). -/
opaque freeWord : Nat → Word

/-- Which of the 16 entries of a 64 KiB group a walk uses where they differ (11 R316; log entry 61). -/
opaque groupEntry : Nat → Nat → Nat

/-- The address-space identifier of context slot 0; the others follow (11 R313; log entry 47). -/
opaque asidBase : Nat

/-- The bytes of the CONTEXT, KERNELS, COPY, LANES and SNAP sections of a save area, by their place in the directory,
from what the sections hold: the context off the chip, its lanes and its landing records; the spec gives those sections
no layout (16 R414; log entry 48). -/
opaque saveSection : Nat → Machine.Ctx → List (Nat × Machine.Lane) → List (List Byte) → List Byte

/-- The element format of a page of another package at the address that a window names, which the peer tells only with
the engine's first access (18 R452; log entry 76). -/
opaque peerEfmt : Word → Nat → Nat

/-- KMAC256 of a message under the save key, with customisation string "OLCRSAVE" and 256 bits of output
(16 R413; log entry 49). -/
opaque kmac256 : Nat → List Byte → BitVec 256

/-- SHAKE256 with 512 bits of output (01 R39; log entry 49). -/
opaque shake256 : List Byte → BitVec 512

/-- The ML-DSA-65 check of a signature over a digest under Olcor's key (01 R36, 17 R440; log entry 49). -/
opaque mlDsaVerify : BitVec 512 → List Byte → Bool

/-- The PUF key is reconstructed at a boot (01 R37; log entry 50). -/
opaque pufOk : Nat → Bool

/-- The device identity key, from the PUF of the module and the helper data in its flash, whose place and form the
spec does not give (01 R38; log entry 50). -/
opaque identityKey : List Host.Cell → BitVec 256

/-- The ML-DSA-65 signature of a digest under a key (01 R39; log entry 49). -/
opaque mlDsaSign : BitVec 256 → BitVec 512 → List Byte

/-- What an erased or a half-programmed flash byte holds (01 R37; log entry 50). -/
opaque flashByte : Nat → Nat → Byte

end Sys2Proof.Config
end

