-- ==== Sys2Proof/Decode.lean ====
section
/-! DEFINITION. Decoding, total and rejecting by name: host words (04 R115 to R118; 00 R3 for the
base set), ring positions of PE slots (04 R91 to R108), drain words (04 R107, R109; 09 R265), and the
encoder written from the same tables. -/
namespace Sys2Proof

/-- Why a word is no instruction. -/
inductive DecodeError where
  /-- an encoding of custom-0 or custom-1 that is not assigned, or a field that must be x0 (04 R117) -/
  | xpleotte
  /-- a standard illegal encoding (04 R117) -/
  | illegal
  /-- an opcode that the kind of slot does not assign (04 R95) -/
  | opcode
  /-- a type, modifier, latch or write-enable field that the opcode does not allow (04 R95, R99) -/
  | field
  /-- a drain word with an undefined opcode or field value (09 R262) -/
  | drain
  /-- a record whose kind, reserved bytes or field values are not defined -/
  | record
  /-- too few bytes -/
  | short
deriving DecidableEq, Repr

/-! ### Fields of a 32-bit host word -/

abbrev fOpc (w : Half) : BitVec 7 := w.extractLsb' 0 7
abbrev fRd (w : Half) : Reg := w.extractLsb' 7 5
abbrev fF3 (w : Half) : BitVec 3 := w.extractLsb' 12 3
abbrev fRs1 (w : Half) : Reg := w.extractLsb' 15 5
abbrev fRs2 (w : Half) : Reg := w.extractLsb' 20 5
abbrev fF7 (w : Half) : BitVec 7 := w.extractLsb' 25 7
abbrev fRs3 (w : Half) : Reg := w.extractLsb' 27 5
abbrev immI (w : Half) : BitVec 12 := w.extractLsb' 20 12
def immS (w : Half) : BitVec 12 := w.extractLsb' 25 7 ++ w.extractLsb' 7 5
def immB (w : Half) : BitVec 13 :=
  w.extractLsb' 31 1 ++ w.extractLsb' 7 1 ++ w.extractLsb' 25 6 ++ w.extractLsb' 8 4 ++ 0#1
abbrev immU (w : Half) : BitVec 20 := w.extractLsb' 12 20
def immJ (w : Half) : BitVec 21 :=
  w.extractLsb' 31 1 ++ w.extractLsb' 12 8 ++ w.extractLsb' 20 1 ++ w.extractLsb' 21 10 ++ 0#1

/-- The scope of a code (13 R360). -/
def scopeOf (c : Nat) : Option Scope :=
  match c with
  | 0 => some .core | 1 => some .clu | 2 => some .die | 3 => some .dev | 4 => some .sys | _ => none

/-- The code of a scope. -/
def Scope.code : Scope → Nat
  | .core => 0 | .clu => 1 | .die => 2 | .dev => 3 | .sys => 4

/-- `patom` operations by code (04 R116). -/
def atomOpOf (c : Nat) : AtomOp :=
  match c with
  | 0 => .add | 1 => .min | 2 => .max | 3 => .and | 4 => .or | 5 => .xor | 6 => .swap | _ => .cas
/-- The code of a `patom` operation. -/
def AtomOp.code : AtomOp → Nat
  | .add => 0 | .min => 1 | .max => 2 | .and => 3 | .or => 4 | .xor => 5 | .swap => 6 | .cas => 7
/-- `patom` types by code (04 R116). -/
def atomTypeOf (c : Nat) : AtomType :=
  match c with | 0 => .s64 | 1 => .n64 | 2 => .s32 | _ => .n32
/-- The code of a `patom` type. -/
def AtomType.code : AtomType → Nat
  | .s64 => 0 | .n64 => 1 | .s32 => 2 | .n32 => 3

/-! ### Xpleotte (04 R115, R116) -/

/-- Custom-0. -/
def decodeCustom0 (w : Half) : Option Instr :=
  let a := fRs1 w
  let b := fRs2 w
  let d := fRd w
  let za := a = 0
  let zb := b = 0
  let zd := d = 0
  match (fF3 w).toNat, (fF7 w).toNat with
  | 0, 0x00 => if zb then some (.kld d a) else none
  | 0, 0x01 => if zb then some (.kfork d a) else none
  | 0, 0x02 => if zb then some (.krdv d a) else none
  | 0, 0x03 => if zd then some (.karg a b) else none
  | 0, 0x04 => if zd ∧ zb then some (.kstop a) else none
  | 0, 0x05 => if zd ∧ zb then some (.kres a) else none
  | 0, 0x06 => if zb then some (.kstat d a) else none
  | 1, 0x00 => if zb then some (.cstart d a) else none
  | 1, 0x01 => if zd then some (.cstep a b) else none
  | 1, 0x02 => if zd then some (.cwait a b) else none
  | 1, 0x03 => if zd then some (.cadd a b) else none
  | 1, 0x04 => if zb then some (.cstat d a) else none
  | 1, 0x08 => if zd ∧ zb then some (.cpub .core a) else none
  | 1, 0x09 => if zd ∧ zb then some (.cpub .clu a) else none
  | 1, 0x0A => if zd ∧ zb then some (.cpub .die a) else none
  | 1, 0x0B => if zd ∧ zb then some (.cpub .dev a) else none
  | 1, 0x0C => if zd ∧ zb then some (.cpub .sys a) else none
  | 2, 0x00 => if zd then some (.binit a b) else none
  | 2, 0x01 => if zd ∧ zb then some (.barr a) else none
  | 2, 0x02 => if zb then some (.bwait d a) else none
  | 2, 0x03 => if zd ∧ zb then some (.bpois a) else none
  | 2, 0x04 => some (.mwait .eq d a b)
  | 2, 0x05 => some (.mwait .ne d a b)
  | 2, 0x06 => some (.mwait .geu d a b)
  | 2, 0x07 => some (.mwait .ltu d a b)
  | 3, 0x00 => if zd then some (.gstep a b) else none
  | 3, 0x01 => if zd then some (.gabort a b) else none
  | 3, 0x02 => if zb then some (.gtab d a) else none
  | 4, 0x00 => if zd ∧ za ∧ zb then some .hret else none
  | 4, 0x01 => if zd ∧ za ∧ zb then some .yield else none
  | 4, 0x02 => some (.lease d a b)
  | 4, 0x03 => if zd ∧ za ∧ zb then some .lrel else none
  | 4, 0x04 => if zd ∧ za ∧ zb then some .hintC else none
  | 4, 0x05 => if zd ∧ za ∧ zb then some .hintM else none
  | 4, 0x06 => if zd ∧ za ∧ zb then some .hintW else none
  | 5, 0x00 => some (.qsub d a b)
  | 5, 0x01 => some (.lstart d a b)
  | 5, 0x02 => if zb then some (.lstat d a) else none
  | 7, 0x00 => if zd ∧ za ∧ zb then some .poolmk else none
  | _, _ => none

/-- Custom-1. -/
def decodeCustom1 (w : Half) : Option Instr :=
  let a := fRs1 w
  let b := fRs2 w
  let d := fRd w
  let f7 := (fF7 w).toNat
  match (fF3 w).toNat with
  | 0 => if b = 0 then (scopeOf f7).map fun sc => .lda sc d a else none
  | 1 => if d = 0 then (scopeOf f7).map fun sc => .stl sc a b else none
  | 2 =>
    if d = 0 ∧ a = 0 ∧ b = 0 then
      if f7 = 5 then some .pfenceSc else (scopeOf f7).map fun sc => .pfence sc
    else none
  | 3 =>
    if f7 % 8 < 4 ∧ f7 < 64 then some (.patom (atomOpOf (f7 / 8)) (atomTypeOf (f7 % 8)) d a b)
    else none
  | 4 =>
    if d ≠ 0 then none
    else if f7 = 0 then some (.predF32 a b) else if f7 = 1 then some (.predFx a b) else none
  | 5 =>
    if f7 = 0 then (if d = 0 then some (.stmc a b) else none)
    else if f7 = 1 then (if b = 0 then some (.rchk d a) else none)
    else if f7 = 2 then (if d = 0 then some (.sigst a b) else none)
    else none
  | _ => none

/-! ### The base set (00 R3: RV64IMAFDC, Zicsr, Zifencei, Zba, Zbb, Zicond) -/

/-- OP-IMM and OP-IMM-32. -/
def decodeOpImm (w : Half) (word : Bool) : Option Rv :=
  let d := fRd w
  let a := fRs1 w
  let i := immI w
  let f6 := (w.extractLsb' 26 6).toNat
  let f7 := (fF7 w).toNat
  let sh : BitVec 6 := w.extractLsb' 20 6
  let sh5 : BitVec 6 := (w.extractLsb' 20 5).setWidth 6
  if word then
    match (fF3 w).toNat with
    | 0 => some (.immOp .addiw d a i)
    | 1 =>
      if f7 = 0 then some (.shift .slliw d a sh5)
      else if f6 = 2 then some (.shift .slliUw d a sh)
      else if i = 0x600#12 then some (.unary .clzw d a)
      else if i = 0x601#12 then some (.unary .ctzw d a)
      else if i = 0x602#12 then some (.unary .cpopw d a)
      else none
    | 5 =>
      if f7 = 0 then some (.shift .srliw d a sh5)
      else if f7 = 0x20 then some (.shift .sraiw d a sh5)
      else if f7 = 0x30 then some (.shift .roriw d a sh5)
      else none
    | _ => none
  else
    match (fF3 w).toNat with
    | 0 => some (.immOp .addi d a i)
    | 1 =>
      if f6 = 0 then some (.shift .slli d a sh)
      else if i = 0x600#12 then some (.unary .clz d a)
      else if i = 0x601#12 then some (.unary .ctz d a)
      else if i = 0x602#12 then some (.unary .cpop d a)
      else if i = 0x604#12 then some (.unary .sextB d a)
      else if i = 0x605#12 then some (.unary .sextH d a)
      else none
    | 2 => some (.immOp .slti d a i)
    | 3 => some (.immOp .sltiu d a i)
    | 4 => some (.immOp .xori d a i)
    | 5 =>
      if f6 = 0 then some (.shift .srli d a sh)
      else if f6 = 0x10 then some (.shift .srai d a sh)
      else if f6 = 0x18 then some (.shift .rori d a sh)
      else if i = 0x287#12 then some (.unary .orcB d a)
      else if i = 0x6B8#12 then some (.unary .rev8 d a)
      else none
    | 6 => some (.immOp .ori d a i)
    | _ => some (.immOp .andi d a i)

/-- The operations of OP by funct7 and funct3. -/
def opAlu (f7 f3 : Nat) : Option AluOp :=
  match f7, f3 with
  | 0x00, 0 => some .add | 0x20, 0 => some .sub | 0x00, 1 => some .sll | 0x00, 2 => some .slt
  | 0x00, 3 => some .sltu | 0x00, 4 => some .xor | 0x00, 5 => some .srl | 0x20, 5 => some .sra
  | 0x00, 6 => some .or | 0x00, 7 => some .and
  | 0x01, 0 => some .mul | 0x01, 1 => some .mulh | 0x01, 2 => some .mulhsu | 0x01, 3 => some .mulhu
  | 0x01, 4 => some .div | 0x01, 5 => some .divu | 0x01, 6 => some .rem | 0x01, 7 => some .remu
  | 0x10, 2 => some .sh1add | 0x10, 4 => some .sh2add | 0x10, 6 => some .sh3add
  | 0x20, 7 => some .andn | 0x20, 6 => some .orn | 0x20, 4 => some .xnor
  | 0x05, 4 => some .min | 0x05, 5 => some .minu | 0x05, 6 => some .max | 0x05, 7 => some .maxu
  | 0x30, 1 => some .rol | 0x30, 5 => some .ror
  | 0x07, 5 => some .czeroEqz | 0x07, 7 => some .czeroNez
  | _, _ => none

/-- The operations of OP-32 by funct7 and funct3. -/
def opAlu32 (f7 f3 : Nat) : Option AluOp :=
  match f7, f3 with
  | 0x00, 0 => some .addw | 0x20, 0 => some .subw | 0x00, 1 => some .sllw | 0x00, 5 => some .srlw
  | 0x20, 5 => some .sraw
  | 0x01, 0 => some .mulw | 0x01, 4 => some .divw | 0x01, 5 => some .divuw | 0x01, 6 => some .remw
  | 0x01, 7 => some .remuw
  | 0x04, 0 => some .addUw | 0x10, 2 => some .sh1addUw | 0x10, 4 => some .sh2addUw
  | 0x10, 6 => some .sh3addUw | 0x30, 1 => some .rolw | 0x30, 5 => some .rorw
  | _, _ => none

/-- AMO operations by funct5. -/
def amoOf (f5 : Nat) : Option AmoOp :=
  match f5 with
  | 0x01 => some .swap | 0x00 => some .add | 0x04 => some .xor | 0x0C => some .and
  | 0x08 => some .or | 0x10 => some .min | 0x14 => some .max | 0x18 => some .minu
  | 0x1C => some .maxu | _ => none

/-- SYSTEM. -/
def decodeSystem (w : Half) : Option Rv :=
  let d := fRd w
  let a := fRs1 w
  let i := immI w
  match (fF3 w).toNat with
  | 0 =>
    if d = 0 ∧ a = 0 then
      if i = 0 then some .ecall else if i = 1 then some .ebreak else none
    else none
  | 1 => some (.csr .rw d a i)
  | 2 => some (.csr .rs d a i)
  | 3 => some (.csr .rc d a i)
  | 5 => some (.csr .rwi d a i)
  | 6 => some (.csr .rsi d a i)
  | 7 => some (.csr .rci d a i)
  | _ => none

/-- The float format of a 2-bit field. -/
def ffmtOf (c : Nat) : Option FFmt := match c with | 0 => some .s | 1 => some .d | _ => none

/-- The integer type of an rs2 field of a conversion. -/
def intFmtOf (c : Nat) : Option IntFmt :=
  match c with | 0 => some .w | 1 => some .wu | 2 => some .l | 3 => some .lu | _ => none

/-- OP-FP. -/
def decodeOpFp (w : Half) : Option Rv :=
  let d := fRd w
  let a := fRs1 w
  let b := fRs2 w
  let rm := fF3 w
  match ffmtOf ((fF7 w).toNat % 4) with
  | none => none
  | some f =>
    match (fF7 w).toNat / 4 with
    | 0x00 => some (.farith .add f rm d a b)
    | 0x01 => some (.farith .sub f rm d a b)
    | 0x02 => some (.farith .mul f rm d a b)
    | 0x03 => some (.farith .div f rm d a b)
    | 0x0B => if b = 0 then some (.fsqrt f rm d a) else none
    | 0x04 =>
      if rm = 0 then some (.fmisc .sgnj f d a b) else if rm = 1 then some (.fmisc .sgnjn f d a b)
      else if rm = 2 then some (.fmisc .sgnjx f d a b) else none
    | 0x05 =>
      if rm = 0 then some (.fmisc .min f d a b) else if rm = 1 then some (.fmisc .max f d a b)
      else none
    | 0x08 =>
      if f = .s ∧ b = 1 then some (.fcvtFF .s rm d a)
      else if f = .d ∧ b = 0 then some (.fcvtFF .d rm d a)
      else none
    | 0x14 =>
      if rm = 0 then some (.fcmp .le f d a b) else if rm = 1 then some (.fcmp .lt f d a b)
      else if rm = 2 then some (.fcmp .eq f d a b) else none
    | 0x18 => (intFmtOf b.toNat).map fun t => .fcvtToInt t f rm d a
    | 0x1A => (intFmtOf b.toNat).map fun t => .fcvtFromInt f t rm d a
    | 0x1C =>
      if b ≠ 0 then none
      else if rm = 0 then some (.fmvToInt f d a) else if rm = 1 then some (.fclass f d a) else none
    | 0x1E => if b = 0 ∧ rm = 0 then some (.fmvFromInt f d a) else none
    | _ => none

/-- A 32-bit base instruction. -/
def decodeRv (w : Half) : Option Rv :=
  let d := fRd w
  let a := fRs1 w
  let b := fRs2 w
  let f3 := (fF3 w).toNat
  match (fOpc w).toNat with
  | 0x37 => some (.lui d (immU w))
  | 0x17 => some (.auipc d (immU w))
  | 0x6F => some (.jal d (immJ w))
  | 0x67 => if f3 = 0 then some (.jalr d a (immI w)) else none
  | 0x63 =>
    match f3 with
    | 0 => some (.branch .beq a b (immB w)) | 1 => some (.branch .bne a b (immB w))
    | 4 => some (.branch .blt a b (immB w)) | 5 => some (.branch .bge a b (immB w))
    | 6 => some (.branch .bltu a b (immB w)) | 7 => some (.branch .bgeu a b (immB w))
    | _ => none
  | 0x03 =>
    match f3 with
    | 0 => some (.load .lb d a (immI w)) | 1 => some (.load .lh d a (immI w))
    | 2 => some (.load .lw d a (immI w)) | 3 => some (.load .ld d a (immI w))
    | 4 => some (.load .lbu d a (immI w)) | 5 => some (.load .lhu d a (immI w))
    | 6 => some (.load .lwu d a (immI w)) | _ => none
  | 0x23 =>
    match f3 with
    | 0 => some (.store .sb a b (immS w)) | 1 => some (.store .sh a b (immS w))
    | 2 => some (.store .sw a b (immS w)) | 3 => some (.store .sd a b (immS w))
    | _ => none
  | 0x13 => decodeOpImm w false
  | 0x1B => decodeOpImm w true
  | 0x33 => (opAlu (fF7 w).toNat f3).map fun o => .alu o d a b
  | 0x3B =>
    -- zext.h is pack with rs2 = x0
    if (fF7 w).toNat = 0x04 ∧ f3 = 4 then (if b = 0 then some (.unary .zextH d a) else none)
    else (opAlu32 (fF7 w).toNat f3).map fun o => .alu o d a b
  | 0x0F =>
    match f3 with
    | 0 => some (.fence (w.extractLsb' 28 4) (w.extractLsb' 24 4) (w.extractLsb' 20 4) d a)
    | 1 => some (.fenceI (immI w) d a)
    | _ => none
  | 0x73 => decodeSystem w
  | 0x2F =>
    if f3 = 2 ∨ f3 = 3 then
      let dbl := f3 = 3
      let aq := w.getLsbD 26
      let rl := w.getLsbD 25
      let f5 := (fF7 w).toNat / 4
      if f5 = 2 then (if b = 0 then some (.lr dbl aq rl d a) else none)
      else if f5 = 3 then some (.sc dbl aq rl d a b)
      else (amoOf f5).map fun o => .amo o dbl aq rl d a b
    else none
  | 0x07 =>
    if f3 = 2 then some (.fload .s d a (immI w)) else if f3 = 3 then some (.fload .d d a (immI w))
    else none
  | 0x27 =>
    if f3 = 2 then some (.fstore .s a b (immS w)) else if f3 = 3 then some (.fstore .d a b (immS w))
    else none
  | 0x43 => (ffmtOf ((fF7 w).toNat % 4)).map fun f => .fma .madd f (fF3 w) d a b (fRs3 w)
  | 0x47 => (ffmtOf ((fF7 w).toNat % 4)).map fun f => .fma .msub f (fF3 w) d a b (fRs3 w)
  | 0x4B => (ffmtOf ((fF7 w).toNat % 4)).map fun f => .fma .nmsub f (fF3 w) d a b (fRs3 w)
  | 0x4F => (ffmtOf ((fF7 w).toNat % 4)).map fun f => .fma .nmadd f (fF3 w) d a b (fRs3 w)
  | 0x53 => decodeOpFp w
  | _ => none

/-! ### Compressed instructions -/

/-- A register of the compressed 3-bit fields, x8 to x15. -/
def creg (v : BitVec 3) : Reg := 8#5 + v.setWidth 5

/-- The base instruction that a 16-bit parcel expands to (RV64C with D). -/
def decodeC (h : Half16) : Option Rv :=
  let f3 := (h.extractLsb' 13 3).toNat
  let rd : Reg := h.extractLsb' 7 5
  let rs2 : Reg := h.extractLsb' 2 5
  let r1 := creg (h.extractLsb' 7 3)
  let r2 := creg (h.extractLsb' 2 3)
  let i6 : BitVec 6 := h.extractLsb' 12 1 ++ h.extractLsb' 2 5
  let imm : BitVec 12 := i6.signExtend 12
  let uw : BitVec 12 :=
    ((h.extractLsb' 5 1 ++ h.extractLsb' 10 3 ++ h.extractLsb' 6 1 ++ 0#2 : BitVec 7)).setWidth 12
  let ud : BitVec 12 := ((h.extractLsb' 5 2 ++ h.extractLsb' 10 3 ++ 0#3 : BitVec 8)).setWidth 12
  match (h.extractLsb' 0 2).toNat, f3 with
  | 0, 0 =>
    let n : BitVec 10 := h.extractLsb' 7 4 ++ h.extractLsb' 11 2 ++ h.extractLsb' 5 1
      ++ h.extractLsb' 6 1 ++ 0#2
    if n = 0 then none else some (.immOp .addi r2 2 (n.setWidth 12))
  | 0, 1 => some (.fload .d r2 r1 ud)
  | 0, 2 => some (.load .lw r2 r1 uw)
  | 0, 3 => some (.load .ld r2 r1 ud)
  | 0, 5 => some (.fstore .d r1 r2 ud)
  | 0, 6 => some (.store .sw r1 r2 uw)
  | 0, 7 => some (.store .sd r1 r2 ud)
  | 1, 0 => some (.immOp .addi rd rd imm)
  | 1, 1 => if rd = 0 then none else some (.immOp .addiw rd rd imm)
  | 1, 2 => some (.immOp .addi rd 0 imm)
  | 1, 3 =>
    if i6 = 0 then none
    else if rd = 2 then
      let n : BitVec 10 := h.extractLsb' 12 1 ++ h.extractLsb' 3 2 ++ h.extractLsb' 5 1
        ++ h.extractLsb' 2 1 ++ h.extractLsb' 6 1 ++ 0#4
      some (.immOp .addi 2 2 (n.signExtend 12))
    else some (.lui rd (i6.signExtend 20))
  | 1, 4 =>
    match (h.extractLsb' 10 2).toNat with
    | 0 => some (.shift .srli r1 r1 i6)
    | 1 => some (.shift .srai r1 r1 i6)
    | 2 => some (.immOp .andi r1 r1 imm)
    | _ =>
      match h.getLsbD 12, (h.extractLsb' 5 2).toNat with
      | false, 0 => some (.alu .sub r1 r1 r2)
      | false, 1 => some (.alu .xor r1 r1 r2)
      | false, 2 => some (.alu .or r1 r1 r2)
      | false, _ => some (.alu .and r1 r1 r2)
      | true, 0 => some (.alu .subw r1 r1 r2)
      | true, 1 => some (.alu .addw r1 r1 r2)
      | true, _ => none
  | 1, 5 =>
    let j : BitVec 12 := h.extractLsb' 12 1 ++ h.extractLsb' 8 1 ++ h.extractLsb' 9 2
      ++ h.extractLsb' 6 1 ++ h.extractLsb' 7 1 ++ h.extractLsb' 2 1 ++ h.extractLsb' 11 1
      ++ h.extractLsb' 3 3 ++ 0#1
    some (.jal 0 (j.signExtend 21))
  | 1, b =>
    let n : BitVec 9 := h.extractLsb' 12 1 ++ h.extractLsb' 5 2 ++ h.extractLsb' 2 1
      ++ h.extractLsb' 10 2 ++ h.extractLsb' 3 2 ++ 0#1
    if b = 6 then some (.branch .beq r1 0 (n.signExtend 13))
    else some (.branch .bne r1 0 (n.signExtend 13))
  | 2, 0 => some (.shift .slli rd rd i6)
  | 2, 1 =>
    let n : BitVec 9 := h.extractLsb' 2 3 ++ h.extractLsb' 12 1 ++ h.extractLsb' 5 2 ++ 0#3
    some (.fload .d rd 2 (n.setWidth 12))
  | 2, 2 =>
    let n : BitVec 8 := h.extractLsb' 2 2 ++ h.extractLsb' 12 1 ++ h.extractLsb' 4 3 ++ 0#2
    if rd = 0 then none else some (.load .lw rd 2 (n.setWidth 12))
  | 2, 3 =>
    let n : BitVec 9 := h.extractLsb' 2 3 ++ h.extractLsb' 12 1 ++ h.extractLsb' 5 2 ++ 0#3
    if rd = 0 then none else some (.load .ld rd 2 (n.setWidth 12))
  | 2, 4 =>
    match h.getLsbD 12 with
    | false => if rs2 = 0 then (if rd = 0 then none else some (.jalr 0 rd 0))
        else some (.alu .add rd 0 rs2)
    | true =>
      if rs2 = 0 then (if rd = 0 then some .ebreak else some (.jalr 1 rd 0))
      else some (.alu .add rd rd rs2)
  | 2, 5 =>
    let n : BitVec 9 := h.extractLsb' 7 3 ++ h.extractLsb' 10 3 ++ 0#3
    some (.fstore .d 2 rs2 (n.setWidth 12))
  | 2, 6 =>
    let n : BitVec 8 := h.extractLsb' 7 2 ++ h.extractLsb' 9 4 ++ 0#2
    some (.store .sw 2 rs2 (n.setWidth 12))
  | 2, 7 =>
    let n : BitVec 9 := h.extractLsb' 7 3 ++ h.extractLsb' 10 3 ++ 0#3
    some (.store .sd 2 rs2 (n.setWidth 12))
  | _, _ => none

/-! ### A host instruction -/

/-- A 32-bit host word (00 R3, R4). -/
def decodeHost32 (w : Half) : Except DecodeError Instr :=
  if fOpc w = 0x0B#7 then (decodeCustom0 w).elim (.error .xpleotte) .ok
  else if fOpc w = 0x2B#7 then (decodeCustom1 w).elim (.error .xpleotte) .ok
  else (decodeRv w).elim (.error .illegal) fun r => .ok (.hostInstruction r false)

/-- A parcel names a 16-bit instruction. -/
def isCompressed (h : Half16) : Bool := h.extractLsb' 0 2 ≠ 3#2

/-- A 16-bit parcel. -/
def decodeHost16 (h : Half16) : Except DecodeError Instr :=
  (decodeC h).elim (.error .illegal) fun r => .ok (.hostInstruction r true)

/-- The instruction at the start of a list of bytes, and the rest (00 R5: little-endian). -/
def decodeBytes : List Byte → Except DecodeError (Instr × List Byte)
  | b0 :: b1 :: t =>
    if isCompressed (b1 ++ b0) then (decodeHost16 (b1 ++ b0)).map fun i => (i, t)
    else match t with
      | b2 :: b3 :: u => (decodeHost32 (b3 ++ b2 ++ b1 ++ b0)).map fun i => (i, u)
      | _ => .error .short
  | _ => .error .short

/-! ### Ring positions -/

/-- The op at a ring position of a slot of a kind (04 R91 to R108). -/
def decodeOp (k : PeKind) (op : BitVec 24) (route addr : BitVec 16) : Except DecodeError Instr :=
  let f : OpF := { pi := op.extractLsb' 14 4, ps := op.getLsbD 13, typ := op.extractLsb' 9 4,
                   mod := op.extractLsb' 0 9, route := route, addr := addr }
  let opc := (op.extractLsb' 18 6).toNat
  match opInstr k opc f with
  | none => .error .opcode
  | some i => if opLegal k opc f && opDestsOk k opc f then .ok i else .error .field

/-! ### Drain words -/

/-- RMODE is zero with an integer lane type, SAT as written (09 R265). -/
def ltRm (lt rm : BitVec 2) : Bool := !lt.getLsbD 0 || rm == 0#2

/-- The number of lanes of a lane type (09 R259). -/
def ltLanes (lt : BitVec 2) : Nat := if lt.getLsbD 1 then 8 else 16

/-- A `dcvt` changes the lane width upwards (09 R274). -/
def dcvtWidens (dlt slt : BitVec 2) : Bool := dlt.getLsbD 1 && !slt.getLsbD 1
/-- A `dcvt` changes the lane width downwards (09 R274). -/
def dcvtNarrows (dlt slt : BitVec 2) : Bool := !dlt.getLsbD 1 && slt.getLsbD 1

/-- RMODE and SAT of a `dcvt` are zero where its form reads neither (09 R265, R274; 07 R200; log entry 67): an
integer destination takes SAT only from a wider integer, and RMODE only from a float. -/
def dcvtModes (dlt slt rm : BitVec 2) (sat : Bool) : Bool :=
  !dlt.getLsbD 0 || (if slt.getLsbD 0 then rm == 0#2 && (dcvtNarrows dlt slt || !sat) else !sat)

/-- SAT of a `dqnt` is zero for the integer formats, which always clamp (09 R265, R275; log entry 67). -/
def qntSat (fmt : BitVec 4) (sat : Bool) : Bool := fmt ≤ 5#4 || !sat

/-- A drain word (04 R107, 09 R265 to R278): none for an unassigned opcode, a non-zero field that
the instruction does not define, or a value that its description rejects. -/
def decodeDrain? (w : Half) : Option Instr :=
  let dd : BitVec 4 := w.extractLsb' 22 4
  let da : BitVec 4 := w.extractLsb' 18 4
  let db : BitVec 4 := w.extractLsb' 14 4
  let im : BitVec 14 := w.extractLsb' 0 14
  let lt : BitVec 2 := im.extractLsb' 12 2
  let rm : BitVec 2 := im.extractLsb' 10 2
  let sat := im.getLsbD 9
  let lo4 : BitVec 4 := im.extractLsb' 0 4
  let zero (hi lo : Nat) : Bool := im.extractLsb' lo (hi + 1 - lo) == 0#(hi + 1 - lo)
  let keep (b : Bool) (i : Instr) : Option Instr := if b then some i else none
  match (w.extractLsb' 26 6).toNat with
  | 0x01 =>
    if im.getLsbD 13 then
      keep (da == 0 && db == 0 && zero 7 0 && im.extractLsb' 8 4 ≤ 11#4)
        (.dldStream dd (im.getLsbD 12) (im.extractLsb' 8 4))
    else keep (da == 0 && db == 0 && zero 12 0) (.dld dd)
  | 0x02 => keep (!lt.getLsbD 0 && zero 8 4 && lo4.toNat < ltLanes lt) (.dscl dd da db lt rm sat lo4)
  | 0x03 => keep (ltRm lt rm && zero 8 4 && db.toNat + lo4.toNat ≤ 15) (.dbias dd da db lt rm sat lo4)
  | 0x04 =>
    let fn : BitVec 2 := im.extractLsb' 0 2
    -- the leaky form alone rounds; every form may name a slope register (log entry 93)
    keep (zero 13 12 && zero 8 2 && fn ≠ 3#2
      && (fn == 1#2 || (rm == 0 && !sat))) (.dact dd da db rm sat fn)
  | 0x05 => keep (zero 11 4 && lo4.toNat + 2 ≤ ltLanes lt) (.dclp dd da db lt lo4)
  | 0x06 =>
    if im.getLsbD 7 then keep (db == 0 && zero 11 9 && zero 6 0) (.dmaxGrp dd da lt (im.getLsbD 8))
    else keep (zero 11 9 && zero 6 0) (.dmax dd da db lt (im.getLsbD 8))
  | 0x07 =>
    let fmt : BitVec 4 := im.extractLsb' 10 4
    let qrm : BitVec 2 := im.extractLsb' 7 2
    let ok := fmt ≤ 7#4 && zero 6 6 && zero 3 0 && qntSat fmt sat
    match (im.extractLsb' 4 2).toNat with
    | 0 => keep (ok && db == 0) (.dqnt dd da fmt sat qrm)
    | 1 => keep ok (.dqntScl dd da db fmt sat qrm)
    | 2 => keep (ok && db == 0 && !sat && qrm == 0) (.dqntMks dd da fmt sat qrm)
    | _ => none
  | 0x08 =>
    let slt : BitVec 2 := im.extractLsb' 7 2
    let hi := im.getLsbD 0
    keep (lt ≠ slt && zero 6 1 && (dcvtWidens lt slt || !hi) && (dcvtNarrows lt slt || db == 0)
        && dcvtModes lt slt rm sat)
      (.dcvt dd da db lt rm sat slt hi)
  | 0x09 => keep (db == 0 && lt ≠ 3#2 && zero 11 0) (.dpack dd da lt)
  | 0x0A => keep (db == 0 && zero 11 0) (.dmpk dd da (im.getLsbD 13) (im.getLsbD 12))
  | 0x0B =>
    keep (dd == 0 && db == 0 && zero 7 0 && im.extractLsb' 8 4 ≤ 11#4)
      (.dst da (im.getLsbD 13) (im.getLsbD 12) (im.extractLsb' 8 4))
  | 0x0C =>
    keep (dd == 0 && da == 0 && db == 0 && zero 13 4
      && (lo4 == 0 || lo4 == 1 || lo4 == 3 || lo4 == 7 || lo4 == 15)) (.dloop lo4)
  | 0x0D => keep (dd == 0 && da == 0 && db == 0 && zero 13 0) .dend
  | 0x0E =>
    if im.getLsbD 13 then keep (da == 0 && db == 0) (.dmovImm dd (im.getLsbD 12) (im.extractLsb' 0 12))
    else keep (db == 0 && zero 12 0) (.dmov dd da)
  | 0x0F => keep (ltRm lt rm && zero 8 0) (.dadd dd da db lt rm sat)
  | 0x10 => keep (ltRm lt rm && zero 8 0) (.dmul dd da db lt rm sat)
  | 0x11 => keep (zero 11 0) (.dsel dd da db lt)
  | 0x12 =>
    let tgt : BitVec 3 := im.extractLsb' 0 3
    let q : BitVec 2 := im.extractLsb' 4 2
    keep (db == 0 && zero 13 6 && tgt ≤ 4#3 && (2#3 ≤ tgt || q ≤ 1#2))
      (.dcvs dd da q (im.getLsbD 3) tgt)
  | 0x13 => keep (zero 13 12 && zero 8 0 && db ≤ 13#4) (.dtab dd da db rm sat)
  | _ => none

/-- A drain word, rejected by name. -/
def decodeDrain (w : Half) : Except DecodeError Instr := (decodeDrain? w).elim (.error .drain) .ok

/-! ### Fields of a record of bytes -/

/-- n bytes from offset o of a record, as a little-endian number (00 R5). -/
def field (r : List Byte) (o n : Nat) : Nat :=
  ((r.drop o).take n).foldr (fun b v => b.toNat + 256 * v) 0

/-- Every byte from offset o up to offset p is zero. -/
def zeroBytes (r : List Byte) (o p : Nat) : Bool := ((r.take p).drop o).all (· == 0#8)

/-- A field of 8 bytes as a word. -/
def fieldW (r : List Byte) (o : Nat) : Word := Word.of (field r o 8)

/-! ### Copy entries (04 R113, 10 R287) -/

/-- The fields of a copy entry. -/
def copyEnt (r : List Byte) : CopyEnt :=
  { flags := BitVec.ofNat 8 (field r 1 1), sbuf := BitVec.ofNat 8 (field r 2 1),
    dbuf := BitVec.ofNat 8 (field r 3 1), mult := BitVec.ofNat 32 (field r 4 4),
    soff := BitVec.ofNat 32 (field r 8 4), doff := BitVec.ofNat 32 (field r 12 4),
    bounds := (List.range 5).map fun i => BitVec.ofNat 16 (field r (0x10 + 2 * i) 2),
    cnt := BitVec.ofNat 8 (field r 0x1A 1), cntinc := BitVec.ofNat 32 (field r 0x1C 4),
    sstr := (List.range 5).map fun i => BitVec.ofNat 24 (field r (0x20 + 3 * i) 3),
    dstr := (List.range 5).map fun i => BitVec.ofNat 24 (field r (0x30 + 3 * i) 3) }

/-- Kinds of copy entry by code. -/
def copyKind : Nat → CopyEnt → Option Instr
  | 1, e => some (.move e) | 2, e => some (.movec e) | 3, e => some (.gath e)
  | 4, e => some (.scat e) | 5, e => some (.fill e) | 6, e => some (.redu e)
  | 7, e => some (.pub e) | 8, e => some (.copyCnt e) | 9, e => some (.waits e)
  | _, _ => none

/-- The flags that a kind may set (10 R287). -/
def copyFlags (kind : Nat) : BitVec 8 :=
  if kind = 1 ∨ kind = 3 then 3 else if kind = 2 then 31 else if kind = 4 then 1 else 0

/-- Every bound is 1 and every stride zero. -/
def CopyEnt.noLoops (e : CopyEnt) : Bool :=
  e.bounds.all (· == 1#16) && e.sstr.all (· == 0#24) && e.dstr.all (· == 0#24)

/-- The fields that a kind does not use are zero, and those it uses in range (04 R113, 10 R287,
R295, R297). -/
def CopyEnt.ok (kind : Nat) (e : CopyEnt) : Bool :=
  (e.flags &&& ~~~(copyFlags kind)) == 0#8 && e.sbuf ≤ 15#8 && e.dbuf ≤ 15#8
    && e.bounds.all (· != 0#16)
    && e.bounds.length == 5 && e.sstr.length == 5 && e.dstr.length == 5
    && (kind = 2 || e.mult == 0#32)
    && (!e.flags.getLsbD 1 || (e.bounds.getD 0 0#16) ≤ 64#16)
    && (kind ≠ 5 || e.sstr.all (· == 0#24))
    && (kind < 7 || e.noLoops)
    && (kind ≠ 7 || (e.sbuf ≤ 4#8 && e.soff == 0#32 && e.doff == 0#32))
    && (kind ≠ 8 || (e.sbuf == 0#8 && e.dbuf == 0#8 && e.soff == 0#32 && e.doff == 0#32))
    && (kind ≠ 9 || (e.sbuf == 0#8 && e.dbuf == 0#8 && (e.cnt ≤ 15#8 || e.cnt == 0xFE#8)))

/-- A copy schedule entry of 64 bytes. -/
def decodeCopy (r : List Byte) : Except DecodeError Instr :=
  let kind := field r 0 1
  let e := copyEnt r
  match copyKind kind e with
  | none => .error .record
  | some i =>
    if e.ok kind && zeroBytes r 0x1B 0x1C && zeroBytes r 0x2F 0x30 && zeroBytes r 0x3F 0x40 then .ok i
    else .error .record

/-! ### Queue entries (17 R432) -/

/-- Kinds of queue entry by code. -/
def queueKind : Nat → QEnt → Option Instr
  | 1, e => some (.launch e) | 2, e => some (.timetable e) | 3, e => some (.copy e)
  | 4, e => some (.lane e) | 5, e => some (.wait e) | 6, e => some (.signal e)
  | 7, e => some (.mark e) | 8, e => some (.fence e)
  | _, _ => none

/-- The fields that a kind does not use are zero, and those it uses in range and aligned
(17 R432, R434). -/
def QEnt.ok (kind : Nat) (e : QEnt) : Bool :=
  (if kind = 1 ∨ kind = 3 then e.clu ≤ 7#8 else e.clu == 0#8)
    && (if kind = 4 then e.lane ≤ 511#16 else e.lane == 0#16)
    && (kind = 1 || e.addr1 == 0) && (kind ≠ 8 || e.addr0 == 0)
    && (kind = 5 || kind = 6 || kind = 7 || e.value == 0)
    && e.ctr.toNat % 8 = 0
    && ((kind ≠ 5 && kind ≠ 6) || e.addr0.toNat % 8 = 0) && (kind ≠ 7 || e.addr0.toNat % 16 = 0)

/-- The fields of a queue entry. -/
def queueEnt (r : List Byte) : QEnt :=
  { waitprev := (BitVec.ofNat 8 (field r 1 1)).getLsbD 0,
    clu := BitVec.ofNat 8 (field r 2 1), lane := BitVec.ofNat 16 (field r 4 2),
    addr0 := fieldW r 8, addr1 := fieldW r 0x10, value := fieldW r 0x18,
    ctr := fieldW r 0x20, ctrinc := fieldW r 0x28 }

/-- A queue entry of 64 bytes. -/
def decodeQueue (r : List Byte) : Except DecodeError Instr :=
  let kind := field r 0 1
  let e := queueEnt r
  match queueKind kind e with
  | none => .error .record
  | some i =>
    if e.ok kind && field r 1 1 ≤ 1 && zeroBytes r 3 4 && zeroBytes r 6 8 && zeroBytes r 0x30 0x40 then .ok i
    else .error .record

/-! ### System commands (11 R326, 16 R404, 17 R429 to R442) -/

/-- A command record of 64 bytes. -/
def decodeCommand (r : List Byte) : Except DecodeError Instr :=
  let h := field r 8 8
  let a := fieldW r 0x10
  let b := fieldW r 0x18
  let keep (c : Bool) (i : Instr) : Except DecodeError Instr := if c then .ok i else .error .record
  let only (lo : Nat) : Bool := zeroBytes r 1 8 && zeroBytes r lo 0x40
  let ctx := h < 64
  match field r 0 1 with
  | 0x01 => keep (only 0x20 && ctx && a.toNat % 4096 = 0) (.inval h a b)
  | 0x02 =>
    keep (only 0x20 && h % 4096 = 0 && 1 ≤ a.toNat && a.toNat ≤ 2 ^ 32
      && (b &&& ~~~0xFFFF000F#64) == 0) (.frameset (Word.of h) a b)
  | 0x03 => keep (only 0x18 && ctx) (.replay h a)
  | 0x04 => keep (only 0x18 && ctx) (.abort h a)
  | 0x10 => keep (only 0x18 && ctx) (.create h a)
  | 0x11 => keep (only 0x10 && ctx) (.start h)
  | 0x12 => keep (only 0x10 && ctx) (.save h)
  | 0x13 => keep (only 0x10 && ctx) (.restore h)
  | 0x14 => keep (only 0x10 && ctx) (.kill h)
  | 0x18 =>
    keep (zeroBytes r 1 2 && zeroBytes r 3 8 && zeroBytes r 0x20 0x40 && ctx && field r 2 1 ≤ 2)
      (.assign (BitVec.ofNat 8 (field r 2 1)) h a b)
  | 0x19 =>
    keep (zeroBytes r 1 2 && zeroBytes r 3 8 && zeroBytes r 0x28 0x40 && ctx && field r 2 1 ≤ 2
      && (field r 2 1 = 2 || fieldW r 0x20 == 0))
      (.reclaim (BitVec.ofNat 8 (field r 2 1)) h a b (fieldW r 0x20))
  | 0x20 =>
    let q := a.toNat
    let ok := zeroBytes r 1 2 && zeroBytes r 3 8 && zeroBytes r 0x18 0x40 && ctx && q < 64
    match field r 2 1 with
    | 0 => keep ok (.qctlEnable h q)
    | 1 => keep ok (.qctlDisable h q)
    | 2 => keep ok (.qctlReset h q)
    | _ => .error .record
  | 0x30 => keep (only 0x18) (.fwload (Word.of h) a)
  | 0x31 => keep (zeroBytes r 1 0x40) .fwswitch
  | _ => .error .record

/-! ### The encoder -/

/-- An R-type word (04 R115). -/
def rWord (f7 : BitVec 7) (rs2 rs1 : Reg) (f3 : BitVec 3) (rd : Reg) (opc : BitVec 7) : Half :=
  f7 ++ rs2 ++ rs1 ++ f3 ++ rd ++ opc

/-- An I-type word. -/
def iWord (imm : BitVec 12) (rs1 : Reg) (f3 : BitVec 3) (rd : Reg) (opc : BitVec 7) : Half :=
  imm ++ rs1 ++ f3 ++ rd ++ opc

/-- An S-type word. -/
def sWord (imm : BitVec 12) (rs2 rs1 : Reg) (f3 : BitVec 3) (opc : BitVec 7) : Half :=
  imm.extractLsb' 5 7 ++ rs2 ++ rs1 ++ f3 ++ imm.extractLsb' 0 5 ++ opc

/-- A B-type word. -/
def bWord (imm : BitVec 13) (rs2 rs1 : Reg) (f3 : BitVec 3) (opc : BitVec 7) : Half :=
  imm.extractLsb' 12 1 ++ imm.extractLsb' 5 6 ++ rs2 ++ rs1 ++ f3 ++ imm.extractLsb' 1 4
    ++ imm.extractLsb' 11 1 ++ opc

/-- A custom-0 word (04 R115). -/
def c0Word (f3 : BitVec 3) (f7 : BitVec 7) (rd rs1 rs2 : Reg) : Half := rWord f7 rs2 rs1 f3 rd 0x0B#7
/-- A custom-1 word (04 R116). -/
def c1Word (f3 : BitVec 3) (f7 : BitVec 7) (rd rs1 rs2 : Reg) : Half := rWord f7 rs2 rs1 f3 rd 0x2B#7

/-- The code of a condition of `mwait` (15 R397). -/
def MwaitCond.code : MwaitCond → Nat
  | .eq => 0 | .ne => 1 | .geu => 2 | .ltu => 3

/-- The word of an Xpleotte instruction (04 R115, R116); none for every other instruction. -/
def encodeXpleotte : Instr → Option Half
  | .kld d a => some (c0Word 0 0x00 d a 0)
  | .kfork d a => some (c0Word 0 0x01 d a 0)
  | .krdv d a => some (c0Word 0 0x02 d a 0)
  | .karg a b => some (c0Word 0 0x03 0 a b)
  | .kstop a => some (c0Word 0 0x04 0 a 0)
  | .kres a => some (c0Word 0 0x05 0 a 0)
  | .kstat d a => some (c0Word 0 0x06 d a 0)
  | .cstart d a => some (c0Word 1 0x00 d a 0)
  | .cstep a b => some (c0Word 1 0x01 0 a b)
  | .cwait a b => some (c0Word 1 0x02 0 a b)
  | .cadd a b => some (c0Word 1 0x03 0 a b)
  | .cstat d a => some (c0Word 1 0x04 d a 0)
  | .cpub sc a => some (c0Word 1 (BitVec.ofNat 7 (8 + sc.code)) 0 a 0)
  | .binit a b => some (c0Word 2 0x00 0 a b)
  | .barr a => some (c0Word 2 0x01 0 a 0)
  | .bwait d a => some (c0Word 2 0x02 d a 0)
  | .bpois a => some (c0Word 2 0x03 0 a 0)
  | .mwait c d a b => some (c0Word 2 (BitVec.ofNat 7 (4 + c.code)) d a b)
  | .gstep a b => some (c0Word 3 0x00 0 a b)
  | .gabort a b => some (c0Word 3 0x01 0 a b)
  | .gtab d a => some (c0Word 3 0x02 d a 0)
  | .hret => some (c0Word 4 0x00 0 0 0)
  | .yield => some (c0Word 4 0x01 0 0 0)
  | .lease d a b => some (c0Word 4 0x02 d a b)
  | .lrel => some (c0Word 4 0x03 0 0 0)
  | .hintC => some (c0Word 4 0x04 0 0 0)
  | .hintM => some (c0Word 4 0x05 0 0 0)
  | .hintW => some (c0Word 4 0x06 0 0 0)
  | .qsub d a b => some (c0Word 5 0x00 d a b)
  | .lstart d a b => some (c0Word 5 0x01 d a b)
  | .lstat d a => some (c0Word 5 0x02 d a 0)
  | .poolmk => some (c0Word 7 0x00 0 0 0)
  | .lda sc d a => some (c1Word 0 (BitVec.ofNat 7 sc.code) d a 0)
  | .stl sc a b => some (c1Word 1 (BitVec.ofNat 7 sc.code) 0 a b)
  | .pfence sc => some (c1Word 2 (BitVec.ofNat 7 sc.code) 0 0 0)
  | .pfenceSc => some (c1Word 2 0x05 0 0 0)
  | .patom op ty d a b => some (c1Word 3 (BitVec.ofNat 7 (op.code * 8 + ty.code)) d a b)
  | .predF32 a b => some (c1Word 4 0x00 0 a b)
  | .predFx a b => some (c1Word 4 0x01 0 a b)
  | .stmc a b => some (c1Word 5 0x00 0 a b)
  | .rchk d a => some (c1Word 5 0x01 d a 0)
  | .sigst a b => some (c1Word 5 0x02 0 a b)
  | _ => none

/-- funct3 of a branch. -/
def BranchOp.f3 : BranchOp → BitVec 3
  | .beq => 0 | .bne => 1 | .blt => 4 | .bge => 5 | .bltu => 6 | .bgeu => 7
/-- funct3 of a load. -/
def LoadOp.f3 : LoadOp → BitVec 3
  | .lb => 0 | .lh => 1 | .lw => 2 | .ld => 3 | .lbu => 4 | .lhu => 5 | .lwu => 6
/-- funct3 of a store. -/
def StoreOp.f3 : StoreOp → BitVec 3
  | .sb => 0 | .sh => 1 | .sw => 2 | .sd => 3
/-- funct3 and opcode of an immediate operation. -/
def ImmOp.code : ImmOp → BitVec 3 × BitVec 7
  | .addi => (0, 0x13) | .slti => (2, 0x13) | .sltiu => (3, 0x13) | .xori => (4, 0x13)
  | .ori => (6, 0x13) | .andi => (7, 0x13) | .addiw => (0, 0x1B)
/-- Upper six bits of the immediate, funct3 and opcode of an immediate shift. -/
def ShiftOp.code : ShiftOp → BitVec 6 × BitVec 3 × BitVec 7
  | .slli => (0, 1, 0x13) | .srli => (0, 5, 0x13) | .srai => (0x10, 5, 0x13)
  | .rori => (0x18, 5, 0x13) | .slliUw => (2, 1, 0x1B) | .slliw => (0, 1, 0x1B)
  | .srliw => (0, 5, 0x1B) | .sraiw => (0x10, 5, 0x1B) | .roriw => (0x18, 5, 0x1B)
/-- funct7, funct3 and opcode of a register-register operation. -/
def AluOp.code : AluOp → BitVec 7 × BitVec 3 × BitVec 7
  | .add => (0, 0, 0x33) | .sub => (0x20, 0, 0x33) | .sll => (0, 1, 0x33) | .slt => (0, 2, 0x33)
  | .sltu => (0, 3, 0x33) | .xor => (0, 4, 0x33) | .srl => (0, 5, 0x33) | .sra => (0x20, 5, 0x33)
  | .or => (0, 6, 0x33) | .and => (0, 7, 0x33)
  | .addw => (0, 0, 0x3B) | .subw => (0x20, 0, 0x3B) | .sllw => (0, 1, 0x3B) | .srlw => (0, 5, 0x3B)
  | .sraw => (0x20, 5, 0x3B)
  | .mul => (1, 0, 0x33) | .mulh => (1, 1, 0x33) | .mulhsu => (1, 2, 0x33) | .mulhu => (1, 3, 0x33)
  | .div => (1, 4, 0x33) | .divu => (1, 5, 0x33) | .rem => (1, 6, 0x33) | .remu => (1, 7, 0x33)
  | .mulw => (1, 0, 0x3B) | .divw => (1, 4, 0x3B) | .divuw => (1, 5, 0x3B) | .remw => (1, 6, 0x3B)
  | .remuw => (1, 7, 0x3B)
  | .addUw => (4, 0, 0x3B) | .sh1add => (0x10, 2, 0x33) | .sh2add => (0x10, 4, 0x33)
  | .sh3add => (0x10, 6, 0x33) | .sh1addUw => (0x10, 2, 0x3B) | .sh2addUw => (0x10, 4, 0x3B)
  | .sh3addUw => (0x10, 6, 0x3B)
  | .andn => (0x20, 7, 0x33) | .orn => (0x20, 6, 0x33) | .xnor => (0x20, 4, 0x33)
  | .min => (5, 4, 0x33) | .minu => (5, 5, 0x33) | .max => (5, 6, 0x33) | .maxu => (5, 7, 0x33)
  | .rol => (0x30, 1, 0x33) | .ror => (0x30, 5, 0x33) | .rolw => (0x30, 1, 0x3B)
  | .rorw => (0x30, 5, 0x3B)
  | .czeroEqz => (7, 5, 0x33) | .czeroNez => (7, 7, 0x33)
/-- Immediate field, funct3 and opcode of a one-operand operation. -/
def UnaryOp.code : UnaryOp → BitVec 12 × BitVec 3 × BitVec 7
  | .clz => (0x600, 1, 0x13) | .ctz => (0x601, 1, 0x13) | .cpop => (0x602, 1, 0x13)
  | .clzw => (0x600, 1, 0x1B) | .ctzw => (0x601, 1, 0x1B) | .cpopw => (0x602, 1, 0x1B)
  | .sextB => (0x604, 1, 0x13) | .sextH => (0x605, 1, 0x13) | .zextH => (0x080, 4, 0x3B)
  | .orcB => (0x287, 5, 0x13) | .rev8 => (0x6B8, 5, 0x13)
/-- funct3 of a CSR operation. -/
def CsrOp.f3 : CsrOp → BitVec 3
  | .rw => 1 | .rs => 2 | .rc => 3 | .rwi => 5 | .rsi => 6 | .rci => 7
/-- funct5 of a read-modify-write operation. -/
def AmoOp.f5 : AmoOp → BitVec 5
  | .swap => 1 | .add => 0 | .xor => 4 | .and => 0x0C | .or => 8 | .min => 0x10 | .max => 0x14
  | .minu => 0x18 | .maxu => 0x1C
/-- The code of a float format. -/
def FFmt.code : FFmt → BitVec 2
  | .s => 0 | .d => 1
/-- The opcode of a fused multiply-add. -/
def FmaOp.opc : FmaOp → BitVec 7
  | .madd => 0x43 | .msub => 0x47 | .nmsub => 0x4B | .nmadd => 0x4F
/-- funct5 of a rounding two-operand operation. -/
def FArithOp.f5 : FArithOp → BitVec 5
  | .add => 0 | .sub => 1 | .mul => 2 | .div => 3
/-- funct5 and rm field of an operation that does not round. -/
def FMiscOp.code : FMiscOp → BitVec 5 × BitVec 3
  | .sgnj => (4, 0) | .sgnjn => (4, 1) | .sgnjx => (4, 2) | .min => (5, 0) | .max => (5, 1)
/-- The rm field of a comparison. -/
def FCmpOp.f3 : FCmpOp → BitVec 3
  | .le => 0 | .lt => 1 | .eq => 2
/-- The rs2 field of an integer type. -/
def IntFmt.code : IntFmt → Reg
  | .w => 0 | .wu => 1 | .l => 2 | .lu => 3

/-- An OP-FP word. -/
def fpWord (f5 : BitVec 5) (f : FFmt) (rs2 rs1 : Reg) (rm : BitVec 3) (rd : Reg) : Half :=
  rWord (f5 ++ f.code) rs2 rs1 rm rd 0x53#7

/-- The 32-bit word of a base host instruction (00 R3). -/
def encodeRv : Rv → Half
  | .lui d i => i ++ d ++ 0x37#7
  | .auipc d i => i ++ d ++ 0x17#7
  | .jal d i => i.extractLsb' 20 1 ++ i.extractLsb' 1 10 ++ i.extractLsb' 11 1
      ++ i.extractLsb' 12 8 ++ d ++ 0x6F#7
  | .jalr d a i => iWord i a 0 d 0x67
  | .branch op a b i => bWord i b a op.f3 0x63
  | .load op d a i => iWord i a op.f3 d 0x03
  | .store op a b i => sWord i b a op.f3 0x23
  | .immOp op d a i => iWord i a op.code.1 d op.code.2
  | .shift op d a n => iWord (op.code.1 ++ n) a op.code.2.1 d op.code.2.2
  | .alu op d a b => rWord op.code.1 b a op.code.2.1 d op.code.2.2
  | .unary op d a => iWord op.code.1 a op.code.2.1 d op.code.2.2
  | .fence fm p s d a => iWord (fm ++ p ++ s) a 0 d 0x0F
  | .fenceI i d a => iWord i a 1 d 0x0F
  | .ecall => 0x00000073#32
  | .ebreak => 0x00100073#32
  | .csr op d a i => iWord i a op.f3 d 0x73
  | .lr dbl aq rl d a => rWord (2#5 ++ BitVec.ofBool aq ++ BitVec.ofBool rl) 0 a
      (if dbl then 3 else 2) d 0x2F
  | .sc dbl aq rl d a b => rWord (3#5 ++ BitVec.ofBool aq ++ BitVec.ofBool rl) b a
      (if dbl then 3 else 2) d 0x2F
  | .amo op dbl aq rl d a b => rWord (op.f5 ++ BitVec.ofBool aq ++ BitVec.ofBool rl) b a
      (if dbl then 3 else 2) d 0x2F
  | .fload f d a i => iWord i a (match f with | .s => 2 | .d => 3) d 0x07
  | .fstore f a b i => sWord i b a (match f with | .s => 2 | .d => 3) 0x27
  | .fma op f rm d a b c => rWord (c ++ f.code) b a rm d op.opc
  | .farith op f rm d a b => fpWord op.f5 f b a rm d
  | .fsqrt f rm d a => fpWord 0x0B f 0 a rm d
  | .fmisc op f d a b => fpWord op.code.1 f b a op.code.2 d
  | .fcmp op f d a b => fpWord 0x14 f b a op.f3 d
  | .fclass f d a => fpWord 0x1C f 0 a 1 d
  | .fcvtToInt t f rm d a => fpWord 0x18 f t.code a rm d
  | .fcvtFromInt f t rm d a => fpWord 0x1A f t.code a rm d
  | .fcvtFF dst rm d a => fpWord 0x08 dst (match dst with | .s => 1 | .d => 0) a rm d
  | .fmvToInt f d a => fpWord 0x1C f 0 a 0 d
  | .fmvFromInt f d a => fpWord 0x1E f 0 a 0 d

/-- The word of a host instruction of 32 bits. -/
def encodeHost : Instr → Option Half
  | .hostInstruction r false => some (encodeRv r)
  | i => encodeXpleotte i

/-- The op, route and address words of a ring position (04 R91, R96, R100). -/
def encodeOp (i : Instr) : Option (PeKind × BitVec 24 × BitVec 16 × BitVec 16) :=
  i.op?.map fun o =>
    let f := o.2.2
    (o.1, BitVec.ofNat 6 o.2.1 ++ f.pi ++ BitVec.ofBool f.ps ++ f.typ ++ f.mod, f.route, f.addr)

/-- A drain word from its fields (04 R109). -/
def drainWord (opc : BitVec 6) (dd da db : BitVec 4) (im : BitVec 14) : Half :=
  opc ++ dd ++ da ++ db ++ im

/-- The word of a drain instruction (04 R107, R109; 09 R265); none for every other instruction. -/
def encodeDrain : Instr → Option Half
  | .dld dd => some (drainWord 0x01 dd 0 0 0)
  | .dldStream dd m st => some (drainWord 0x01 dd 0 0 (1#1 ++ BitVec.ofBool m ++ st ++ 0#8))
  | .dscl dd da db lt rm sat j =>
    some (drainWord 0x02 dd da db (lt ++ rm ++ BitVec.ofBool sat ++ 0#5 ++ j))
  | .dbias dd da db lt rm sat nb =>
    some (drainWord 0x03 dd da db (lt ++ rm ++ BitVec.ofBool sat ++ 0#5 ++ nb))
  | .dact dd da db rm sat fn =>
    some (drainWord 0x04 dd da db (0#2 ++ rm ++ BitVec.ofBool sat ++ 0#7 ++ fn))
  | .dclp dd da db lt j => some (drainWord 0x05 dd da db (lt ++ 0#8 ++ j))
  | .dmax dd da db lt abs => some (drainWord 0x06 dd da db (lt ++ 0#3 ++ BitVec.ofBool abs ++ 0#8))
  | .dmaxGrp dd da lt abs =>
    some (drainWord 0x06 dd da 0 (lt ++ 0#3 ++ BitVec.ofBool abs ++ 1#1 ++ 0#7))
  | .dqnt dd da fmt sat rm =>
    some (drainWord 0x07 dd da 0 (fmt ++ BitVec.ofBool sat ++ rm ++ 0#1 ++ 0#2 ++ 0#4))
  | .dqntScl dd da db fmt sat rm =>
    some (drainWord 0x07 dd da db (fmt ++ BitVec.ofBool sat ++ rm ++ 0#1 ++ 1#2 ++ 0#4))
  | .dqntMks dd da fmt sat rm =>
    some (drainWord 0x07 dd da 0 (fmt ++ BitVec.ofBool sat ++ rm ++ 0#1 ++ 2#2 ++ 0#4))
  | .dcvt dd da db dlt rm sat slt hi =>
    some (drainWord 0x08 dd da db (dlt ++ rm ++ BitVec.ofBool sat ++ slt ++ 0#6 ++ BitVec.ofBool hi))
  | .dpack dd da cs => some (drainWord 0x09 dd da 0 (cs ++ 0#12))
  | .dmpk dd da nz w16 =>
    some (drainWord 0x0A dd da 0 (BitVec.ofBool nz ++ BitVec.ofBool w16 ++ 0#12))
  | .dst da gf m st =>
    some (drainWord 0x0B 0 da 0 (BitVec.ofBool gf ++ BitVec.ofBool m ++ st ++ 0#8))
  | .dloop g => some (drainWord 0x0C 0 0 0 (0#10 ++ g))
  | .dend => some (drainWord 0x0D 0 0 0 0)
  | .dmov dd da => some (drainWord 0x0E dd da 0 0)
  | .dmovImm dd fl v => some (drainWord 0x0E dd 0 0 (1#1 ++ BitVec.ofBool fl ++ v))
  | .dadd dd da db lt rm sat => some (drainWord 0x0F dd da db (lt ++ rm ++ BitVec.ofBool sat ++ 0#9))
  | .dmul dd da db lt rm sat => some (drainWord 0x10 dd da db (lt ++ rm ++ BitVec.ofBool sat ++ 0#9))
  | .dsel dd da db lt => some (drainWord 0x11 dd da db (lt ++ 0#12))
  | .dcvs dd da q sat tgt => some (drainWord 0x12 dd da 0 (0#8 ++ q ++ BitVec.ofBool sat ++ tgt))
  | .dtab dd da db rm sat => some (drainWord 0x13 dd da db (0#2 ++ rm ++ BitVec.ofBool sat ++ 0#9))
  | _ => none

/-- The n bytes of a number as bytes, the lowest first. -/
def leBytes (v : Nat) : Nat → List Byte
  | 0 => []
  | n + 1 => BitVec.ofNat 8 v :: leBytes (v / 256) n

/-- The kind and the fields of a copy entry. -/
def Instr.copy? : Instr → Option (Nat × CopyEnt)
  | .move e => some (1, e) | .movec e => some (2, e) | .gath e => some (3, e)
  | .scat e => some (4, e) | .fill e => some (5, e) | .redu e => some (6, e)
  | .pub e => some (7, e) | .copyCnt e => some (8, e) | .waits e => some (9, e)
  | _ => none

/-- The 64 bytes of a copy entry (04 R113). -/
def encodeCopy (i : Instr) : Option (List Byte) :=
  i.copy?.map fun p =>
    let e := p.2
    [BitVec.ofNat 8 p.1, e.flags, e.sbuf, e.dbuf] ++ leBytes e.mult.toNat 4 ++ leBytes e.soff.toNat 4
      ++ leBytes e.doff.toNat 4 ++ (e.bounds.map fun b => leBytes b.toNat 2).flatten ++ [e.cnt, 0#8]
      ++ leBytes e.cntinc.toNat 4 ++ (e.sstr.map fun b => leBytes b.toNat 3).flatten ++ [0#8]
      ++ (e.dstr.map fun b => leBytes b.toNat 3).flatten ++ [0#8]

/-- The kind and the fields of a queue entry. -/
def Instr.queue? : Instr → Option (Nat × QEnt)
  | .launch e => some (1, e) | .timetable e => some (2, e) | .copy e => some (3, e)
  | .lane e => some (4, e) | .wait e => some (5, e) | .signal e => some (6, e)
  | .mark e => some (7, e) | .fence e => some (8, e)
  | _ => none

/-- The 64 bytes of a queue entry (17 R432). -/
def encodeQueue (i : Instr) : Option (List Byte) :=
  i.queue?.map fun p =>
    let e := p.2
    [BitVec.ofNat 8 p.1, BitVec.ofNat 8 e.waitprev.toNat, e.clu, 0#8] ++ leBytes e.lane.toNat 2 ++ [0#8, 0#8]
      ++ leBytes e.addr0.toNat 8 ++ leBytes e.addr1.toNat 8 ++ leBytes e.value.toNat 8
      ++ leBytes e.ctr.toNat 8 ++ leBytes e.ctrinc.toNat 8 ++ leBytes 0 16

/-- A command record (17 R429): opcode, the byte at offset 2, the word at 8 and those from 0x10. -/
def cmdBytes (opc sel h : Nat) (a b c : Word) : List Byte :=
  [BitVec.ofNat 8 opc, 0#8, BitVec.ofNat 8 sel, 0#8, 0#8, 0#8, 0#8, 0#8] ++ leBytes h 8 ++ leBytes a.toNat 8
    ++ leBytes b.toNat 8 ++ leBytes c.toNat 8 ++ leBytes 0 24

/-- The 64 bytes of a system command (11 R326, 16 R404, 17 R429 to R442). -/
def encodeCommand : Instr → Option (List Byte)
  | .inval h va pages => some (cmdBytes 0x01 0 h va pages 0)
  | .frameset pa count attr => some (cmdBytes 0x02 0 pa.toNat count attr 0)
  | .replay h fid => some (cmdBytes 0x03 0 h fid 0 0)
  | .abort h fid => some (cmdBytes 0x04 0 h fid 0 0)
  | .create h obj => some (cmdBytes 0x10 0 h obj 0 0)
  | .start h => some (cmdBytes 0x11 0 h 0 0 0)
  | .save h => some (cmdBytes 0x12 0 h 0 0 0)
  | .restore h => some (cmdBytes 0x13 0 h 0 0 0)
  | .kill h => some (cmdBytes 0x14 0 h 0 0 0)
  | .assign res h first count => some (cmdBytes 0x18 res.toNat h first count 0)
  | .reclaim res h first count mask => some (cmdBytes 0x19 res.toNat h first count mask)
  | .qctlEnable h q => some (cmdBytes 0x20 0 h (Word.of q) 0 0)
  | .qctlDisable h q => some (cmdBytes 0x20 1 h (Word.of q) 0 0)
  | .qctlReset h q => some (cmdBytes 0x20 2 h (Word.of q) 0 0)
  | .fwload pa len => some (cmdBytes 0x30 0 pa.toNat len 0 0)
  | .fwswitch => some (cmdBytes 0x31 0 0 0 0 0)
  | _ => none

/-! ### Encoding compressed instructions -/

/-- A value of the 6-bit signed immediate of the compressed formats. -/
def fits6 (i : BitVec 12) : Bool := (i.extractLsb' 0 6).signExtend 12 == i

/-- x8 to x15, the registers of the 3-bit fields. -/
def isCreg (r : Reg) : Bool := r.extractLsb' 3 2 == 1#2

/-- The 3-bit field of a register. -/
def cbits (r : Reg) : BitVec 3 := r.extractLsb' 0 3

/-- The CI format: funct3, the bit above, register, five bits, quadrant. -/
def ciWord (f3 : BitVec 3) (i : BitVec 6) (r : Reg) (q : BitVec 2) : Half16 :=
  f3 ++ i.extractLsb' 5 1 ++ r ++ i.extractLsb' 0 5 ++ q

/-- The CL and CS formats of words: offsets below 128, a multiple of 4. -/
def clWord (f3 : BitVec 3) (i : BitVec 12) (a d : Reg) : Half16 :=
  f3 ++ i.extractLsb' 3 3 ++ cbits a ++ i.extractLsb' 2 1 ++ i.extractLsb' 6 1 ++ cbits d ++ 0#2

/-- The CL and CS formats of doublewords: offsets below 256, a multiple of 8. -/
def clDouble (f3 : BitVec 3) (i : BitVec 12) (a d : Reg) : Half16 :=
  f3 ++ i.extractLsb' 3 3 ++ cbits a ++ i.extractLsb' 6 2 ++ cbits d ++ 0#2

/-- Loads of words from the stack: offsets below 256. -/
def lspWord (f3 : BitVec 3) (i : BitVec 12) (d : Reg) : Half16 :=
  f3 ++ i.extractLsb' 5 1 ++ d ++ i.extractLsb' 2 3 ++ i.extractLsb' 6 2 ++ 2#2

/-- Loads of doublewords from the stack: offsets below 512. -/
def lspDouble (f3 : BitVec 3) (i : BitVec 12) (d : Reg) : Half16 :=
  f3 ++ i.extractLsb' 5 1 ++ d ++ i.extractLsb' 3 2 ++ i.extractLsb' 6 3 ++ 2#2

/-- Stores of words to the stack. -/
def sspWord (f3 : BitVec 3) (i : BitVec 12) (b : Reg) : Half16 :=
  f3 ++ i.extractLsb' 2 4 ++ i.extractLsb' 6 2 ++ b ++ 2#2

/-- Stores of doublewords to the stack. -/
def sspDouble (f3 : BitVec 3) (i : BitVec 12) (b : Reg) : Half16 :=
  f3 ++ i.extractLsb' 3 3 ++ i.extractLsb' 6 3 ++ b ++ 2#2

/-- The CA format. -/
def caWord (top : BitVec 6) (d : Reg) (op : BitVec 2) (b : Reg) : Half16 :=
  top ++ cbits d ++ op ++ cbits b ++ 1#2

/-- An offset of a form of n bits that is a multiple of 2 ^ k. -/
def offFits (i : BitVec 12) (n k : Nat) : Bool := i.toNat < 2 ^ n && i.toNat % 2 ^ k = 0

/-- A load or store by the CL, CS or stack form for the size 4 or 8, as its register fields allow. -/
def memC (dbl st : Bool) (f3 : BitVec 3) (i : BitVec 12) (a d : Reg) (zeroOk : Bool) : Option Half16 :=
  if isCreg a && isCreg d && offFits i (if dbl then 8 else 7) (if dbl then 3 else 2) then
    some (if dbl then clDouble f3 i a d else clWord f3 i a d)
  else if a = 2 && (zeroOk || d ≠ 0) && offFits i (if dbl then 9 else 8) (if dbl then 3 else 2) then
    some (match dbl, st with
      | true, true => sspDouble f3 i d | true, false => lspDouble f3 i d
      | false, true => sspWord f3 i d | false, false => lspWord f3 i d)
  else none

/-- The parcel of an addition of an immediate. -/
def encodeAddiC (d a : Reg) (i : BitVec 12) : Option Half16 :=
  if d = a && fits6 i then some (ciWord 0 (i.extractLsb' 0 6) d 1)
  else if a = 0 && fits6 i then some (ciWord 2 (i.extractLsb' 0 6) d 1)
  else if d = 2 && a = 2 && i.extractLsb' 0 4 == 0#4 && (i.extractLsb' 0 10).signExtend 12 == i then
    some (3#3 ++ i.extractLsb' 9 1 ++ 2#5 ++ i.extractLsb' 4 1 ++ i.extractLsb' 6 1 ++ i.extractLsb' 7 2
      ++ i.extractLsb' 5 1 ++ 1#2)
  else if a = 2 && isCreg d && i ≠ 0 && offFits i 10 2 then
    some (0#3 ++ i.extractLsb' 4 2 ++ i.extractLsb' 6 4 ++ i.extractLsb' 2 1 ++ i.extractLsb' 3 1 ++ cbits d
      ++ 0#2)
  else none

/-- The parcel of a register-register operation. -/
def encodeAluC (op : AluOp) (d a b : Reg) : Option Half16 :=
  let ca (top : BitVec 6) (o : BitVec 2) : Option Half16 :=
    if d = a && isCreg d && isCreg b then some (caWord top d o b) else none
  match op with
  | .add =>
    if b ≠ 0 && a = 0 then some (4#3 ++ 0#1 ++ d ++ b ++ 2#2)
    else if b ≠ 0 && d = a then some (4#3 ++ 1#1 ++ d ++ b ++ 2#2)
    else none
  | .sub => ca 0x23 0 | .xor => ca 0x23 1 | .or => ca 0x23 2 | .and => ca 0x23 3
  | .subw => ca 0x27 0 | .addw => ca 0x27 1
  | _ => none

/-- The parcel of an immediate shift. -/
def encodeShiftC (op : ShiftOp) (d a : Reg) (n : BitVec 6) : Option Half16 :=
  let cb (f : BitVec 2) : Option Half16 :=
    if d = a && isCreg d then some (4#3 ++ n.extractLsb' 5 1 ++ f ++ cbits d ++ n.extractLsb' 0 5 ++ 1#2)
    else none
  match op with
  | .slli => if d = a then some (ciWord 0 n d 2) else none
  | .srli => cb 0
  | .srai => cb 1
  | _ => none

/-- The parcel of a branch. -/
def encodeBranchC (f3 : BitVec 3) (a : Reg) (n : BitVec 13) : Option Half16 :=
  if isCreg a && (n.extractLsb' 0 9).signExtend 13 == n && !n.getLsbD 0 then
    some (f3 ++ n.extractLsb' 8 1 ++ n.extractLsb' 3 2 ++ cbits a ++ n.extractLsb' 6 2 ++ n.extractLsb' 1 2
      ++ n.extractLsb' 5 1 ++ 1#2)
  else none

/-- The 16-bit parcel of a base instruction (RV64C with D); none where it has none. -/
def encodeC : Rv → Option Half16
  | .immOp .addi d a i => encodeAddiC d a i
  | .immOp .addiw d a i =>
    if d = a && d ≠ 0 && fits6 i then some (ciWord 1 (i.extractLsb' 0 6) d 1) else none
  | .immOp .andi d a i =>
    if d = a && isCreg d && fits6 i then
      some (4#3 ++ i.extractLsb' 5 1 ++ 2#2 ++ cbits d ++ i.extractLsb' 0 5 ++ 1#2)
    else none
  | .lui d i =>
    if d ≠ 2 && i ≠ 0 && (i.extractLsb' 0 6).signExtend 20 == i then some (ciWord 3 (i.extractLsb' 0 6) d 1)
    else none
  | .jal d j =>
    if d = 0 && (j.extractLsb' 0 12).signExtend 21 == j && !j.getLsbD 0 then
      some (5#3 ++ j.extractLsb' 11 1 ++ j.extractLsb' 4 1 ++ j.extractLsb' 8 2 ++ j.extractLsb' 10 1
        ++ j.extractLsb' 6 1 ++ j.extractLsb' 7 1 ++ j.extractLsb' 1 3 ++ j.extractLsb' 5 1 ++ 1#2)
    else none
  | .jalr d a i =>
    if i = 0 && a ≠ 0 && (d = 0 || d = 1) then some (4#3 ++ d.extractLsb' 0 1 ++ a ++ 0#5 ++ 2#2) else none
  | .branch .beq a b n => if b = 0 then encodeBranchC 6 a n else none
  | .branch .bne a b n => if b = 0 then encodeBranchC 7 a n else none
  | .shift op d a n => encodeShiftC op d a n
  | .alu op d a b => encodeAluC op d a b
  | .ebreak => some 0x9002#16
  | .load .lw d a i => memC false false 2 i a d false
  | .load .ld d a i => memC true false 3 i a d false
  | .store .sw a b i => memC false true 6 i a b true
  | .store .sd a b i => memC true true 7 i a b true
  | .fload .d d a i => memC true false 1 i a d true
  | .fstore .d a b i => memC true true 5 i a b true
  | _ => none

/-! ### Every form -/

/-- The form in which the hardware holds an instruction: a host word or parcel, the three ring words of
a ring position, a drain word, or a record of 64 bytes. -/
inductive Code where
  | host (w : Half)
  | parcel (h : Half16)
  | op (kind : PeKind) (op : BitVec 24) (route addr : BitVec 16)
  | drain (w : Half)
  | copy (r : List Byte)
  | queue (r : List Byte)
  | command (r : List Byte)
deriving DecidableEq, Repr

/-- The form of an instruction: none for an event of the machine, which has no encoding. -/
def encode (i : Instr) : Option Code :=
  match i with
  | .hostInstruction r true => (encodeC r).map .parcel
  | _ =>
    match encodeHost i with
    | some w => some (.host w)
    | none => match encodeOp i with
      | some (k, o, r, a) => some (.op k o r a)
      | none => match encodeDrain i with
        | some w => some (.drain w)
        | none => match encodeCopy i with
          | some r => some (.copy r)
          | none => match encodeQueue i with
            | some r => some (.queue r)
            | none => (encodeCommand i).map .command

/-- The instruction that a form stands for. -/
def decodeCode : Code → Except DecodeError Instr
  | .host w => decodeHost32 w
  | .parcel h => decodeHost16 h
  | .op k o r a => decodeOp k o r a
  | .drain w => decodeDrain w
  | .copy r => decodeCopy r
  | .queue r => decodeQueue r
  | .command r => decodeCommand r

/-- The instruction of a word as the opcode table numbers its bits: a word of custom-0 or custom-1
is a host word, any other word a drain word if it is one, and else a host word. -/
def decodeTableWord (nbits w : Nat) : Option Instr :=
  let h : Half := BitVec.ofNat 32 (w % 2 ^ nbits)
  if fOpc h = 0x0B#7 ∨ fOpc h = 0x2B#7 then (decodeHost32 h).toOption
  else match decodeDrain? h with
    | some i => some i
    | none => (decodeBytes (leBytes h.toNat 4)).toOption.map Prod.fst

end Sys2Proof
end

