-- ==== Sys2Proof/Machine/Packed.lean ====
section
/-! DEFINITION. Packed polynomial arithmetic: the values that the CPE ops form from operands alone
(03 R71 to R79, 06 R165 to R173), and the geometry and the arithmetic of the outer product
(03 R80, R81, R66). -/
namespace Sys2Proof

/-- What a PE op forms at issue: two results and the index of its first guard overflow (03 R78). -/
structure PeOut where
  r1 : Nat := 0
  r2 : Nat := 0
  ovf : Option Nat := none
deriving DecidableEq, Repr

/-- GW split into EA, EB and G (03 R75). -/
structure Gw where
  ea : Nat
  eb : Nat
  g : Nat
deriving DecidableEq, Repr

/-- The fields of a guard-width register (03 R75). -/
def Gw.of (v : BitVec 32) : Gw :=
  ⟨(v.extractLsb' 0 6).toNat, (v.extractLsb' 8 6).toNat, (v.extractLsb' 16 6).toNat⟩

/-- The coefficient spacing s (03 R75). -/
def Gw.s (w : Gw) : Nat := w.ea + w.eb + w.g
/-- The number n of fields per operand (03 R75). -/
def Gw.n (w : Gw) : Nat := 512 / w.s
/-- A `gwset` value is in range (03 R76). -/
def Gw.ok (w : Gw) : Bool :=
  1 ≤ w.ea && w.ea ≤ 32 && 1 ≤ w.eb && w.eb ≤ 32 && w.s ≤ 64

/-- The fields of GW that `gwset` writes; reserved bits are ignored (03 R76, 06 R183). -/
def gwMask : BitVec 32 := 0x003F3F3F#32

/-- WIDE (03 R73, 06 R165). -/
def peMulw (sgn : Bool) (a b : Nat) : PeOut :=
  let p := lowBits (readInt sgn a 512 * readInt sgn b 512) 1024
  { r1 := p % 2 ^ 512, r2 := p / 2 ^ 512 }

/-- SEG (03 R74, 06 R166). -/
def peMuls (sgn : Bool) (w a b : Nat) : PeOut :=
  let ps := (List.range (64 / w)).map fun k =>
    lowBits (readInt sgn (a / 2 ^ (8 * w * k)) (8 * w) * readInt sgn (b / 2 ^ (8 * w * k)) (8 * w))
      (16 * w)
  { r1 := joinLanes (8 * w) (ps.map fun p => p % 2 ^ (8 * w)),
    r2 := joinLanes (8 * w) (ps.map fun p => p / 2 ^ (8 * w)) }

/-- The signed fields of an operand: width e at spacing s (03 R77). -/
def packedFields (x s n e : Nat) : List Int := (List.range n).map fun i => sx (x / 2 ^ (s * i)) e

/-- Coefficient k of the product of two field lists (03 R77). -/
def convCoeff (as bs : List Int) (n k : Nat) : Int :=
  (List.range n).foldl
    (fun t i => if i ≤ k ∧ k - i < n then t + nth as i 0 * nth bs (k - i) 0 else t) 0

/-- Values checked against a range, saturated or recorded: the fields and the first index out of
range (03 R77, R78). -/
def guardAll (sat sgn : Bool) (w : Nat) (vs : List Int) : List Nat × Option Nat :=
  (vs.map fun v => lowBits (if sat then satI sgn v w else v) w,
   if sat then none else vs.findIdx? fun v => v != satI sgn v w)

/-- `mulc` (03 R77, 06 R167). -/
def peMulc (w : Gw) (sat : Bool) (a b : Nat) : PeOut :=
  let as := packedFields a w.s w.n w.ea
  let bs := packedFields b w.s w.n w.eb
  let cs := (List.range (2 * w.n - 1)).map (convCoeff as bs w.n)
  let (fs, o) := guardAll sat true w.s cs
  let y := joinLanes w.s fs
  { r1 := y % 2 ^ 512, r2 := y / 2 ^ 512 % 2 ^ 512, ovf := o }

/-- `dotx` (03 R77, 06 R167): only coefficient n - 1 is formed and checked. -/
def peDotx (w : Gw) (sat : Bool) (a b : Nat) : PeOut :=
  let c := convCoeff (packedFields a w.s w.n w.ea) (packedFields b w.s w.n w.eb) w.n (w.n - 1)
  let (fs, o) := guardAll sat true w.s [c]
  { r1 := lowBits (sx (nth fs 0 0) w.s) 512, ovf := o.map fun _ => w.n - 1 }

/-- `pack` (03 R79, 06 R168). -/
def pePack (w : Gw) (ty : Nat) (opb sat : Bool) (a : Nat) : PeOut :=
  let ew := if opb then w.eb else w.ea
  let tw := typeWidth ty
  let vs := (List.range w.n).map fun i =>
    if i < 512 / tw then readInt (typeSigned ty) (a / 2 ^ (tw * i)) tw else 0
  { r1 := joinLanes w.s (vs.map fun v => lowBits (if sat then satS v ew else v) w.s),
    ovf := if sat then none else vs.findIdx? fun v => outS v ew }

/-- `xtrc` (03 R79, 06 R169). -/
def peXtrc (w : Gw) (ty : Nat) (sat : Bool) (a b c : Nat) : PeOut :=
  let y := b * 2 ^ 512 + a
  let f := c % 2 ^ 10
  let tw := typeWidth ty
  let vs := (List.range (512 / tw)).map fun k =>
    let j := f + k
    if w.s * j + w.s - 1 ≤ 1023 then sx (y / 2 ^ (w.s * j)) w.s else 0
  let (fs, o) := guardAll sat (typeSigned ty) tw vs
  { r1 := joinLanes tw fs, ovf := o }

/-- `addw` (06 R170). -/
def peAddw (a b c : Nat) : PeOut :=
  let t := a + b + c % 2
  { r1 := t % 2 ^ 512, r2 := t / 2 ^ 512 % 2 }

/-- `subw` (06 R170). -/
def peSubw (a b c : Nat) : PeOut :=
  let t := a + 2 ^ 512 - b - c % 2
  { r1 := t % 2 ^ 512, r2 := 1 - t / 2 ^ 512 % 2 }

/-- The shift count of `shlw` and `shrw` (06 R171). -/
def wideCount (b : Nat) : Nat := min (b % 2 ^ 16) 512

/-- `shlw` (06 R171). -/
def peShlw (a b c : Nat) : PeOut :=
  { r1 := (a * 2 ^ wideCount b + c / 2 ^ (512 - wideCount b)) % 2 ^ 512 }

/-- `shrw` (06 R171). -/
def peShrw (ar : Bool) (a b c : Nat) : PeOut :=
  if ar then { r1 := lowBits (sx a 512 / (2 ^ wideCount b : Nat)) 512 }
  else { r1 := (c * 2 ^ 512 + a) / 2 ^ wideCount b % 2 ^ 512 }

/-- `clzw` (06 R172). -/
def peClzw (a : Nat) : PeOut := { r1 := leadingZeros a 512 }

/-- `rndw` (06 R173). -/
def peRndw (sgn : Bool) (rm : Rm) (sat ftz : Bool) (a b c : Nat) : PeOut :=
  let y := readInt sgn (b * 2 ^ 512 + a) 1024
  { r1 := Fmt.f64.encFtz (.fin (y < 0) y.natAbs (sx c 16)) rm ftz sat }

/-! ### The outer product -/

/-- Elements per operand at width selector w (03 R80). -/
def outerElems (w : Nat) : Nat := 64 / 2 ^ w

/-- The fold interval at width selector w, 0 where there is none (03 R80). -/
def foldInterval (w : Nat) : Nat := if w = 0 then 32 else if w = 1 then 16 else 0

/-- Element i of an outer-product operand at w = 1 or 2, read by its type; `.bq` elements are
signed (06 R174). -/
def outerInt (w ty x i : Nat) : Int :=
  readInt (ty = 0xB || typeSigned ty) (x / 2 ^ (8 * 2 ^ w * i)) (8 * 2 ^ w)

/-- One k-step of the integer cells at w = 1 or 2: the cell patterns and the first cell out of
range (03 R81). `old` gives a cell's pattern before, 0 throughout for `outerz`; rows whose bit of
`rm` is clear keep it. -/
def outerIntStep (w ty : Nat) (sat : Bool) (rm : Nat) (a b : Nat) (old : Nat → Nat) :
    List Nat × Option Nat :=
  let n := outerElems w
  let bits := 32 * 2 ^ w
  let vs : List (Int × Bool) := (List.range (n * n)).map fun c =>
    let x := sx (old c) bits
    if rm.testBit (c / n) then (x + outerInt w ty a (c / n) * outerInt w ty b (c % n), true)
    else (x, false)
  (vs.map fun v => lowBits (if sat then satS v.1 bits else v.1) bits,
   if sat then none else vs.findIdx? fun v => v.2 && outS v.1 bits)

/-- One k-step of the float cells at w = 4 or 8 (03 R81); `zero` starts the sums afresh. -/
def outerFloatStep (f : Fmt) (rmd : Rm) (ftz zero : Bool) (rm : Nat) (a b : Nat)
    (old : Nat → Nat) : List Nat :=
  let n := 512 / f.width
  (List.range (n * n)).map fun c =>
    if rm.testBit (c / n) then
      let x := (f.decFtz (a / 2 ^ (f.width * (c / n)) % 2 ^ f.width) ftz).mul
        (f.decFtz (b / 2 ^ (f.width * (c % n)) % 2 ^ f.width) ftz)
      f.encFtz (if zero then x else (f.decFtz (old c) ftz).add x rmd) rmd ftz
    else if zero then 0 else old c

/-- One captured cell folded into its fold register: the poison and zero-sum cases, else one exact
sum rounded once (02 R66). -/
def foldOne (ea eb : Nat) (sum : Int) (reg : Nat) : Nat :=
  if ea = 0x8000 ∨ eb = 0x8000 then Fmt.f32.nan
  else if sum = 0 then reg
  else Fmt.f32.enc ((Fmt.f32.dec reg).add (.fin (sum < 0) sum.natAbs (sx ea 16 + sx eb 16)) .rne) .rne

/-- The fold registers after a fold of the captured cells (03 R82). -/
def foldStep (w : Nat) (ea eb cells : Nat) (old : Nat → Nat) : List Nat :=
  let n := outerElems w
  let bits := 32 * 2 ^ w
  (List.range (n * n)).map fun c =>
    foldOne (ea / 2 ^ (16 * (c / n)) % 2 ^ 16) (eb / 2 ^ (16 * (c % n)) % 2 ^ 16)
      (sx (cells / 2 ^ (bits * c)) bits) (old c)

/-- The number of beats of a drain in a mode (03 R88). -/
def drainBeats (w ty : Nat) : Nat :=
  if w = 0 then 256
  else if w = 1 then (if ty = 0xB then 64 else 128)
  else if w = 2 then 16 else 8

end Sys2Proof
end

