-- ==== Sys2Proof/Machine/Lanes.lean ====
section
/-! DEFINITION. The lane arithmetic of the APEs (07 R188 to R208) and the scalar arithmetic of the
SPE (07 R214, R215): results as functions of the operands and the ring words. -/
namespace Sys2Proof

/-- The float format of a type selector (07 R188). -/
def typeFmt (ty : Nat) : Fmt := if ty = 0xA then .f64 else .f32

/-- Lane count of a type (07 R188). -/
def laneCount (ty : Nat) : Nat := 512 / typeWidth ty

/-- Lane i of an operand as a pattern. -/
def laneNat (ty x i : Nat) : Nat := x / 2 ^ (typeWidth ty * i) % 2 ^ typeWidth ty

/-- Lane i of an operand as an integer (07 R188). -/
def laneInt (ty x i : Nat) : Int := readInt (typeSigned ty) (laneNat ty x i) (typeWidth ty)

/-- A result whose lane i is `g i`, a pattern. -/
def mapLanes (ty : Nat) (g : Nat → Nat) : Nat :=
  joinLanes (typeWidth ty) ((List.range (laneCount ty)).map g)

/-- A result whose lane i is the low bits of the integer `g i`. -/
def mapInts (ty : Nat) (g : Nat → Int) : Nat := mapLanes ty fun i => lowBits (g i) (typeWidth ty)

/-- satT of 07 R193. -/
def satT (ty : Nat) (v : Int) : Int := satI (typeSigned ty) v (typeWidth ty)

/-- All ones or zero in a lane. -/
def laneMask (ty : Nat) (b : Bool) : Nat := if b then 2 ^ typeWidth ty - 1 else 0

/-- An integer op of two operands, wrapping (07 R193). -/
def apeInt2 (ty a b : Nat) (g : Int → Int → Int) : PeOut :=
  { r1 := mapInts ty fun i => g (laneInt ty a i) (laneInt ty b i) }

/-- `mul` (07 R193). -/
def apeMul (ty : Nat) (sat : Bool) (a b : Nat) : PeOut :=
  apeInt2 ty a b fun x y => if sat then satT ty (x * y) else x * y
/-- `mulh` (07 R193). -/
def apeMulh (ty a b : Nat) : PeOut :=
  apeInt2 ty a b fun x y => (x * y) / (2 ^ typeWidth ty : Nat)
/-- `mad` (07 R193). -/
def apeMad (ty : Nat) (sat : Bool) (a b c : Nat) : PeOut :=
  { r1 := mapInts ty fun i =>
      let v := laneInt ty a i * laneInt ty b i + laneInt ty c i
      if sat then satT ty v else v }

/-- The canonical NaN for a NaN pattern, else the pattern with its sign changed by `g` (07 R193). -/
def floatSign (f : Fmt) (g : Bool → Bool) (x : Nat) : Nat :=
  if (f.dec x).isNan then f.nan
  else x % 2 ^ (f.width - 1) + f.signBit (g (x.testBit (f.width - 1)))

/-- `abs` and `neg` (07 R193): `ig` on integers, `fg` on the sign of floats. -/
def apeSign (ty : Nat) (sat : Bool) (a : Nat) (ig : Int → Int) (fg : Bool → Bool) : PeOut :=
  if typeFloat ty then { r1 := mapLanes ty fun i => floatSign (typeFmt ty) fg (laneNat ty a i) }
  else { r1 := mapInts ty fun i =>
          let v := ig (laneInt ty a i)
          if sat then satT ty v else v }

/-- The shifts of 07 R195 on one lane of `w` bits. -/
def laneShl (w x n : Nat) : Nat := if n ≥ w then 0 else x * 2 ^ n % 2 ^ w
/-- Logical right shift (07 R195). -/
def laneShr (w x n : Nat) : Nat := if n ≥ w then 0 else x / 2 ^ n
/-- Arithmetic right shift (07 R195). -/
def laneSra (w x n : Nat) : Nat := lowBits (sx x w / (2 ^ min n (w - 1) : Nat)) w
/-- Rotation left (07 R195). -/
def laneRot (w x n : Nat) : Nat := (x * 2 ^ (n % w) + x / 2 ^ (w - n % w)) % 2 ^ w

/-- A shift of each lane by the lane of B (07 R195). -/
def apeShift (ty a b : Nat) (g : Nat → Nat → Nat → Nat) : PeOut :=
  { r1 := mapLanes ty fun i => g (typeWidth ty) (laneNat ty a i) (laneNat ty b i) }

/-- The condition codes of `cmp` and `fcmp` on an ordering; none is unordered (07 R192, R198). -/
def condHolds (c : Nat) (o : Option Ordering) : Bool :=
  match o with
  | none => c = 1 || c = 6
  | some o =>
    if c = 0 then o = .eq else if c = 1 then o ≠ .eq else if c = 2 then o = .lt
    else if c = 3 then o ≠ .gt else if c = 4 then o = .gt else if c = 5 then o ≠ .lt
    else c = 7

/-- `cmp` (07 R196). -/
def apeCmp (ty cond a b : Nat) : PeOut :=
  { r1 := mapLanes ty fun i =>
      laneMask ty (condHolds cond (some (compare (laneInt ty a i) (laneInt ty b i)))) }
/-- A lane as an op writes that selects it: a NaN of a float type is the canonical NaN (02 R44). The lane movement ops
of 07 R202 keep its bits. -/
def laneCanon (ty x : Nat) : Nat :=
  if typeFloat ty ∧ ((typeFmt ty).dec x).isNan then (typeFmt ty).nan else x

/-- `sel` (07 R196, 02 R44). -/
def apeSel (ty a b c : Nat) : PeOut :=
  { r1 := mapLanes ty fun i => laneCanon ty (if laneNat ty c i ≠ 0 then laneNat ty a i else laneNat ty b i) }
/-- `cnt` (07 R196). -/
def apeCnt (ty a : Nat) : PeOut :=
  { r1 := mapLanes ty fun i => popCount (laneNat ty a i) (typeWidth ty) }
/-- `lzc` (07 R196). -/
def apeLzc (ty a : Nat) : PeOut :=
  { r1 := mapLanes ty fun i => leadingZeros (laneNat ty a i) (typeWidth ty) }

/-! ### Floats -/

/-- A float op on each lane, inputs and result under FTZ, encoded once (07 R190, R197). -/
def apeFloat (f : OpF) (g : Rm → (Nat → Val) → Val) (xs : List Nat) : PeOut :=
  let fm := typeFmt f.ty
  let rm := Rm.of2 f.rmode
  { r1 := mapLanes f.ty fun i =>
      fm.encFtz (g rm fun k => fm.decFtz (laneNat f.ty (nth xs k 0) i) f.ftz) rm f.ftz f.sat }

/-- minimumNumber and maximumNumber on patterns of a format, -0 below +0 (07 R198). -/
def floatExtreme (fm : Fmt) (ftz wantMax : Bool) (x y : Nat) : Nat :=
  let vx := fm.decFtz x ftz
  let vy := fm.decFtz y ftz
  let pick (v : Val) : Nat := fm.enc v .rne
  match vx.cmp vy with
  | none => if vx.isNan then (if vy.isNan then fm.nan else pick vy) else pick vx
  | some .lt => pick (if wantMax then vy else vx)
  | some .gt => pick (if wantMax then vx else vy)
  | some .eq => pick (if vx.neg? = wantMax then vy else vx)

/-- `fmin` and `fmax` (07 R198). -/
def apeExtreme (f : OpF) (wantMax : Bool) (a b : Nat) : PeOut :=
  { r1 := mapLanes f.ty fun i =>
      floatExtreme (typeFmt f.ty) f.ftz wantMax (laneNat f.ty a i) (laneNat f.ty b i) }

/-- `fcmp` (07 R198). -/
def apeFcmp (f : OpF) (a b : Nat) : PeOut :=
  let fm := typeFmt f.ty
  { r1 := mapLanes f.ty fun i => laneMask f.ty (condHolds (f.modBits 2 0)
      ((fm.decFtz (laneNat f.ty a i) f.ftz).cmp (fm.decFtz (laneNat f.ty b i) f.ftz))) }

/-- One lane of `fcvt` from type `src` to type `f.ty` (07 R200). -/
def cvtLane (f : OpF) (src x : Nat) : Nat :=
  let rm := Rm.of2 f.rmode
  let w := typeWidth f.ty
  if typeFloat f.ty then
    let v := if typeFloat src then (typeFmt src).decFtz x f.ftz
      else Val.ofInt (readInt true x (typeWidth src))
    (typeFmt f.ty).encFtz v rm f.ftz f.sat
  else if typeFloat src then lowBits (((typeFmt src).decFtz x f.ftz).toInt rm true w) w
  else
    let v := readInt true x (typeWidth src)
    lowBits (if f.sat then satS v w else v) w

/-- `fcvt` (07 R200). -/
def apeFcvt (f : OpF) (a b : Nat) : PeOut :=
  let src := fcvtSrc (f.modBits 1 0)
  let cv (x i : Nat) : Nat := cvtLane f src (laneNat src x i)
  if typeWidth f.ty = typeWidth src then { r1 := mapLanes f.ty (cv a) }
  else if typeWidth f.ty = 64 then
    { r1 := mapLanes f.ty (cv a), r2 := mapLanes f.ty fun i => cv a (i + 8) }
  else { r1 := mapLanes f.ty fun i => if i < 8 then cv a i else cv b (i - 8) }

/-! ### Reductions and lane movement -/

/-- Lane i takes part in a reduction (07 R201). -/
def takesPart (f : OpF) (b i : Nat) : Bool := f.modBits 0 0 = 0 || laneNat f.ty b i ≠ 0

/-- Levels of the tree of 02 R69 over a type's lanes. -/
def treeLevels (ty : Nat) : Nat := (laneCount ty).log2

/-- `rsum` (07 R201). -/
def apeRsum (f : OpF) (a b : Nat) : PeOut :=
  let is := List.range (laneCount f.ty)
  if typeFloat f.ty then
    let fm := typeFmt f.ty
    let rm := Rm.of2 f.rmode
    let step (x y : Nat) : Nat :=
      fm.encFtz ((fm.decFtz x f.ftz).add (fm.decFtz y f.ftz) rm) rm f.ftz f.sat
    { r1 := nth (treeFold step (treeLevels f.ty)
        (is.map fun i => if takesPart f b i then laneNat f.ty a i else 0)) 0 0 }
  else
    let s := is.foldl (fun t i => if takesPart f b i then t + laneInt f.ty a i else t) (0 : Int)
    { r1 := lowBits (if f.sat then satT f.ty s else s) (typeWidth f.ty) }

/-- `rmax` and `rmin` (07 R201). -/
def apeRext (f : OpF) (wantMax : Bool) (a b : Nat) : PeOut :=
  let is := List.range (laneCount f.ty)
  if typeFloat f.ty then
    let fm := typeFmt f.ty
    { r1 := nth (treeFold (floatExtreme fm f.ftz wantMax) (treeLevels f.ty)
        (is.map fun i => if takesPart f b i then laneNat f.ty a i else fm.infCode wantMax)) 0 0 }
  else
    let w := typeWidth f.ty
    -- the type's minimum for rmax, its maximum for rmin
    let start := satT f.ty (if wantMax then -(2 ^ w : Nat) else (2 ^ w : Nat))
    { r1 := lowBits (is.foldl (fun t i => if takesPart f b i then
        (if wantMax then max t (laneInt f.ty a i) else min t (laneInt f.ty a i)) else t) start) w }

/-- `bcast` (07 R202). -/
def apeBcast (ty a b : Nat) : PeOut :=
  let j := b % 2 ^ 64
  { r1 := mapLanes ty fun _ => if j < laneCount ty then laneNat ty a j else 0 }
/-- `perm` (07 R202). -/
def apePerm (ty a b : Nat) : PeOut :=
  { r1 := mapLanes ty fun i =>
      if laneNat ty b i < laneCount ty then laneNat ty a (laneNat ty b i) else 0 }
/-- `shufl` (07 R202). -/
def apeShufl (ty a b : Nat) : PeOut :=
  { r1 := mapLanes ty fun i => laneNat ty a (i ^^^ (b % 64 % laneCount ty)) }
/-- `ext` (07 R202). -/
def apeExt (ty a b c : Nat) : PeOut :=
  let n := c % 2 ^ 64
  let l := laneCount ty
  { r1 := mapLanes ty fun i =>
      if i + n < l then laneNat ty a (i + n)
      else if i + n < 2 * l then laneNat ty b (i + n - l) else 0 }
/-- `zip` (07 R202). -/
def apeZip (ty a b : Nat) : PeOut :=
  let h := laneCount ty / 2
  let pick (o i : Nat) : Nat :=
    if i % 2 = 0 then laneNat ty a (o + i / 2) else laneNat ty b (o + i / 2)
  { r1 := mapLanes ty (pick 0), r2 := mapLanes ty (pick h) }
/-- `unzip` (07 R202). -/
def apeUnzip (ty a b : Nat) : PeOut :=
  let h := laneCount ty / 2
  let pick (o i : Nat) : Nat :=
    if i < h then laneNat ty a (2 * i + o) else laneNat ty b (2 * (i - h) + o)
  { r1 := mapLanes ty (pick 0), r2 := mapLanes ty (pick 1) }

/-! ### Ternary digits -/

/-- A byte of digits below 243 as five signed bytes (07 R203). -/
def ternaryBytes (b : Nat) : List Nat :=
  (List.range 5).map fun k => (b / 3 ^ k % 3 + 255) % 256

/-- `tunp` (07 R203): the result and whether a bad code was found. -/
def apeTunp (a b : Nat) : PeOut × Bool :=
  let g := b % 2 ^ 64
  if g ≥ 5 then ({}, false)
  else
    let bytes := (List.range 12).map fun j => a / 2 ^ (8 * (12 * g + j)) % 256
    ({ r1 := joinLanes 8 (bytes.flatMap fun x =>
        if x ≥ 243 then [0, 0, 0, 0, 0] else ternaryBytes x) },
     bytes.any fun x => x ≥ 243)

/-- `tacc` (07 R204): the result and whether a bad code was found. -/
def apeTacc (f : OpF) (a b c : Nat) : PeOut × Bool :=
  let digit (i : Nat) : Nat := a / 2 ^ (8 * i) % 256
  let term (i : Nat) : Int :=
    if digit i = 1 then laneInt f.ty b i else if digit i = 0xFF then -(laneInt f.ty b i) else 0
  ({ r1 := joinLanes 32 ((List.range 16).map fun k =>
      let v := sx (c / 2 ^ (32 * k)) 32 + term (4 * k) + term (4 * k + 1) + term (4 * k + 2)
        + term (4 * k + 3)
      lowBits (if f.sat then satS v 32 else v) 32) },
   (List.range 64).any fun i => digit i ≠ 0 && digit i ≠ 1 && digit i ≠ 0xFF)

/-! ### Saturation, clamping, masks and tables -/

/-- `sat` (07 R206). -/
def apeSat (f : OpF) (a : Nat) : PeOut :=
  { r1 := mapInts f.ty fun i =>
      satI (typeSigned f.ty) (laneInt f.ty a i) (f.modBits 4 0 + 1) }

/-- `clamp` (07 R207): a NaN x gives the canonical NaN, a NaN bound is ignored. -/
def apeClamp (f : OpF) (a b c : Nat) : PeOut :=
  if typeFloat f.ty then
    let fm := typeFmt f.ty
    { r1 := mapLanes f.ty fun i =>
        if (fm.dec (laneNat f.ty a i)).isNan then fm.nan
        else floatExtreme fm f.ftz false
          (floatExtreme fm f.ftz true (laneNat f.ty a i) (laneNat f.ty b i)) (laneNat f.ty c i) }
  else { r1 := mapInts f.ty fun i => min (max (laneInt f.ty a i) (laneInt f.ty b i)) (laneInt f.ty c i) }

/-- `mask` (07 R208). -/
def apeMask (ty a : Nat) : PeOut := { r1 := mapLanes ty fun i => laneMask ty (a.testBit i) }
/-- `iota` (07 R208). -/
def apeIota (ty a b : Nat) : PeOut :=
  { r1 := mapInts ty fun i => laneInt ty a 0 + i * laneInt ty b 0 }
/-- `lut` (07 R208). -/
def apeLut (ty a b c : Nat) : PeOut :=
  let l := laneCount ty
  { r1 := mapLanes ty fun i =>
      let e := min (laneNat ty a i) (2 * l - 1)
      if e < l then laneNat ty b e else laneNat ty c (e - l) }

/-! ### SPE scalars -/

/-- The conditions of `pcmp` (07 R213, R214). -/
def speCond (ty cond a b : Nat) : Bool :=
  let o := compare (readInt (ty = 7) a 64) (readInt (ty = 7) b 64)
  if cond = 0 then o = .eq else if cond = 1 then o ≠ .eq else if cond = 2 then o = .lt else o ≠ .lt

/-- `sadd` and `ssub` (07 R215). -/
def speSum (f : OpF) (minus : Bool) (a b : Nat) : Nat :=
  let x := readInt (f.ty = 7) a 64
  let y := readInt (f.ty = 7) b 64
  let v := if minus then x - y else x + y
  lowBits (if f.modBits 0 0 = 1 then satI (f.ty = 7) v 64 else v) 64

/-- `sshl` (07 R215). -/
def speShift (dir a b : Nat) : Nat :=
  let n := b % 2 ^ 64
  if dir = 0 then laneShl 64 (a % 2 ^ 64) n
  else if dir = 1 then laneShr 64 (a % 2 ^ 64) n
  else laneSra 64 a n

end Sys2Proof
end

