-- ==== Sys2Proof/Machine/Codec.lean ====
section
/-! DEFINITION. The Aster FP64 block codec (12 R339 to R345, R352): lifting transform, sequency
order, bit allocation, encoding and decoding of one block, and the error a merge adds. -/
namespace Sys2Proof

/-- The modes of a block (12 R340). -/
inductive BlockMode where
  | zero | normal | nonfinite
deriving DecidableEq, Repr

/-- Row and column of coefficient n of the 2-D sequency order (12 R343). -/
def sequency : List (Nat × Nat) :=
  [(0, 0), (0, 1), (1, 0), (1, 1), (0, 2), (0, 3), (2, 0), (3, 0),
   (1, 2), (1, 3), (2, 1), (3, 1), (2, 2), (2, 3), (3, 2), (3, 3)]

/-- Bits kept per coefficient, 2-D, by RATE (12 R343). -/
def alloc2 (rate : Nat) : List Nat :=
  if rate = 0 then [16, 11, 11, 9, 8, 8, 8, 8, 6, 6, 6, 6, 3, 3, 3, 3]
  else if rate = 1 then [24, 16, 16, 15, 11, 11, 11, 11, 9, 9, 9, 9, 7, 7, 7, 7]
  else if rate = 2 then [30, 22, 22, 19, 15, 15, 15, 15, 13, 13, 13, 13, 10, 10, 9, 9]
  else if rate = 3 then [44, 32, 32, 27, 22, 22, 22, 22, 20, 20, 20, 20, 17, 17, 17, 17]
  else [58, 44, 44, 38, 30, 30, 30, 30, 27, 27, 27, 27, 22, 22, 22, 21]

/-- Bits kept per coefficient, 1-D, by RATE (12 R343). -/
def alloc1 (rate : Nat) : List Nat :=
  if rate = 0 then [7, 5, 4, 3] else if rate = 1 then [12, 9, 7, 7]
  else if rate = 2 then [17, 13, 11, 10] else if rate = 3 then [26, 20, 19, 18]
  else [35, 28, 26, 26]

/-- Bits kept per coefficient. -/
def allocBits (two : Bool) (rate : Nat) : List Nat := if two then alloc2 rate else alloc1 rate

/-- Bits per value at a RATE (12 R336). -/
def rateBits (rate : Nat) : Nat :=
  if rate = 0 then 8 else if rate = 1 then 12 else if rate = 2 then 16 else if rate = 3 then 24
  else 32

/-- Block size in bytes (12 R339). -/
def blockBytes (two : Bool) (rate : Nat) : Nat := (if two then 16 else 4) * rateBits rate / 8

/-- Elements of a block. -/
def blockElems (two : Bool) : Nat := if two then 16 else 4

/-- The lifting step on four integers (12 R342). -/
def lift4 (y : List Int) : List Int :=
  let d0 := nth y 1 0 - nth y 0 0
  let s0 := nth y 0 0 + d0 / 2
  let d1 := nth y 3 0 - nth y 2 0
  let s1 := nth y 2 0 + d1 / 2
  let dd := s1 - s0
  [s0 + dd / 2, dd, d0, d1]

/-- The inverse of `lift4` (12 R342). -/
def unlift4 (c : List Int) : List Int :=
  let s0 := nth c 0 0 - nth c 1 0 / 2
  let s1 := nth c 1 0 + s0
  let y0 := s0 - nth c 2 0 / 2
  let y2 := s1 - nth c 3 0 / 2
  [y0, nth c 2 0 + y0, y2, nth c 3 0 + y2]

/-- Row r of a 4 × 4 block. -/
def rowOf (x : List Int) (r : Nat) : List Int := (List.range 4).map fun j => nth x (4 * r + j) 0
/-- A function applied to each row of a 4 × 4 block. -/
def mapRows (f : List Int → List Int) (x : List Int) : List Int :=
  (List.range 4).flatMap fun r => f (rowOf x r)
/-- The transpose of a 4 × 4 block. -/
def transpose4 (x : List Int) : List Int :=
  (List.range 16).map fun n => nth x (4 * (n % 4) + n / 4) 0

/-- The forward transform, coefficients by position (12 R342). -/
def forward (two : Bool) (q : List Int) : List Int :=
  if two then transpose4 (mapRows lift4 (transpose4 (mapRows lift4 q))) else lift4 q

/-- The inverse transform (12 R342). -/
def inverse (two : Bool) (c : List Int) : List Int :=
  if two then mapRows unlift4 (transpose4 (mapRows unlift4 (transpose4 c))) else unlift4 c

/-- Position of coefficient n in the block. -/
def coeffPos (two : Bool) (n : Nat) : Nat :=
  if two then 4 * (nth sequency n (0, 0)).1 + (nth sequency n (0, 0)).2 else n

/-- The width W of coefficient n (12 R342). -/
def coeffWidth (two : Bool) (n : Nat) : Nat :=
  if two then
    62 + (if (nth sequency n (0, 0)).1 ≠ 0 then 1 else 0)
      + (if (nth sequency n (0, 0)).2 ≠ 0 then 1 else 0)
  else if n = 0 then 62 else 63

/-- The nearest integer to c / 2^k, ties to even. -/
def roundShift (c : Int) (k : Nat) : Int := roundInt .rne (c < 0) c.natAbs (-(k : Int))

/-- A quantised coefficient field (12 R344). -/
def quantise (c : Int) (w b : Nat) : Int := satS (roundShift c (w - b)) b

/-- The fields of a block joined from bit 13 up. -/
def joinFields : List (Nat × Nat) → Nat
  | [] => 0
  | (v, b) :: t => v % 2 ^ b + 2 ^ b * joinFields t

/-- The common exponent E of finite values, not all zero (12 R341). -/
def blockExp (xs : List Val) : Int :=
  let e := xs.foldl (fun (t : Int) v => match v with
    | .fin _ m e => if m = 0 then t else max t ((m.log2 : Int) + e)
    | _ => t) (-1200)
  max (e + 1) (-1023)

/-- The integers q of a block (12 R341). -/
def blockInts (xs : List Val) (e : Int) : List Int :=
  xs.map fun v => match v with
    | .fin n m x => roundInt .rne n m (x + 61 - e)
    | _ => 0

/-- A block of FP64 codes encoded: its bits, its mode (12 R340, R341). -/
def encodeBlock (two : Bool) (rate : Nat) (codes : List Nat) : Nat × BlockMode :=
  let xs := codes.map Fmt.f64.dec
  if xs.any fun v => v.isNan || v.isInf then (2, .nonfinite)
  else if xs.all Val.isZero then (0, .zero)
  else
    let e := blockExp xs
    let c := forward two (blockInts xs e)
    let bs := allocBits two rate
    let fields := (List.range (blockElems two)).map fun n =>
      (lowBits (quantise (nth c (coeffPos two n) 0) (coeffWidth two n) (nth bs n 0)) (nth bs n 0),
       nth bs n 0)
    (1 + 4 * (e + 1023).toNat + 2 ^ 13 * joinFields fields, .normal)

/-- The coefficient fields of a block, split from bit 13 up. -/
def splitFields (v : Nat) : List Nat → List Int
  | [] => []
  | b :: t => sx v b :: splitFields (v / 2 ^ b) t

/-- The decoded integers of a normal block (12 R344, R345). -/
def decodeInts (two : Bool) (rate bits : Nat) : List Int :=
  let bs := allocBits two rate
  let fs := splitFields (bits / 2 ^ 13) bs
  let cs := (List.range (blockElems two)).map fun n =>
    (coeffPos two n, nth fs n 0 * (2 ^ (coeffWidth two n - nth bs n 0) : Nat))
  inverse two ((List.range (blockElems two)).map fun p =>
    ((cs.find? fun x => x.1 = p).map Prod.snd).getD 0)

/-- The exponent E of a block (12 R340). -/
def blockE (bits : Nat) : Int := (bits / 4 % 2 ^ 11 : Nat) - 1023

/-- A block decoded to FP64 codes (12 R345). -/
def decodeBlock (two : Bool) (rate bits : Nat) : List Nat :=
  let n := blockElems two
  if bits % 4 = 0 then List.replicate n 0
  else if bits % 4 = 1 then
    (decodeInts two rate bits).map fun q =>
      Fmt.f64.enc (.fin (q < 0) q.natAbs (blockE bits - 61)) .rne true
  else List.replicate n Fmt.f64.nan

/-- The error that a merge in normal mode adds: the sum over the elements of
⌈|q̂ · 2^(E-61) - x| / 2^(E-61)⌉ (12 R352). -/
def blockError (two : Bool) (rate bits : Nat) (codes : List Nat) : Nat :=
  let qs := decodeInts two rate bits
  (List.range (blockElems two)).foldl (fun t i =>
    match Fmt.f64.dec (nth codes i 0) with
    | .fin n m x =>
      -- x in units of 2^(E-61), over the denominator 2^k
      let e := x + 61 - blockE bits
      let k := if e < 0 then (-e).toNat else 0
      let num := signedInt n (if e < 0 then m else m * 2 ^ e.toNat)
      let d := (nth qs i 0 * (2 ^ k : Nat) - num).natAbs
      t + (d + 2 ^ k - 1) / 2 ^ k
    | _ => t) 0

end Sys2Proof
end

