-- ==== Sys2Proof/Machine/Mem.lean ====
section
/-! DEFINITION. Physical memory: the canonical list of bytes, regions and homes (11 R312,
13 R354, R355), poison (13 R378), codec pages (12 R338, R348). Wider accesses are little-endian (00 R5). -/
namespace Sys2Proof.Machine

/-! ### The list of cells -/

/-- What an address reads as that the list does not name (17 R444 for scratchpads and pool; log
entry 4 for HBM and host memory). -/
def blankByte : Byte := 0

/-- One byte of memory. -/
def Memory.read : List Host.Cell → Nat → Byte
  | [], _ => blankByte
  | (b, v) :: t, a => if a = b then v else Memory.read t a

/-- One byte written; writing what an unlisted address reads as removes the entry. -/
def Memory.write : List Host.Cell → Nat → Byte → List Host.Cell
  | [], a, v => if v = blankByte then [] else [(a, v)]
  | (b, w) :: t, a, v =>
    if a = b then (if v = blankByte then t else (a, v) :: t)
    else if a < b then (if v = blankByte then (b, w) :: t else (a, v) :: (b, w) :: t)
    else (b, w) :: Memory.write t a v

/-- Addresses above `lo` rise strictly and no entry equals what an unlisted address reads as. -/
def Memory.wfFrom : Nat → List Host.Cell → Bool
  | _, [] => true
  | lo, (a, v) :: t => lo ≤ a && v != blankByte && Memory.wfFrom (a + 1) t

/-- The canonical form of memory. -/
def Memory.wf (m : List Host.Cell) : Bool := Memory.wfFrom 0 m

/-- n bytes from address a up, as a little-endian number. -/
def Memory.readLE (m : List Host.Cell) (a : Nat) : Nat → Nat
  | 0 => 0
  | n + 1 => (Memory.read m a).toNat + 256 * Memory.readLE m (a + 1) n

/-- Bytes written from address a up where the enable list holds a non-zero. -/
def Memory.writeEn (m : List Host.Cell) (a : Nat) : List Nat → List Nat → List Host.Cell
  | [], _ => m
  | _, [] => m
  | v :: vs, e :: es =>
    Memory.writeEn (if e ≠ 0 then Memory.write m a (BitVec.ofNat 8 v) else m) (a + 1) vs es

/-- The n bytes of a number, the lowest first. -/
def bytesOf (v : Nat) : Nat → List Nat
  | 0 => []
  | n + 1 => v % 256 :: bytesOf (v / 256) n

/-- The number of a list of bytes, the lowest first. -/
def ofBytes : List Nat → Nat
  | [] => 0
  | b :: t => b % 256 + 256 * ofBytes t

/-! ### Regions, channels, homes -/

/-- Two ranges of addresses share one. -/
def rangesMeet (a n b m : Nat) : Bool := a < b + m && b < a + n

/-- The region of a physical address, PA[51:48] (11 R312). -/
def regionOf (pa : Nat) : Nat := pa / 2 ^ 48

/-- Base of region 0x1, the explicit pool. -/
def poolBase : Nat := 2 ^ 48
/-- Base of region 0x2, the scratchpads. -/
def spmBase : Nat := 2 * 2 ^ 48
/-- Base of region 0x3, the device registers. -/
def devBase : Nat := 3 * 2 ^ 48
/-- Base of host memory. -/
def hostBase : Nat := 8 * 2 ^ 48

/-- The scratchpad of cluster k, core n (11 R312). -/
def spmAddr (k n : Nat) : Nat := spmBase + k * 2 ^ 28 + n * 2 ^ 21

/-- The channels of a die that are not retired (13 R354). -/
def liveChannels (ret : BitVec 512) (d : Nat) : List Nat :=
  (List.range 128).filterMap fun i => if ret.getLsbD (128 * d + i) then none else some (128 * d + i)

/-- 64 KiB granules per channel (13 R354). -/
def granules : Nat := 22888

/-- The bytes of a die's span (13 R354). -/
def dieSpan (ret : BitVec 512) (d : Nat) : Nat := (liveChannels ret d).length * granules * 65536

/-- The first address of a die's span (13 R354). -/
def dieStart (ret : BitVec 512) : Nat → Nat
  | 0 => 0
  | d + 1 => dieStart ret d + dieSpan ret d

/-- Installed HBM capacity. -/
def State.hbmSize (s : State) : Nat := dieStart s.chanRet 4

/-- The die whose span holds an HBM address. -/
def State.dieOfHbm (s : State) (pa : Nat) : Nat :=
  if pa < dieStart s.chanRet 1 then 0 else if pa < dieStart s.chanRet 2 then 1
  else if pa < dieStart s.chanRet 3 then 2 else 3

/-- The channel of an HBM address (13 R354). -/
def State.channelOf (s : State) (pa : Nat) : Nat :=
  let d := s.dieOfHbm pa
  let ch := liveChannels s.chanRet d
  nth ch ((pa - dieStart s.chanRet d) / 65536 % max 1 ch.length) 0

/-- The home die of an address (13 R355). -/
def State.homeDie (s : State) (pa : Nat) : Nat :=
  if regionOf pa = 0 then s.dieOfHbm pa
  else if regionOf pa = 1 then (pa - poolBase) / 2 ^ 28
  else if regionOf pa = 2 then (pa - spmBase) / 2 ^ 29
  else 0

/-- An address is homed on a die (13 R355): installed HBM only. -/
def State.homedOn (s : State) (d pa : Nat) : Bool :=
  s.homeDie pa = d && (regionOf pa ≠ 0 || pa < s.hbmSize)

/-- The bank of its die's pool that a line lies in: bits [14:7] of its address (13 R355). -/
def poolBank (pa : Nat) : Nat := pa / 128 % 256

/-! ### Frames, poison -/

/-- The attributes of the frame of an address (11 R312, R318). -/
def State.frameOf (s : State) (pa : Nat) : FrameAttr :=
  if regionOf pa = 0 then Tab.getD s.frames (pa / 4096) {}
  else if regionOf pa = 1 then {}
  else if regionOf pa = 2 ∨ regionOf pa = 3 then { pol := 2 }
  else Tab.getD s.frames (pa / 4096) { pol := 2 }

/-- The address lies in a frame that holds codec blocks. -/
def State.isCodec (s : State) (pa : Nat) : Bool := regionOf pa = 0 && (s.frameOf pa).codec

/-- The unit of storage of an address (13 R378). -/
def poisonUnit (pa : Nat) : Nat := if regionOf pa = 2 then 64 else 128

/-- The units that a write of n bytes covers whole are no longer poisoned (13 R378). -/
def State.unpoison (s : State) (pa n : Nat) : State :=
  { s with poison := s.poison.filter fun u => !(pa ≤ u && u + poisonUnit u ≤ pa + n) }

/-! ### Codec pages -/

/-- RATE, GEOM and PITCH of a codec region entry (12 R336). -/
def CodecEnt.rate (c : CodecEnt) : Nat := (c.cfg.extractLsb' 4 4).toNat
/-- 2-D blocks (12 R336). -/
def CodecEnt.two (c : CodecEnt) : Bool := c.cfg.getLsbD 0
/-- Row pitch in elements (12 R336). -/
def CodecEnt.pitch (c : CodecEnt) : Nat := (c.cfg.extractLsb' 20 24).toNat
/-- ASID of the owner (12 R336). -/
def CodecEnt.owner (c : CodecEnt) : Nat := (c.cfg.extractLsb' 48 16).toNat

/-- The block of element offset o (12 R338). -/
def CodecEnt.blockOf (c : CodecEnt) (o : Nat) : Nat :=
  if c.two then
    (o / c.pitch / 4) * (c.pitch / 4) + o % c.pitch / 4
  else o / 4

/-- The element offset of element e of block b (12 R338). -/
def CodecEnt.elemOf (c : CodecEnt) (b e : Nat) : Nat :=
  if c.two then
    (b / (c.pitch / 4) * 4 + e / 4) * c.pitch + b % (c.pitch / 4) * 4 + e % 4
  else 4 * b + e

/-- The codec region of an address. -/
def State.codecOf (s : State) (pa : Nat) : CodecEnt := Tab.getD s.codec (s.frameOf pa).cri {}

/-- The encoded bits of a block (12 R338). -/
def State.blockBits (s : State) (c : CodecEnt) (b : Nat) : Nat :=
  Memory.readLE s.mem (c.estore.toNat + b * blockBytes c.two c.rate) (blockBytes c.two c.rate)

/-- One byte of the decoded span of a codec page (12 R345, R347). -/
def State.codecByte (s : State) (pa : Nat) : Byte :=
  let c := s.codecOf pa
  let o := (pa - c.dbase.toNat) / 8
  let b := c.blockOf o
  let codes := decodeBlock c.two c.rate (s.blockBits c b)
  let e := ((List.range (blockElems c.two)).find? fun i => c.elemOf b i = o).getD 0
  BitVec.ofNat 8 (nth codes e 0 / 256 ^ (pa % 8))

/-- Saturating addition to an error accumulator (12 R352). -/
def accAdd (acc : Word) (d : Nat) : Word := Word.of (min (acc.toNat + d) (2 ^ 64 - 1))

/-- The encoded bytes of a block: address and length (12 R338). -/
def CodecEnt.place (c : CodecEnt) (b : Nat) : Nat × Nat :=
  (c.estore.toNat + b * blockBytes c.two c.rate, blockBytes c.two c.rate)

/-- The blocks of a codec region that a write of n bytes touches, each once, in order. -/
def State.blocksOf (s : State) (pa n : Nat) : List Nat :=
  let c := s.codecOf pa
  ((List.range n).map fun i => c.blockOf ((pa + i - c.dbase.toNat) / 8)).eraseDups

/-- Where n bytes at an address stand in storage: on a codec page in the encoded blocks that hold them (12 R337), else
where they are addressed. -/
def State.storage (s : State) (pa n : Nat) : List (Nat × Nat) :=
  if s.isCodec pa then (s.blocksOf pa n).map (s.codecOf pa).place else [(pa, n)]

/-- The failed channel that bytes in storage lie on, if any (13 R378). -/
def State.failedIn (s : State) (u : Nat × Nat) : Option Nat :=
  s.failedCh.find? fun ch => regionOf u.1 = 0 && (s.channelOf u.1 = ch || s.channelOf (u.1 + u.2 - 1) = ch)

/-- The failed channel that an access of n bytes meets, if any (13 R378). -/
def State.failedAt (s : State) (pa n : Nat) : Option Nat := (s.storage pa n).findSome? s.failedIn

/-- The cause and the information of reading n bytes at an address: a failed channel or a poisoned
unit (13 R378). -/
def State.readError (s : State) (pa n : Nat) : Option (BitVec 16 × Nat) :=
  match s.failedAt pa n with
  | some ch => some (0x0405#16, ch)
  | none =>
    if s.poison.any fun p => (s.storage pa n).any fun u => rangesMeet p (poisonUnit p) u.1 u.2 then
      some (if regionOf pa = 0 then 0x0401#16 else 0x0402#16, pa)
    else none

/-! ### What a write does beside its bytes -/

/-- A write of n bytes at pa breaks the reservations that it touches (00 R3, A extension). -/
def State.breakResvs (s : State) (pa n : Nat) : State :=
  { s with resvs := s.resvs.filter fun e => !(e.2.1 < pa + n && pa < e.2.1 + e.2.2) }

/-- A thread that sleeps on a watch of a line of a range re-checks (15 R399). -/
def Thr.wake (t : Thr) (pa n : Nat) : Thr :=
  if (t.st = .mwait ∨ t.st = .cwait) ∧ rangesMeet (t.watch.pa / 128 * 128) 128 pa n then { t with st := .ready }
  else t

/-- The watches on the lines of a range fire (15 R399). -/
def State.wakeRange (s : State) (pa n : Nat) : State :=
  { s with thrs := Tab.mapVal s.thrs fun _ t => t.wake pa n }

/-- Lines with bytes of a range leave the L1 of every cluster but one, and the pool of every die but that cluster's: the
directory holds a line writable once (13 R355). -/
def State.dropLines (s : State) (keep : Option Nat) (pa n : Nat) : State :=
  let drop (c : Cluster) : Cluster := { c with lines := c.lines.filter fun l => !rangesMeet (64 * l) 64 pa n }
  let pool (ls : List Nat) : List Nat := ls.filter fun l => !rangesMeet (128 * l) 128 pa n
  { s with clus := Tab.mapVal s.clus fun k c => if some k = keep then c else drop c,
           pools := Tab.mapVal s.pools fun d ls => if some d = keep.map (· / 2) then ls else pool ls }

/-- What a write to a range does beside its bytes. -/
def State.touched (s : State) (keep : Option Nat) (pa n : Nat) : State :=
  ((s.breakResvs pa n).wakeRange pa n).dropLines keep pa n

/-! ### Merges -/

/-- The merge of written bytes into one block (12 R348, R346, R352): `wr` gives the byte written at
an address, if any. The block's lines leave every L1; a block on a failed channel is dropped (13 R378). -/
def State.mergeBlock (s : State) (cri b : Nat) (wr : Nat → Option Nat) : State :=
  let c := Tab.getD s.codec cri {}
  let (at_, n) := c.place b
  if (s.failedIn (at_, n)).isSome then s
  else
    let bits := s.blockBits c b
    let old := decodeBlock c.two c.rate bits
    let elem (i : Nat) : Nat := c.dbase.toNat + 8 * c.elemOf b i
    let new := (List.range (blockElems c.two)).map fun i =>
      ofBytes ((List.range 8).map fun j => (wr (elem i + j)).getD (nth old i 0 / 256 ^ j % 256))
    let (enc, mode) := if bits % 4 ≥ 2 then (2, BlockMode.nonfinite) else encodeBlock c.two c.rate new
    let acc := match mode with
      | .zero => c.acc
      | .normal => accAdd c.acc (blockError c.two c.rate enc new)
      | .nonfinite => BitVec.allOnes 64
    let s := (List.range (blockElems c.two)).foldl (fun s i => s.touched none (elem i) 8) (s.unpoison at_ n)
    { s with mem := Memory.writeEn s.mem at_ (bytesOf enc n) (List.replicate n 1),
             codec := Tab.put s.codec cri { c with acc := acc } }

/-- The byte that a write of `v` with enables `en` at `pa` puts at address a. -/
def writtenByte (pa : Nat) (v en : List Nat) (a : Nat) : Option Nat :=
  if pa ≤ a ∧ nth en (a - pa) 0 ≠ 0 then v[a - pa]? else none

/-- A write to a codec page, merged block by block (12 R348). -/
def State.merge (s : State) (pa : Nat) (v en : List Nat) : State :=
  let cri := (s.frameOf pa).cri
  (s.blocksOf pa v.length).foldl (fun t b => t.mergeBlock cri b (writtenByte pa v en)) s

/-! ### Reads and writes of bytes at home -/

/-- One byte as a load sees it: decoded on a codec page. -/
def State.peekByte (s : State) (pa : Nat) : Byte :=
  if s.isCodec pa then s.codecByte pa else Memory.read s.mem pa

/-- n bytes as a load sees them. -/
def State.peek (s : State) (pa : Nat) : Nat → Nat
  | 0 => 0
  | n + 1 => (s.peekByte pa).toNat + 256 * s.peek (pa + 1) n

/-- Bytes written at home where enabled, by a unit of a cluster if one is named: a merge on a codec page, dropped in a
failed channel (13 R378), else memory. -/
def State.poke (s : State) (pa : Nat) (v en : List Nat) (keep : Option Nat := none) : State :=
  if (s.failedAt pa v.length).isSome then if s.isCodec pa then s.merge pa v en else s
  else
    let t := s.touched keep pa v.length
    if s.isCodec pa then t.merge pa v en
    else
      let t := if en.all (· ≠ 0) then t.unpoison pa v.length else t
      { t with mem := Memory.writeEn t.mem pa v en }

/-- n bytes of a number written. -/
def State.pokeLE (s : State) (pa n v : Nat) : State := s.poke pa (bytesOf v n) (List.replicate n 1)

end Sys2Proof.Machine
end

