-- ==== Sys2Proof/Machine/Paging.lean ====
section
/-! DEFINITION. Translation (11 R311 to R323, 13 R371, R372): the walk, its checks, the TLB,
replicas and published buffers, and the fault records that a refused access posts (11 R327). -/
namespace Sys2Proof.Machine

/-- The class of an access (11 R317). -/
inductive Acc where
  | read | write | atomic | fetch
deriving DecidableEq, Repr

/-- Its bit in ACC of a fault record (11 R327). -/
def Acc.bit : Acc → Nat
  | .read => 1 | .write => 2 | .atomic => 4 | .fetch => 8

/-- The rights that an access needs of an outbound window, reading and writing (18 R461). -/
def Acc.rights : Acc → Bool × Bool
  | .read => (true, false)
  | .write => (false, true)
  | .atomic => (true, true)
  | .fetch => (true, false)

/-! ### Fields of an entry (11 R314) -/

def leafV (e : Word) : Bool := e.getLsbD 0
def leafLeaf (e : Word) : Bool := e.getLsbD 1
def leafR (e : Word) : Bool := e.getLsbD 2
def leafPol (e : Word) : Nat := (e.extractLsb' 3 3).toNat
def leafFmt (e : Word) : Nat := (e.extractLsb' 6 6).toNat
def leafPfn (e : Word) : Nat := (e.extractLsb' 12 40).toNat
def leafW (e : Word) : Bool := e.getLsbD 52
def leafX (e : Word) : Bool := e.getLsbD 53
def leafC64 (e : Word) : Bool := e.getLsbD 54
def leafCodec (e : Word) : Bool := e.getLsbD 55
def leafRsi (e : Word) : Nat := (e.extractLsb' 56 4).toNat
def leafRepl (e : Word) : Bool := e.getLsbD 60
def leafRwr (e : Word) : Bool := e.getLsbD 61
def leafAcnt (e : Word) : Bool := e.getLsbD 62
def leafFmap (e : Word) : Bool := e.getLsbD 63

/-- A pointer entry carries nothing beside V and PFN (11 R315). -/
def pointerOk (e : Word) : Bool := e &&& ~~~(0x000FFFFFFFFFF001#64) == 0#64

/-- A leaf at a level is well formed (11 R315). -/
def leafOk (lvl : Nat) (e : Word) : Bool :=
  lvl ≤ 3
    && (lvl ≠ 3 || leafPfn e % 2 ^ 18 = 0) && (lvl ≠ 2 || leafPfn e % 2 ^ 9 = 0)
    && (!leafC64 e || (lvl = 1 && leafPfn e % 16 = 0))
    && (leafR e || (!leafW e && !leafX e))
    && leafPol e ≤ 4
    && (leafRepl e || leafRsi e = 0)
    && (!leafCodec e || (leafFmt e = 0 && regionOf (leafPfn e * 4096) = 0))

/-- The size of the page of a leaf (11 R314). -/
def leafSize (lvl : Nat) (e : Word) : Nat :=
  if lvl = 3 then 2 ^ 30 else if lvl = 2 then 2 ^ 21 else if leafC64 e then 2 ^ 16 else 2 ^ 12

/-- An open outbound window covers a host physical address with the rights that an access needs
(18 R461). -/
def State.windowOk (s : State) (h : Nat) (rw : Bool × Bool) : Bool :=
  s.windows.any fun e =>
    let size := e.2.2.toNat / 4096 * 4096
    e.2.1.toNat ≤ h && h < e.2.1.toNat + size && (!rw.1 || e.2.2.getLsbD 0) && (!rw.2 || e.2.2.getLsbD 1)

/-- A device access of its own to n bytes passes the outbound windows, where it goes to host memory (18 R461, 17 R443).
-/
def State.mayReach (s : State) (pa n : Nat) (wr : Bool) : Bool :=
  regionOf pa < 8 || (s.windowOk (pa - hostBase) (!wr, wr) && s.windowOk (pa + n - 1 - hostBase) (!wr, wr))

/-- n bytes of a table of a context as the device reads them; outside every window it finds zero (log entry 90). -/
def State.sysPeek (s : State) (pa n : Nat) : Nat := if s.mayReach pa n false then s.peek pa n else 0

/-- n bytes that the device writes of its own accord; outside every window the write is dropped (17 R443). -/
def State.sysPoke (s : State) (pa n v : Nat) : State := if s.mayReach pa n true then s.pokeLE pa n v else s

/-- The entry of a table at an index. -/
def State.tableEntry (s : State) (table i : Nat) : Word := Word.of (s.peek (table + 8 * i) 8)

/-- The entry that a walk uses: that of its index, but any one of the 16 of a 64 KiB group where they differ
(11 R316; log entry 61). -/
def State.walkEntry (s : State) (va lvl table : Nat) : Word :=
  let i := va / 2 ^ (12 + 9 * lvl) % 512
  let at_ (j : Nat) : Word := s.tableEntry table (i / 16 * 16 + j)
  let e := s.tableEntry table i
  if lvl = 0 ∧ leafV e ∧ leafLeaf e ∧ leafC64 e ∧ ((List.range 16).any fun j => at_ j ≠ e) then
    at_ (Config.groupEntry s.draws va % 16)
  else e

/-- The walk from a level down: the leaf and the size of its page, or the cause with its information: no valid entry, or
an entry that cannot be read (13 R378) or lies outside every window (18 R461). -/
def walkFrom (s : State) (va : Nat) : Nat → Nat → Except (BitVec 16 × Nat) (Word × Nat)
  | 0, _ => .error (0x0301#16, va)
  | lvl + 1, table =>
    let at_ := table + 8 * (va / 2 ^ (12 + 9 * lvl) % 512)
    match (if s.mayReach at_ 8 false then s.readError at_ 8 else some (0x0306#16, va)) with
    | some e => .error e
    | none =>
      let e := s.walkEntry va lvl table
      if !leafV e then .error (0x0301#16, va)
      else if leafLeaf e then
        if leafOk (lvl + 1) e then .ok (e, leafSize (lvl + 1) e) else .error (0x0301#16, va)
      else if lvl ≠ 0 ∧ pointerOk e then walkFrom s va lvl (leafPfn e * 4096)
      else .error (0x0301#16, va)

/-! ### Replicas (11 R321, R322) -/

/-- The address of the replica-set entry of a leaf. -/
def replicaAt (x : XlBlock) (e : Word) : Nat := x.rstbase + 64 * leafRsi e

/-- Why the replica-set entry of a leaf cannot be read, if so: no window, or an error (18 R461, 13 R378). -/
def State.replicaError (s : State) (x : XlBlock) (e : Word) (va : Nat) : Option (BitVec 16 × Nat) :=
  if s.mayReach (replicaAt x e) 64 false then s.readError (replicaAt x e) 64 else some (0x0306#16, va)

/-- The replica-set entry of a leaf. -/
def replicasOf (s : State) (x : XlBlock) (e : Word) : Replicas :=
  { dmask := BitVec.ofNat 4 (s.peek (replicaAt x e) 1),
    deltas := (List.range 4).map fun d => sx (s.peek (replicaAt x e + 8 + 8 * d) 8) 64 }

/-- Every other byte of a replica-set entry is zero. -/
def replicaClean (s : State) (x : XlBlock) (e : Word) : Bool :=
  let a := replicaAt x e
  s.peek a 8 < 16 && s.peek (a + 0x28) 24 = 0

/-- The dies that hold a copy, rising. -/
def Replicas.dies (r : Replicas) : List Nat := (List.range 4).filter fun d => r.dmask.getLsbD d

/-- The address of the copy on die d. -/
def Replicas.at_ (r : Replicas) (pa d : Nat) : Nat := ((pa : Int) + nth r.deltas d 0).toNat

/-- The entry obeys R321: some copy, DELTA 0 on the lowest die, every copy homed on its die from its first byte to its
last. -/
def Replicas.ok (r : Replicas) (s : State) (pa size : Nat) : Bool :=
  match r.dies with
  | [] => false
  | d0 :: ds => nth r.deltas d0 0 = 0 && (d0 :: ds).all fun d =>
      s.homedOn d (r.at_ pa d) && s.homedOn d (r.at_ pa d + size - 1)

/-- The die whose copy a unit on die d reads (11 R322). -/
def Replicas.pick (r : Replicas) (d : Nat) : Nat :=
  ((List.range 4).find? fun i => r.dmask.getLsbD ((d + i) % 4)).elim 0 fun i => (d + i) % 4

/-! ### The checks of a walk -/

/-- A core of cluster k lies in the region of a placed kernel. -/
def Kernel.holdsCore (k : Kernel) (clu core : Nat) : Bool :=
  k.state ≠ .waiting && !k.away && k.cluster = clu
    && k.origin / 16 ≤ core / 16 && core / 16 < k.origin / 16 + k.desc.rows
    && k.origin % 16 ≤ core % 16 && core % 16 < k.origin % 16 + k.desc.cols

/-- A context holds a core. -/
def Ctx.holdsCore (c : Ctx) (clu core : Nat) : Bool :=
  c.kernels.any fun e => e.2.holdsCore clu core

/-- The context of a slot. -/
def State.ctx (s : State) (i : Nat) : Ctx := Tab.getD s.ctxs i {}

/-- A context slot replaced. -/
def State.putCtx (s : State) (i : Nat) (c : Ctx) : State := { s with ctxs := Tab.put s.ctxs i c }

/-- Parts of region 0x3 in use (17 R427): control pages, kick registers, codec region table. -/
def devUsed (off : Nat) : Bool :=
  off < 0x5000 || (0x1000000 ≤ off && off < 0x1400000) || (0x2000000 ≤ off && off < 0x2400000)

/-- A physical address exists for a context (11 R312, 13 R357, 18 R461). -/
def State.paOk (s : State) (ctx pa : Nat) (rw : Bool × Bool) : Bool :=
  if regionOf pa = 0 then pa < s.hbmSize
  else if regionOf pa = 1 then
    let off := pa - poolBase
    off / 2 ^ 28 < 4 && off % 2 ^ 28 / 2 ^ 24 < 12
      && Tab.get? s.steps (12 * (off / 2 ^ 28) + off % 2 ^ 28 / 2 ^ 24) = some ctx
  else if regionOf pa = 2 then
    let off := pa - spmBase
    off / 2 ^ 28 < 8 && (s.ctx ctx).holdsCore (off / 2 ^ 28) (off % 2 ^ 28 / 2 ^ 21)
  else if regionOf pa = 3 then devUsed (pa - devBase)
  else if 8 ≤ regionOf pa ∧ regionOf pa ≤ 15 then s.windowOk (pa - hostBase) rw
  else false

/-- The frames that a page of a size covers agree with the leaf's policy and CODEC (11 R319). -/
def State.framesAgree (s : State) (e : Word) (pa size : Nat) : Bool :=
  (List.range (size / 4096)).all fun i =>
    (s.frameOf (pa + 4096 * i)).pol = leafPol e && (s.frameOf (pa + 4096 * i)).codec = leafCodec e

/-- What a translation answers: the physical address, the leaf and the state with the translation
cached, or a cause with its address. -/
inductive XRes where
  | hit (pa : Nat) (leaf : Word) (s : State)
  | miss (cause : BitVec 16) (va : Nat)

/-- The page of a cached translation covers an address. -/
def TlbEnt.covers (t : TlbEnt) (clu asid va : Nat) : Bool :=
  t.clu = clu && t.asid = asid && t.va ≤ va && va < t.va + t.size

/-- The published buffer whose range holds an address (13 R371, R372). -/
def Ctx.pubOf (c : Ctx) (va : Nat) : Option PubEnt :=
  (c.pubs.find? fun e => e.2.valid && e.2.vabase ≤ va
    && va < e.2.vabase + e.2.npg * 65536).map Prod.snd

/-- The die of a cluster, or of the lane-side translation unit 8 + d of die d (11 R322, R323). -/
def dieOf (clu : Nat) : Nat := if clu < 8 then clu / 2 else clu - 8

/-- The physical address that an access through a leaf reaches: the copy of the unit's die on a
replicated page (11 R322), the published backing of a published buffer (13 R372). -/
def State.reach (s : State) (ctx clu : Nat) (leaf : Word) (r : Replicas) (base off va : Nat) : Nat :=
  match (s.ctx ctx).pubOf va with
  | some p => (if p.cur then p.p1 else p.p0) + (va - p.vabase)
  | none => if leafRepl leaf then r.at_ (base + off) (r.pick (dieOf clu)) else base + off

/-- The frame checks of a walk that reaches a leaf (11 R319, 13 R372). -/
def State.frameCheck (s : State) (ctx : Nat) (leaf : Word) (r : Replicas) (base size va : Nat) : Bool :=
  match (s.ctx ctx).pubOf va with
  | some p => s.framesAgree leaf ((if p.cur then p.p1 else p.p0) + (va - p.vabase) / 4096 * 4096) 4096
  | none =>
    if leafRepl leaf then r.dies.all fun d => s.framesAgree leaf (r.at_ base d) size
    else s.framesAgree leaf base size

/-- What the leaf grants an access (11 R317). -/
def permits (leaf : Word) : Acc → Bool
  | .read => leafR leaf
  | .write => leafR leaf && leafW leaf
  | .atomic => leafR leaf && leafW leaf && (leafPol leaf = 0 || leafPol leaf = 1 || leafPol leaf = 4)
  | .fetch => leafX leaf

/-- The access checks behind a translation (11 R312, R317, R322); `multi` is a store to every copy
(13 R374). -/
def State.accessCheck (s : State) (ctx : Nat) (leaf : Word) (pa : Nat) (a : Acc) (multi : Bool) :
    Option (BitVec 16) :=
  if !s.paOk ctx pa a.rights then some 0x0306#16
  else if !permits leaf a then some 0x0302#16
  else if leafRepl leaf && (a = .write || a = .atomic) && !leafRwr leaf && !multi then
    some 0x0305#16
  else none

/-- Entries of the cluster's TLB (11 R323). -/
def tlbSize : Nat := 4096

/-- A translation added to the TLB, the oldest of the cluster dropped when it is full. -/
def State.cache (s : State) (t : TlbEnt) : State :=
  let own := s.tlb.filter fun e => e.clu = t.clu
  { s with tlb := t :: (if own.length < tlbSize then s.tlb
      else (s.tlb.filter fun e => e.clu ≠ t.clu) ++ own.dropLast) }

/-- Translation of an access (11 R311 to R322): address size, TLB or walk, existence, frames,
permission, replica. -/
def State.translate (s : State) (ctx clu va : Nat) (a : Acc) (multi : Bool := false) : XRes :=
  if va ≥ 2 ^ 57 then .miss 0x0306#16 va
  else
    let x := (s.ctx ctx).xl
    match s.tlb.find? fun t => t.covers clu x.asid va with
    | some t =>
      let pa := s.reach ctx clu t.leaf t.reps t.pa (va - t.va) va
      if !s.paOk ctx pa a.rights then .miss 0x0306#16 va
      else if !s.framesAgree t.leaf (pa / 4096 * 4096) 4096 then .miss 0x0303#16 va
      else if !t.whole && !s.frameCheck ctx t.leaf t.reps t.pa t.size va then .miss 0x0303#16 va
      else
        match s.accessCheck ctx t.leaf pa a multi with
        | some c => .miss c va
        | none => .hit pa t.leaf s
    | none =>
      match walkFrom s va 5 x.ptroot with
      | .error (c, i) => .miss c i
      | .ok (leaf, size) =>
        let base := leafPfn leaf * 4096 / size * size
        match (if leafRepl leaf then s.replicaError x leaf va else none) with
        | some (c, i) => .miss c i
        | none =>
          let r : Replicas := if leafRepl leaf then replicasOf s x leaf else {}
          if leafRepl leaf && !(r.ok s base size && replicaClean s x leaf) then .miss 0x0301#16 va
          else
            let pa := s.reach ctx clu leaf r base (va % size) va
            if !s.paOk ctx pa a.rights then .miss 0x0306#16 va
            else if !s.frameCheck ctx leaf r base size va then .miss 0x0303#16 va
            else
              match s.accessCheck ctx leaf pa a multi with
              | some c => .miss c va
              | none =>
                let whole := ((s.ctx ctx).pubOf va).isNone
                .hit pa leaf (s.cache ⟨clu, x.asid, va / size * size, base, size, leaf, [], r, whole⟩)

/-- Causes that wait on a fault record (11 R327). -/
def replayable (c : BitVec 16) : Bool := c = 0x0301#16 || c = 0x0302#16 || c = 0x0303#16 || c = 0x0305#16

/-! ### Fault records (11 R327) -/

/-- Records of the fault queue not yet consumed: FQP less FQC, FQC as the last load or INVAL took it in (11 R313). -/
def XlBlock.faultsQueued (x : XlBlock) : Nat := x.fqp - x.fqc

/-- The fault queue of a context has room. -/
def XlBlock.faultRoom (x : XlBlock) : Bool := x.faultsQueued < 2 ^ x.fqlog

/-- The place of the next record in the fault queue. -/
def XlBlock.faultSlot (x : XlBlock) : Nat := x.fqbase + 32 * (x.fqp % 2 ^ x.fqlog)

/-- A record that is posted now. -/
def FaultRec.postedAt (f : FaultRec) (x : XlBlock) (gtc : Nat) : FaultRec :=
  { f with posted := true, gtc := gtc, pos := x.fqp, at_ := x.faultSlot }

/-- A record written into the fault queue and counted in FQP. -/
def State.postRecord (s : State) (ctx : Nat) (f : FaultRec) : State :=
  let c := s.ctx ctx
  let a := c.xl.faultSlot
  let s := s.sysPoke a 8 f.va
  let s := s.sysPoke (a + 8) 8 (f.cause.toNat + 2 ^ 16 * f.path + 2 ^ 24 * f.acc + 2 ^ 32 * f.unit)
  let s := s.sysPoke (a + 16) 8 f.fid
  let s := s.sysPoke (a + 24) 8 s.gtc.toNat
  let s := s.sysPoke (c.xl.base + 0x40) 8 (c.xl.fqp + 1)
  s.putCtx ctx { c with xl := { c.xl with fqp := c.xl.fqp + 1 } }

/-- A waiting access at a virtual address added to a record. -/
def FaultRec.join (f : FaultRec) (acc va : Nat) (w : Waiter) : FaultRec :=
  if w ∈ f.waiters then { f with acc := f.acc ||| acc }
  else { f with acc := f.acc ||| acc, waiters := f.waiters ++ [w], own := f.own ++ [(w, va)] }

/-- The virtual address of a waiting access. -/
def FaultRec.vaOf (f : FaultRec) (w : Waiter) : Nat := (f.own.lookup w).getD f.va

/-- A record with the accesses that it joins; the posted record shows them while its place is its own (11 R327). -/
def State.showAcc (s : State) (ctx : Nat) (f : FaultRec) : State :=
  let x := (s.ctx ctx).xl
  if f.posted ∧ x.fqp ≤ f.pos + 2 ^ x.fqlog then s.sysPoke (f.at_ + 0xB) 1 f.acc else s

/-- An access raises a replayable cause: it joins the outstanding record of its page and cause, or a
new record is posted, or waits unposted while the queue is full (11 R327). -/
def State.raiseFault (s : State) (ctx va : Nat) (cause : BitVec 16) (path unit acc : Nat)
    (w : Waiter) : State :=
  let c := s.ctx ctx
  match c.faults.find? fun f => f.page = va / 4096 && f.cause = cause with
  | some f =>
    let s := s.putCtx ctx { c with faults := c.faults.map fun g => if g.fid = f.fid then g.join acc va w else g }
    s.showAcc ctx (f.join acc va w)
  | none =>
    let room := c.xl.faultRoom && c.faults.all (·.posted)
    let f : FaultRec :=
      { fid := c.nextFid, page := va / 4096, va := va, cause := cause, path := path, acc := acc,
        unit := unit, gtc := s.gtc.toNat, posted := false, waiters := [w] }
    let f := if room then f.postedAt c.xl s.gtc.toNat else f
    let s := s.putCtx ctx { c with nextFid := c.nextFid + 1, faults := c.faults ++ [f] }
    if room then s.postRecord ctx f else s

end Sys2Proof.Machine
end

