-- ==== Sys2Proof/Machine/Kernel.lean ====
section
/-! DEFINITION. Kernels and timing domains, shared by the ops of every PE kind: the grid of slots
(01 R17 to R19), operands and their sources (04 R96 to R100), renaming (05 R137), predicates
(04 R92), landings (05 R136), trap events (05 R148, 04 R515), barriers (15 R393, R394), the issue
of one op, and pauses (05 R145, R147). -/
namespace Sys2Proof.Machine

/-- What a meaning answers. -/
abbrev Result := Host.Outcome State Fault Refusal

/-! ### Slots and regions -/

/-- The kind of a slot in page order (01 R17, 04 R111). -/
def slotKind (slot : Nat) : PeKind :=
  if slot = 0 ∨ slot = 3 then .mpe
  else if slot = 5 ∨ slot = 10 then .cpe
  else if slot = 12 then .spe
  else if slot = 15 then .dpe
  else .ape

/-- The slot of an MPE. -/
def mpeSlot (m : Bool) : Nat := if m then 3 else 0
/-- The slot of a CPE. -/
def cpeSlot (c : Bool) : Nat := if c then 10 else 5

/-- The kernel of a handle in a context (05 R131). -/
def State.kernel? (s : State) (ctx kh : Nat) : Option Kernel := Tab.get? (s.ctx ctx).kernels kh

/-- A kernel replaced. -/
def State.putKernel (s : State) (ctx kh : Nat) (k : Kernel) : State :=
  s.putCtx ctx { s.ctx ctx with kernels := Tab.put (s.ctx ctx).kernels kh k }

/-- A function applied to a kernel. -/
def State.modKernel (s : State) (ctx kh : Nat) (f : Kernel → Kernel) : State :=
  match s.kernel? ctx kh with
  | some k => s.putKernel ctx kh (f k)
  | none => s

/-- A function applied to the round of a kernel. -/
def State.modRun (s : State) (ctx kh : Nat) (f : Run → Run) : State :=
  s.modKernel ctx kh fun k => { k with run := f k.run }

/-- The logical core of a region-relative core index (05 R141). -/
def Kernel.physCore (k : Kernel) (core : Nat) : Nat :=
  k.origin + 16 * (core / k.desc.cols) + core % k.desc.cols

/-- Physical address of the scratchpad of a region-relative core. -/
def Kernel.spm (k : Kernel) (core : Nat) : Nat := spmAddr k.cluster (k.physCore core)

/-- The region-relative core whose scratchpad holds a physical address, if any. -/
def Kernel.coreOfPa (k : Kernel) (pa : Nat) : Option Nat :=
  (List.range k.desc.cores).find? fun c => k.spm c ≤ pa && pa < k.spm c + 2 ^ 21

/-- The configuration of a slot. -/
def Kernel.slotCfg (k : Kernel) (core slot : Nat) : SlotCfg := nth k.cfg (16 * core + slot) {}

/-- The state of a PE. -/
def Run.pe (r : Run) (core slot : Nat) : Pe := Tab.getD r.pes (16 * core + slot) {}
/-- The state of a PE replaced. -/
def Run.putPe (r : Run) (pe : Nat) (p : Pe) : Run := { r with pes := Tab.put r.pes pe p }

/-- Key of a stream: 32 streams to a core. -/
def streamKey (core : Nat) (m : Bool) (st : Nat) : Nat := 32 * core + (if m then 16 else 0) + st
/-- The state of a stream. -/
def Run.stream (r : Run) (key : Nat) : StreamSt := Tab.getD r.streams key {}
/-- The state of a stream replaced. -/
def Run.putStream (r : Run) (key : Nat) (x : StreamSt) : Run :=
  { r with streams := Tab.put r.streams key x }
/-- The drain side of a core. -/
def Run.drain (r : Run) (core : Nat) : DrainSt := Tab.getD r.drains core {}
/-- The drain side of a core replaced. -/
def Run.putDrain (r : Run) (core : Nat) (d : DrainSt) : Run :=
  { r with drains := Tab.put r.drains core d }

/-- The descriptor of a stream. -/
def Kernel.strm? (k : Kernel) (key : Nat) : Option StreamDesc :=
  k.strms.find? fun d => streamKey d.core d.mpe d.strm = key

/-- The modulo slot counter (05 R135). -/
def Kernel.ms (k : Kernel) : Nat := (k.run.vcc - k.run.start) % k.desc.ii

/-! ### Physical addresses that change under way -/

/-- A posted operation whose addresses a map renames. -/
def BankOp.move (m : Nat → Nat) : BankOp → BankOp
  | .fadd c pa v => .fadd c (m pa) v
  | .fx c pa v => .fx c (m pa) v
  | .atm c pa op ty v pe ops => .atm c (m pa) op ty v pe ops
  | .merge c pa v en => .merge c (m pa) v en

/-- An entry of a store buffer whose addresses a map renames. -/
def BufEnt.move (m : Nat → Nat) : BufEnt → BufEnt
  | .store pe pa v en va => .store pe (m pa) v en va
  | .bank b va => .bank (b.move m) va
  | .count pa inc va => .count (m pa) inc va
  | b => b

/-- The virtual address whose translation gave an entry its place, and whether it has been dropped. -/
def BufEnt.va : BufEnt → Option (Nat × Bool)
  | .store _ _ _ _ va => va
  | .bank _ va => va
  | .count _ _ va => va
  | _ => none

/-- An entry with another note of its virtual address. -/
def BufEnt.withVa (x : Option (Nat × Bool)) : BufEnt → BufEnt
  | .store pe pa v en _ => .store pe pa v en x
  | .bank b _ => .bank b x
  | .count pa inc _ => .count pa inc x
  | b => b

/-- The PE that an event of an entry names (05 R148). -/
def BufEnt.pe : BufEnt → Nat
  | .store pe _ _ _ _ => pe
  | .bank (.atm _ _ _ _ _ pe _) _ => pe
  | _ => 0

/-- A landing whose address a map renames. -/
def LandAct.move (m : Nat → Nat) : LandAct → LandAct
  | .bytes pa v en of_ => .bytes (m pa) v en of_
  | a => a

/-- A round whose landings a map renames. -/
def Run.move (m : Nat → Nat) (r : Run) : Run :=
  { r with land := r.land.map fun l => { l with act := l.act.move m } }

/-- The page of a region's scratchpads after its origin changes. -/
def Kernel.movedPage (k : Kernel) (o pa : Nat) : Option Nat :=
  (k.coreOfPa pa).map fun c => { k with origin := o }.spm c + (pa - k.spm c)

/-- A kernel at a new origin: what it has on its way to its scratchpads goes to the same relative places (05 R143). -/
def Kernel.relocate (k : Kernel) (o : Nat) : Kernel :=
  let m (pa : Nat) : Nat := (k.movedPage o pa).getD pa
  { k with origin := o, run := k.run.move m, snap := k.snap.map (Run.move m), buffer := k.buffer.map (BufEnt.move m) }

/-! ### Predicates, registers, sources -/

/-- A predicate as an op of a core samples it (07 R211). -/
def Run.predicate (r : Run) (core i : Nat) : Bool :=
  if i = 0 then true
  else if i < 8 then (Tab.getD r.preds core 0#8).getLsbD i
  else r.stage.getLsbD (i - 8)

/-- The physical entry of an RRF name (05 R137). -/
def renamed (ro n : Nat) : Nat := if n < 8 then n else 8 + (n - 8 + 24 - ro % 24) % 24

/-- An RRF entry. -/
def Pe.entry (p : Pe) (n : Nat) : Wide := lane 512 p.rrf n
/-- An RRF entry written; a write mends a parity mark (05 R150). -/
def Pe.setEntry (p : Pe) (n : Nat) (v : Wide) : Pe :=
  { p with rrf := setLane p.rrf n v, parity := p.parity &&& ~~~(1#32 <<< n) }

/-- K replicated into every 64-bit slice, or unchanged for an SPE (04 R97). -/
def kValue (k : Word) (spe : Bool) : Nat :=
  if spe then k.toNat else joinLanes 64 (List.replicate 8 k.toNat)

/-- The PE at a grid offset from a slot, if the region holds it (01 R19). -/
def Kernel.neighbour (k : Kernel) (core slot : Nat) (dr dc : Int) : Option (Nat × Nat) :=
  let row : Int := 4 * (core / k.desc.cols) + slot / 4 + dr
  let col : Int := 4 * (core % k.desc.cols) + slot % 4 + dc
  if row < 0 ∨ col < 0 ∨ row ≥ 4 * k.desc.rows ∨ col ≥ 4 * k.desc.cols then none
  else
    let r := row.toNat
    let c := col.toNat
    some (r / 4 * k.desc.cols + c / 4, r % 4 * 4 + c % 4)

/-- The grid direction of a neighbour source: north, east, south, west (04 R97). -/
def sourceDir (code : Nat) : Int × Int :=
  let d := code % 4
  if d = 0 then (-1, 0) else if d = 1 then (0, 1) else if d = 2 then (1, 0) else (0, -1)

/-- A neighbour source (04 R97). -/
def isNeighbour (code : Nat) : Bool := 4 ≤ code && code ≤ 11

/-- A fold of a bank is pending by virtual cycle (03 R83). -/
def Pe.foldPending (p : Pe) (b : Bool) (vcc : Nat) : Bool :=
  p.folds.any fun f => f.bank = b && f.cap < vcc && vcc ≤ f.cap + 16

/-- A fold of a bank whose adders have not finished (03 R83). -/
def Pe.foldBusy (p : Pe) (b : Bool) : Bool := p.folds.any fun f => f.bank = b && !f.done

/-- The bits of an element of a format; 0 where the format is RAW (02 R56). A reserved code has no size in the spec: 8
bits (log entry 28). -/
def efmtBits (f : Nat) : Nat :=
  if f = 0 then 0 else if f = 6 then 6
  else if f = 3 ∨ f = 4 ∨ f = 9 ∨ f = 0xA then 16
  else if f = 0xB then 32 else if f = 0xC then 64 else 8

/-- The size in bits of a stream's elements, once its format is known (08 R227). -/
def StreamDesc.bits (d : StreamDesc) (x : StreamSt) : Nat :=
  match x.fmt with
  | some f =>
    if f.codec then 64 else if f.efmt = 0 then 8 * d.esz else efmtBits f.efmt
  | none => 8 * d.esz

/-- The lanes of a word (08 R227, R232). -/
def StreamDesc.lanes (d : StreamDesc) (x : StreamSt) : Nat :=
  match d.deliv with
  | .raw => 512 / max 8 (d.bits x)
  | .bq8 => 64 | .bq16 => 32 | .f32 => 16 | .i32 => 16

/-- Elements of an AFFINE pattern (08 R231). -/
def StreamDesc.elems (d : StreamDesc) : Nat := d.bounds.foldl (· * ·) 1

/-- The number of words of a stream (08 R231, R232). -/
def StreamDesc.words (d : StreamDesc) (x : StreamSt) : Nat :=
  let n := d.lanes x
  match d.kind with
  | .unfold => (d.oh * d.ow + n - 1) / n * (d.kh * d.kw * d.ch)
  | _ => (d.elems + n - 1) / n

/-- The lane index, lane i of 32 bits holding i (04 R98). -/
def laneIndexWord : Nat := joinLanes 32 (List.range 16)

/-- The word at U of an MPE's stream, for `pa` (04 R98, 08 R256). -/
def Kernel.headData (k : Kernel) (core slot st : Nat) : Nat :=
  let x := k.run.stream (streamKey core (slot = 3) st)
  ((Tab.get? x.win (x.u / 64)).map fun w => w.data.toNat).getD 0

/-- The mask of the word at U, or of the last `ldx`, for `pb` and `vmsk` (08 R235, R256). -/
def Kernel.headMask (k : Kernel) (core slot st : Nat) : Nat :=
  let key := streamKey core (slot = 3) st
  let x := k.run.stream key
  if (k.strm? key).any fun d => d.kind = .indexed then x.lastMask.toNat
  else ((Tab.get? x.win (x.u / 64)).map fun w => w.mask.toNat).getD 0

/-- The kind port A of a slot (04 R98). -/
def Kernel.portA (k : Kernel) (core slot : Nat) (f : OpF) : Nat :=
  match slotKind slot with
  | .cpe => (k.run.pe core slot).ro.toNat
  | .ape => laneIndexWord
  | .mpe => k.headData core slot f.stream
  | .spe => k.run.iter
  | .dpe => (k.run.drain core).head.toNat

/-- The kind port B of a slot (04 R98). -/
def Kernel.portB (k : Kernel) (core slot : Nat) (f : OpF) : Nat :=
  let p := k.run.pe core slot
  match slotKind slot with
  | .cpe => (p.bank p.sel).fk.toNat + (if p.sel then 64 else 0)
      + (if p.foldPending p.sel k.run.vcc then 128 else 0)
  | .ape => if p.sticky then 1 else 0
  | .mpe => k.headMask core slot f.stream
  | .spe => k.run.vcc % 2 ^ 64
  | .dpe => (k.run.drain core).cr.toNat

/-- The value of a source at the start of a cycle (04 R97); SPE operands are 64 bits (07 R210). -/
def Kernel.source (k : Kernel) (core slot : Nat) (f : OpF) (code : Nat) : Nat :=
  let p := k.run.pe core slot
  let spe := slotKind slot = .spe
  let v :=
    if code = 0 then 0
    else if code = 1 then kValue (k.slotCfg core slot).k spe
    else if code = 2 then (p.entry (renamed k.run.ro f.pa)).toNat
    else if code = 3 then (p.entry (renamed k.run.ro f.qa)).toNat
    else if code = 12 then p.l0.toNat
    else if code = 13 then p.l1.toNat
    else if code = 14 then k.portA core slot f
    else if code = 15 then k.portB core slot f
    else
      match k.neighbour core slot (sourceDir code).1 (sourceDir code).2 with
      | some (c, sl) =>
        let q := k.run.pe c sl
        if code < 8 then q.l0.toNat else q.l1.toNat
      | none => 0
  if spe then v % 2 ^ 64 else v

/-! ### Trap events -/

/-- htval of a PE cause (04 R515). -/
def peInfo (core slot ops item : Nat) : Word :=
  Word.of (core * 2 ^ 56 + slot * 2 ^ 52 + ops * 2 ^ 32 + item % 2 ^ 32)

/-- The PE number of events without a PE slot: engines by index, then a group abort (05 R148). -/
def enginePe (e : Nat) : Nat := 2048 + e

/-- A trap event added to those awaiting a boundary (05 R148). -/
def Run.addEvent (r : Run) (pe ops idx : Nat) (cause : BitVec 16) (info : Word) : Run :=
  { r with events := r.events ++ [⟨r.vcc, pe, ops, idx, cause, info⟩] }

/-- The order of trap events: VCC, PE in page order, op slot, index (05 R148). -/
def TrapEvent.before (a b : TrapEvent) : Bool :=
  a.vcc < b.vcc || (a.vcc = b.vcc && (a.pe < b.pe || (a.pe = b.pe &&
    (a.ops < b.ops || (a.ops = b.ops && a.idx < b.idx)))))

/-- The earliest of the events. -/
def earliest : List TrapEvent → Option TrapEvent
  | [] => none
  | e :: t =>
    match earliest t with
    | none => some e
    | some f => if f.before e then some f else some e

/-! ### Barriers (15 R393, R394) -/

def barGen (b : Word) : Nat := (b.extractLsb' 48 16).toNat
def barOvr (b : Word) : Bool := b.getLsbD 35
def barAuto (b : Word) : Bool := b.getLsbD 34
def barState (b : Word) : Nat := (b.extractLsb' 32 2).toNat
def barArrived (b : Word) : Nat := (b.extractLsb' 16 12).toNat
def barExpect (b : Word) : Nat := (b.extractLsb' 0 12).toNat

/-- A barrier word from its fields (15 R393). -/
def barWord (gen : Nat) (ovr auto : Bool) (st arrived expect : Nat) : Word :=
  Word.of (gen % 2 ^ 16 * 2 ^ 48 + (if ovr then 2 ^ 35 else 0) + (if auto then 2 ^ 34 else 0)
    + st * 2 ^ 32 + arrived % 4096 * 2 ^ 16 + expect % 4096)

/-- A count of arrivals against the expected count: completion, or one more (15 R394). -/
def barCount (b : Word) (arrived expect : Nat) (auto : Bool) : Word :=
  if arrived ≥ expect then
    if auto then barWord (barGen b + 1) (barOvr b) auto 1 0 expect
    else barWord (barGen b + 1) (barOvr b) auto 2 expect expect
  else barWord (barGen b) (barOvr b) auto 1 arrived expect

/-- An arrival (15 R394); an SPE arrival at a COMPLETE barrier sets OVR. -/
def barArrive (b : Word) (spe : Bool) : Word :=
  if barState b = 1 then barCount b (barArrived b + 1) (barExpect b) (barAuto b)
  else if barState b = 2 ∧ spe then b ||| (1#64 <<< 35)
  else b

/-- `binit` (15 R394). -/
def barInit (b : Word) (expect : Nat) (auto : Bool) : Word :=
  if barState b = 1 then
    if barArrived b ≥ expect then barCount b (barArrived b) expect auto
    else barWord (barGen b) (barOvr b) auto 1 (barArrived b) expect
  else barWord (barGen b) false auto 1 0 expect

/-- `bpois` (15 R394). -/
def barPoison (b : Word) : Word :=
  if barState b = 3 then b
  else barWord (barGen b + 1) (barOvr b) (barAuto b) 3 (barArrived b) (barExpect b)

/-- A barrier of a kernel, by 96 · core + number. -/
def Kernel.bar (k : Kernel) (i : Nat) : Word := Tab.getD k.bars i 0
/-- A barrier replaced. -/
def Kernel.putBar (k : Kernel) (i : Nat) (b : Word) : Kernel := { k with bars := Tab.put k.bars i b }

/-! ### Energy (19 R476 to R479) -/

/-- A charge on a 48-bit energy register with its sticky SAT bit (19 R476). -/
def energyAdd (e : BitVec 49) (c : Nat) : BitVec 49 :=
  let v := (e.extractLsb' 0 48).toNat
  let sat := e.getLsbD 48 || v + c ≥ 2 ^ 48 - 1
  BitVec.ofNat 49 ((if sat then 2 ^ 48 else 0) + min (v + c) (2 ^ 48 - 1))

/-- The energy class of an op, none for `nop` (19 R478). -/
def energyClass (k : PeKind) (opc : Nat) (f : OpF) : Option Nat :=
  if opc = 0 then none
  else match k with
    | .cpe =>
      if opc = 5 ∨ opc = 6 then some (if f.wsel ≤ 1 then 0 else 1)
      else if opc ≤ 4 then some 2 else some 3
    | .ape =>
      if opc ≤ 0x17 ∨ (0x2F ≤ opc ∧ opc ≤ 0x33) then some 4
      else if opc ≤ 0x1E then some 5 else if opc ≤ 0x22 then some 6 else some 7
    | .mpe =>
      if opc = 1 ∨ opc = 2 ∨ opc = 3 ∨ opc = 4 ∨ opc = 9 then some 8
      else if 5 ≤ opc ∧ opc ≤ 8 then some 9 else some 10
    | .spe => some 11
    | .dpe => some 12

/-- The weight of a class in EWT0 and EWT1, one byte each (19 R462, R479). -/
def State.weight (s : State) (cls : Nat) : Nat :=
  if cls < 8 then (lane 8 s.pow.ewt0 cls).toNat else (lane 8 s.pow.ewt1 (cls - 8)).toNat

/-- A charge to the energy register of a context on a package core. -/
def State.charge (s : State) (ctx core c : Nat) : State :=
  if c = 0 then s
  else
    let x := s.ctx ctx
    s.putCtx ctx { x with energy := Tab.put x.energy core (energyAdd (Tab.getD x.energy core 0) c) }

/-! ### Issue of one op -/

/-- The surroundings of an op at issue. -/
structure OpEnv where
  ctx : Nat
  kh : Nat
  core : Nat
  slot : Nat
  ops : Nat
  k : Kernel
  f : OpF
  a : Nat
  b : Nat
  c : Nat

/-- The PE number of an op's slot. -/
def OpEnv.pe (e : OpEnv) : Nat := 16 * e.core + e.slot
/-- The PE state at issue. -/
def OpEnv.st (e : OpEnv) : Pe := e.k.run.pe e.core e.slot
/-- The issue cycle. -/
def OpEnv.t (e : OpEnv) : Nat := e.k.run.vcc

/-- A landing of an op at the end of cycle t + l - 1. -/
def OpEnv.landing (e : OpEnv) (l : Nat) (act : LandAct) : Landing :=
  ⟨e.t + l - 1, e.pe, e.ops, act⟩

/-- The landing of an op's results in the destinations that it names at issue (04 R99, R100). -/
def OpEnv.dest (e : OpEnv) (kind : PeKind) (opc : Nat) (r1 r2 : Nat) : Landing :=
  e.landing (opLatency kind opc e.f)
    (.dest (if e.f.we then some (renamed e.k.run.ro e.f.wa) else none) (e.f.l0c = 1) (e.f.l1c = 1)
      (opResults kind opc e.f = 2) (BitVec.ofNat 512 r1) (BitVec.ofNat 512 r2))

/-- Captures of operands and clears of latches at the end of the issue cycle (04 R99). -/
def OpEnv.latches (e : OpEnv) : List Landing :=
  (if e.f.l0c = 2 then [e.landing 1 (.latch false (BitVec.ofNat 512 e.a))]
   else if e.f.l0c = 3 then [e.landing 1 (.latch false 0)] else [])
  ++ (if e.f.l1c = 2 then [e.landing 1 (.latch true (BitVec.ofNat 512 e.b))]
   else if e.f.l1c = 3 then [e.landing 1 (.latch true 0)] else [])

/-- The environment of an op at the focus; none when the focus names no kernel. -/
def State.opEnv (s : State) (f : OpF) : Option OpEnv :=
  match s.kernel? s.cur.ctx s.cur.kern with
  | none => none
  | some k =>
    let src := k.source s.cur.core s.cur.slot f
    some ⟨s.cur.ctx, s.cur.kern, s.cur.core, s.cur.slot, s.cur.ops, k, f, src f.sa, src f.sb, src f.sc⟩

/-- Parity errors among the RRF entries that the op reads (05 R150). -/
def OpEnv.parityHits (e : OpEnv) (kind : PeKind) (opc : Nat) : List Nat :=
  let (ra, rb, rc) := opReads kind opc e.f
  let used (code : Nat) : Bool :=
    (e.f.sa = code && (ra || e.f.l0c = 2)) || (e.f.sb = code && (rb || e.f.l1c = 2))
      || (e.f.sc = code && rc)
  let hit (code n : Nat) : List Nat :=
    if used code && e.st.parity.getLsbD (renamed e.k.run.ro n) then [renamed e.k.run.ro n] else []
  hit 2 e.f.pa ++ hit 3 e.f.qa

/-- A word of a stream is late: its fill has issued and not returned (08 R237). -/
def StreamSt.wordLate (x : StreamSt) (w : Nat) : Bool := !x.failed && x.fills.any fun f => f.word = w

/-- A read of a kind port of an MPE slot that must wait: the word at U has been issued and not
returned (08 R256). -/
def Kernel.headLate (k : Kernel) (core slot st : Nat) : Bool :=
  let key := streamKey core (slot = 3) st
  let x := k.run.stream key
  (k.strm? key).any fun d => d.kind ≠ .indexed && !d.store && x.wordLate (x.u / 64)

/-- An op of an MPE slot reads `pa` or `pb` of a word still on its way (08 R256). -/
def OpEnv.portLate (e : OpEnv) (kind : PeKind) (opc : Nat) : Bool :=
  let (ra, rb, rc) := opReads kind opc e.f
  let used (code : Nat) : Bool :=
    (e.f.sa = code && (ra || e.f.l0c = 2)) || (e.f.sb = code && (rb || e.f.l1c = 2))
      || (e.f.sc = code && rc)
  kind = .mpe && (used 14 || used 15) && e.k.headLate e.core e.slot e.f.stream

/-- Landings and parity events added to a round. -/
def Run.addLandings (r : Run) (ls : List Landing) : Run := { r with land := r.land ++ ls }

/-- What an op does at issue, beside its landings: landings, records of ops in flight, and changes to
the round and to the machine that take effect at issue. -/
structure Effect where
  lands : List Landing := []
  recs : List OpRec := []
  run : Run → Run := id
  mach : State → State := id

/-- A round with the issue of one op applied. -/
def OpEnv.applyRun (e : OpEnv) (kind : PeKind) (opc : Nat) (x : Effect) (r : Run) : Run :=
  let r := (e.parityHits kind opc).foldl
    (fun r n => r.addEvent e.pe e.ops 0 0x0403#16 (peInfo e.core e.slot e.ops n)) r
  let r := x.run r
  { r with land := r.land ++ x.lands ++ e.latches, recs := r.recs ++ x.recs }

/-- The domain pauses at a site that is late, which has still to act in this cycle: the VCC holds
until the late accesses complete (05 R145). -/
def Run.pause (r : Run) (x : Site) : Run :=
  { r with paused := true, phase := .check, todo := if x ∈ r.todo then r.todo else x :: r.todo }

/-- RRF entries whose LIVE bit is clear read zero after a restore; bit n names vn under the naming in force at the
boundary, RO being that of the entry before it (16 R410, 05 R139). -/
def liveOnly (live : BitVec 32) (ro : Nat) (p : Pe) : Pe :=
  let rrf := (List.range 32).foldl (fun v n => if live.getLsbD n then v else setLane v (renamed ro n) 0#512) p.rrf
  { p with rrf := rrf }

/-- Words of a fold group: fills of BQ forms issue and return in whole groups (08 R236). -/
def groupWords : Deliv → Nat
  | .bq8 => 32 | .bq16 => 16 | _ => 1

/-- The words from one on leave the window and their fills issue again, from the first word of the fold
group on (08 R255, R257). -/
def StreamSt.refillFrom (x : StreamSt) (vcc w : Nat) (d : StreamDesc) : StreamSt :=
  let t := w / groupWords d.deliv * groupWords d.deliv
  let was (v : Nat) : Bool :=
    v * 64 + d.ret < x.u || (Tab.get? x.win v).any (·.used) || x.fills.any fun f => f.word = v && f.used
  let again (i : Nat) : Fill := { word := t + i, cyc := vcc, used := was (t + i) }
  { x with win := x.win.filter (fun v => v.1 < t), exps := x.exps.filter (fun v => v.1 < t / groupWords d.deliv),
           fills := x.fills.filter (fun f => f.word < t) ++ (List.range (x.issued - t)).map again }

/-- A round as it stands after its in-flight set is restored (16 R410): entries that are not live
are zero, windows are empty and their fills reissue (08 R257). -/
def refill (vcc : Nat) (d : StreamDesc) (x : StreamSt) : StreamSt :=
  if d.store ∨ d.kind = .indexed ∨ x.failed then x else x.refillFrom vcc ((x.u - d.ret) / 64) d

/-- Windows emptied and their fills reissued (08 R257). -/
def Kernel.refillAll (k : Kernel) : Kernel :=
  let streams := k.run.streams.map fun e =>
    match k.strm? e.1 with
    | some d => (e.1, refill k.run.vcc d e.2)
    | none => e
  { k with run := { k.run with streams := streams } }

/-- LIVE applied to every PE, under the naming of the entry before the boundary, which is what is held there (16 R410,
05 R139). -/
def Kernel.applyLive (k : Kernel) : Kernel :=
  let pes := k.run.pes.map fun e => (e.1, liveOnly (k.slotCfg (e.1 / 16) (e.1 % 16)).live k.run.ro e.2)
  { k with run := { k.run with pes := pes } }

/-- A kernel FROZEN with a cause to deliver (05 R148). -/
def Kernel.freeze (k : Kernel) (cause : BitVec 16) (info : Word) : Kernel :=
  { k with state := .frozen, cause := cause, info := info, delivered := false, stopReq := false,
           run := { k.run with events := [], paused := false } }

/-- The domain stands: arrivals on their way may be counted before their virtual cycle (07 R217). -/
def Kernel.stand (k : Kernel) : Kernel := { k with arrivals := k.arrivals.map fun a => { a with loose := true } }

/-- The strict-mode timing trap (05 R147): the buffer and the pending events are dropped, the last
snapshot is restored with the barrier set (16 R410) and the kernel is FROZEN at that restart boundary. -/
def Kernel.timingTrap (k : Kernel) (core slot ops : Nat) : Kernel :=
  let info := peInfo core slot ops (k.run.vcc % 2 ^ 32)
  let k := match k.snap with
    | some r => ({ k with run := r, buffer := [], bars := k.snapBars, arrivals := k.snapArrivals }.applyLive).refillAll.stand
    | none => { k with buffer := [] }
  k.freeze 0x0201#16 info

/-- The state to which an engine goes back when it resumes. -/
def Engine.active (e : Engine) : Option EngSt :=
  match e.bound with
  | none => if e.st = .armed ∨ e.st = .running ∨ e.st = .waiting then some e.st else none
  | some b => if b = .armed ∨ b = .running ∨ b = .waiting then some b else none

/-- An engine that halts is bound for STOPPED, which it enters with its status record written (10 R286,
R303, R304). -/
def Engine.halt (e : Engine) : Engine :=
  match e.active with
  | some b => { e with bound := some .stopped, before := b }
  | none => e

/-- A stopped engine goes on; one whose status record is still to be written writes it first
(10 R286, R304). -/
def Engine.goOn (e : Engine) : Engine :=
  if e.st = .stopped then { e with st := e.before }
  else if e.bound = some .stopped then { e with bound := some e.before }
  else e

/-- A forked engine that its kernel had stopped goes on (10 R286). -/
def Engine.resume (e : Engine) (ctx kh : Nat) : Engine :=
  if e.own = some ctx ∧ e.kern = some kh then e.goOn else e

/-- The strict-mode timing trap of a kernel with its forked engines (05 R147, 10 R303). -/
def State.timingTrap (s : State) (ctx kh core slot ops : Nat) : State :=
  let s := s.modKernel ctx kh (·.timingTrap core slot ops)
  let es := Tab.getD (s.ctx ctx).snaps kh []
  { s with engs := es.foldl (fun t e => Tab.put t e.1 e.2.halt) s.engs }

/-- A late access: a pause, or in strict mode the timing trap (05 R145, R147). -/
def State.late (s : State) (e : OpEnv) : State :=
  if e.k.run.strict then s.timingTrap e.ctx e.kh e.core e.slot e.ops
  else s.modRun e.ctx e.kh (·.pause (.op e.core e.slot))

/-- What the issue of an op comes to: a late access, or its effect; either way with the state in which
its translations are cached and its faults posted. -/
inductive Issue where
  | late (s : State)
  | done (s : State) (x : Effect)

/-- The issue of one op (04 R92, 05 R136): nothing when its predicate is false; a pause when it is
late; else its charge, its effects and its landings. -/
def issueWith (kind : PeKind) (opc : Nat) (f : OpF) (s : State) (go : State → OpEnv → Issue) :
    Result :=
  match s.opEnv f with
  | none => .next s
  | some e =>
    if e.k.run.predicate e.core f.pi.toNat == f.ps then .next s
    else if e.portLate kind opc then .next (s.late e)
    else
      match go s e with
      | .late s => .next (s.late e)
      | .done s x =>
        let s := match energyClass kind opc f with
          | some c => s.charge e.ctx (128 * e.k.cluster + e.k.physCore e.core) (s.weight c)
          | none => s
        .next (x.mach (s.modRun e.ctx e.kh (e.applyRun kind opc x)))

/-- An op whose lateness is a test of the state. -/
def issueOp (kind : PeKind) (opc : Nat) (f : OpF) (s : State)
    (isLate : State → OpEnv → Bool) (eff : State → OpEnv → Effect) : Result :=
  issueWith kind opc f s fun s e => if isLate s e then .late s else .done s (eff s e)

/-- No access of the op can be late. -/
def neverLate (_ : State) (_ : OpEnv) : Bool := false

/-- The op word of ring words. -/
def opWord (opc : Nat) (f : OpF) : BitVec 24 :=
  BitVec.ofNat 24 (opc * 2 ^ 18 + f.pi.toNat * 2 ^ 14 + (if f.ps then 2 ^ 13 else 0)
    + f.typ.toNat * 2 ^ 9 + f.mod.toNat)

/-- The record of an op in flight (16 R411); none for an op of latency 1. -/
def OpEnv.record (e : OpEnv) (kind : PeKind) (opc lat form xpos : Nat) (v0 v1 v2 : Nat) :
    List OpRec :=
  if lat ≤ 1 then []
  else
    let cpe := kind = .cpe
    [{ cyc := e.t + lat - 1, pe := e.pe, form := form,
       dst := (if e.f.we then renamed e.k.run.ro e.f.wa + 128 else 0),
       lat := (if e.f.l0c = 1 then 4 else 0) + (if e.f.l1c = 1 then 1 else 0),
       opw := opWord opc e.f, gw := if cpe then e.st.gw else 0, bank := cpe && e.st.sel,
       rm := if cpe then e.st.rm else 0, xpos := xpos,
       v0 := BitVec.ofNat 512 v0, v1 := BitVec.ofNat 512 v1, v2 := BitVec.ofNat 512 v2 }]

/-- An operand record of an op in flight. -/
def OpEnv.operandRec (e : OpEnv) (kind : PeKind) (opc : Nat) : List OpRec :=
  e.record kind opc (opLatency kind opc e.f) 2 0 e.a e.b e.c

/-- A landing record at a boundary (16 R411). -/
def OpRec.bytes (o : OpRec) (vcc : Nat) : List Nat :=
  [o.form, o.cyc + 1 - vcc, o.dst, o.lat] ++ bytesOf o.opw.toNat 4 ++ bytesOf o.gw.toNat 4
    ++ [if o.bank then 1 else 0, 0, 0, 0] ++ bytesOf o.rm.toNat 8 ++ bytesOf o.xpos 8 ++ List.replicate 32 0
    ++ bytesOf o.v0.toNat 64 ++ bytesOf o.v1.toNat 64 ++ bytesOf o.v2.toNat 64

/-- The landing records of a kernel. -/
def Kernel.records (k : Kernel) : List (List Byte) :=
  k.run.recs.map fun o => (o.bytes k.run.vcc).map (BitVec.ofNat 8)

/-! ### Sections of the save area while the context runs (15 R391; 16 R409, R414) -/

/-- Bytes of payload in a block (16 R413). -/
def blockPayload : Nat := 4032

/-- The bytes of a kernel's barrier set: 96 words per core (15 R393, 16 R414). -/
def Kernel.barBytes (k : Kernel) : List Nat :=
  (List.range (96 * k.desc.cores)).flatMap fun i => bytesOf (k.bar i).toNat 8

/-- The first block and the number of blocks that the directory of a context's save area gives a section; none while no
directory stands there (log entry 15). -/
def State.savedSection (s : State) (ctx n : Nat) : Option (Nat × Nat) :=
  let a := (s.ctx ctx).obj.savebase
  if s.sysPeek a 4 ≠ 0x45564153 then none else some (s.sysPeek (a + 0x10 + 8 * n) 4, s.sysPeek (a + 0x14 + 8 * n) 4)

/-- Bytes written in place in a section, from a place in its payload on (16 R414). -/
def State.putSection (s : State) (ctx n off : Nat) (b : List Nat) : State :=
  match s.savedSection ctx n with
  | none => s
  | some (first, count) =>
    let at_ (o : Nat) : Nat := (s.ctx ctx).obj.savebase + 4096 * (first + o / blockPayload) + o % blockPayload
    (List.range b.length).foldl (fun s j =>
      if off + j < count * blockPayload then s.sysPoke (at_ (off + j)) 1 (nth b j 0) else s) s

/-- Where the barrier set of a kernel begins in the BARRIERS section: behind those of the handles below its own. -/
def State.barOffset (s : State) (ctx kh : Nat) : Nat :=
  (((s.ctx ctx).kernels.filter fun e => e.1 < kh).map fun e => 768 * e.2.desc.cores).sum

/-- The barrier set of a kernel that is not RUNNING stands in the context's barrier area (15 R391). -/
def State.showBars (s : State) (ctx kh : Nat) : State :=
  match s.kernel? ctx kh with
  | none => s
  | some k => if k.state = .running then s else s.putSection ctx 3 (s.barOffset ctx kh) k.barBytes

/-- A barrier of such a kernel changes in the area too. -/
def State.showBar (s : State) (ctx kh i : Nat) : State :=
  match s.kernel? ctx kh with
  | none => s
  | some k =>
    if k.state = .running then s else s.putSection ctx 3 (s.barOffset ctx kh + 8 * i) (bytesOf (k.bar i).toNat 8)

/-- The kernel section is written in place for a kernel that is saved alone (16 R409). -/
def State.showKernels (s : State) (ctx : Nat) : State :=
  let c := s.ctx ctx
  let lanes := s.lanes.filter fun l => l.2.own = some ctx
  let b := Config.saveSection 2 c lanes (c.kernels.flatMap fun e => e.2.records)
  s.putSection ctx 2 0 (b.map BitVec.toNat)

/-- An op whose only effects are its results and one landing of each extra act. -/
def resultOp (kind : PeKind) (opc : Nat) (f : OpF) (s : State) (g : OpEnv → PeOut)
    (extra : OpEnv → List LandAct := fun _ => []) : Host.Outcome State Fault Refusal :=
  issueOp kind opc f s neverLate fun _ e =>
    let r := g e
    { lands := e.dest kind opc r.r1 r.r2
        :: (extra e).map (e.landing (opLatency kind opc f)),
      recs := e.operandRec kind opc }

end Sys2Proof.Machine
end

