-- ==== Sys2Proof/Machine/Cpe.lean ====
section
/-! DEFINITION. The meanings of the CPE ops (06 R160 to R183) over the shared issue of Kernel.lean,
and the effects of their landings on a CPE's banks (03 R81, R82, R86, R87). -/
namespace Sys2Proof.Machine


/-- The guard overflow of a result as a trap event at its landing (03 R78). -/
def ovfActs (o : Option Nat) : List LandAct :=
  match o with
  | some i => [.event 0x0101#16 i]
  | none => []

/-- GW as an op samples it (06 R163). -/
def OpEnv.gw (e : OpEnv) : Gw := Gw.of e.st.gw

/-- `nop`, in any kind of slot: only its latch control acts (04 R95, R99). -/
def execNop (k : PeKind) (f : OpF) (s : State) : Result :=
  issueOp k 0 f s neverLate fun _ _ => {}

/-- `mulw` (06 R165). -/
def execMulw (f : OpF) (s : State) : Result :=
  resultOp .cpe 0x01 f s fun e => peMulw (f.ty = 7) e.a e.b
/-- `muls` (06 R166). -/
def execMuls (f : OpF) (s : State) : Result :=
  resultOp .cpe 0x02 f s fun e => peMuls (typeSigned f.ty) f.width e.a e.b
/-- `mulc` (06 R167). -/
def execMulc (f : OpF) (s : State) : Result :=
  resultOp .cpe 0x03 f s (fun e => peMulc e.gw f.sat e.a e.b)
    fun e => ovfActs (peMulc e.gw f.sat e.a e.b).ovf
/-- `dotx` (06 R167). -/
def execDotx (f : OpF) (s : State) : Result :=
  resultOp .cpe 0x04 f s (fun e => peDotx e.gw f.sat e.a e.b)
    fun e => ovfActs (peDotx e.gw f.sat e.a e.b).ovf
/-- `pack` (06 R168). -/
def execPack (f : OpF) (s : State) : Result :=
  resultOp .cpe 0x08 f s (fun e => pePack e.gw f.ty (f.modBits 0 0 = 1) f.sat e.a)
    fun e => ovfActs (pePack e.gw f.ty (f.modBits 0 0 = 1) f.sat e.a).ovf
/-- `xtrc` (06 R169). -/
def execXtrc (f : OpF) (s : State) : Result :=
  resultOp .cpe 0x09 f s (fun e => peXtrc e.gw f.ty f.sat e.a e.b e.c)
    fun e => ovfActs (peXtrc e.gw f.ty f.sat e.a e.b e.c).ovf
/-- `addw` (06 R170). -/
def execAddw (f : OpF) (s : State) : Result :=
  resultOp .cpe 0x0A f s fun e => peAddw e.a e.b e.c
/-- `subw` (06 R170). -/
def execSubw (f : OpF) (s : State) : Result :=
  resultOp .cpe 0x0B f s fun e => peSubw e.a e.b e.c
/-- `shlw` (06 R171). -/
def execShlw (f : OpF) (s : State) : Result :=
  resultOp .cpe 0x0C f s fun e => peShlw e.a e.b e.c
/-- `shrw` (06 R171). -/
def execShrw (f : OpF) (s : State) : Result :=
  resultOp .cpe 0x0D f s fun e => peShrw (f.modBits 0 0 = 1) e.a e.b e.c
/-- `clzw` (06 R172). -/
def execClzw (f : OpF) (s : State) : Result :=
  resultOp .cpe 0x0E f s fun e => peClzw e.a
/-- `rndw` (06 R173). -/
def execRndw (f : OpF) (s : State) : Result :=
  resultOp .cpe 0x0F f s fun e => peRndw (f.ty = 7) (Rm.of2 f.rmode) f.sat f.ftz e.a e.b e.c

/-- An op without results whose effect is one landing (06 R163). -/
def landingOp (opc : Nat) (f : OpF) (s : State) (isLate : State → OpEnv → Bool)
    (act : OpEnv → LandAct) : Result :=
  issueOp .cpe opc f s isLate fun _ e =>
    { lands := [e.landing (opLatency .cpe opc f) (act e)], recs := e.operandRec .cpe opc }

/-- The landing of an outer product, its samples taken at issue (03 R81, 06 R163). -/
def outerAct (z : Bool) (f : OpF) (e : OpEnv) : LandAct :=
  .outer z f.wsel f.ty (f.sat && f.wsel ≤ 1) (f.ftz && 2 ≤ f.wsel) f.rmode e.st.sel e.st.rm
    (BitVec.ofNat 512 e.a) (BitVec.ofNat 512 e.b)

/-- `outer` (06 R174). -/
def execOuter (f : OpF) (s : State) : Result := landingOp 0x05 f s neverLate (outerAct false f)
/-- `outerz` (06 R174). That neither it nor `outer` is ever late, whatever fold of its bank is pending, is the model's
reading of 03 R83, whose list of late accesses has no outer product (log entry 81). -/
def execOuterz (f : OpF) (s : State) : Result := landingOp 0x06 f s neverLate (outerAct true f)
/-- `fold` (06 R175). -/
def execFold (f : OpF) (s : State) : Result := landingOp 0x07 f s neverLate fun e => .fold e.st.sel
/-- `sclda` (06 R176). -/
def execSclda (f : OpF) (s : State) : Result :=
  landingOp 0x10 f s neverLate fun e => .scale false (f.modBits 0 0 = 1) (BitVec.ofNat 512 e.a)
/-- `scldb` (06 R176). -/
def execScldb (f : OpF) (s : State) : Result :=
  landingOp 0x11 f s neverLate fun e => .scale true (f.modBits 0 0 = 1) (BitVec.ofNat 512 e.a)

/-- Fold registers are late while a fold of the selected bank has not finished (03 R83). -/
def foldLate (_ : State) (e : OpEnv) : Bool := e.st.foldBusy e.st.sel

/-- A granule of 16 cells or fold registers (06 R180). -/
def Bank.granule (b : Bank) (fr : Bool) (g : Nat) : Wide :=
  lane 512 (if fr then b.folds else b.cells) g

/-- `accrd` (06 R180): the granule of the start of the issue cycle, to its destinations and to the
read-out. -/
def execAccrd (f : OpF) (s : State) : Result :=
  issueOp .cpe 0x12 f s (fun s e => f.modBits 0 0 = 1 && foldLate s e) fun _ e =>
    let v := (e.st.bank e.st.sel).granule (f.modBits 0 0 = 1) (e.a % 256)
    { lands := [e.dest .cpe 0x12 v.toNat 0, e.landing 2 (.readOut v)],
      recs := e.record .cpe 0x12 2 1 0 v.toNat 0 0 }
/-- `accwr` (06 R180). -/
def execAccwr (f : OpF) (s : State) : Result :=
  landingOp 0x13 f s (fun s e => f.modBits 0 0 = 1 && foldLate s e) fun e =>
    .accwr e.st.sel (f.modBits 0 0 = 1) (e.a % 256) (BitVec.ofNat 512 e.b)
/-- `accclr` (06 R181). -/
def execAccclr (f : OpF) (s : State) : Result :=
  landingOp 0x14 f s foldLate fun e => .accclr e.st.sel

/-- `drn` (06 R182): the drain takes its place in the queue of the core's drain path (03 R88). -/
def execDrn (f : OpF) (s : State) : Result :=
  issueOp .cpe 0x15 f s neverLate fun _ e =>
    { run := fun r =>
        let d := r.drain e.core
        r.putDrain e.core { d with queue := d.queue ++ [(e.slot == 10, f.modBits 0 0 == 1)] } }
/-- `bsel` (06 R178). -/
def execBsel (f : OpF) (s : State) : Result :=
  landingOp 0x16 f s neverLate fun _ => .bsel (f.modBits 0 0 = 1)
/-- `rowp` (06 R177). -/
def execRowp (f : OpF) (s : State) : Result :=
  landingOp 0x17 f s neverLate fun e => .rowp (Word.of e.a)
/-- `gwset` (06 R183). -/
def execGwset (f : OpF) (s : State) : Result :=
  landingOp 0x18 f s neverLate fun e => .gwset (BitVec.ofNat 32 e.a)
/-- `cset` (06 R179). -/
def execCset (f : OpF) (s : State) : Result :=
  landingOp 0x19 f s neverLate fun e => .cset e.st.sel f.wsel f.ty (e.a % 64)

/-! ### Landings in a CPE -/

/-- The pattern of a cell: 32 bits at w = 1, 64 at w = 2. -/
def Bank.cell (b : Bank) (w c : Nat) : Nat := b.cells.toNat / 2 ^ (32 * 2 ^ w * c) % 2 ^ (32 * 2 ^ w)

/-- The pattern of a float cell: a fold register at w = 4, a pair at w = 8 (03 R80). -/
def Bank.floatCell (b : Bank) (w c : Nat) : Nat :=
  let bits := if w = 2 then 32 else 64
  b.folds.toNat / 2 ^ (bits * c) % 2 ^ bits

/-- The low fields of a wide value replaced by a list of patterns of `bits` bits. -/
def putFields (old : BitVec 131072) (bits : Nat) (vs : List Nat) : BitVec 131072 :=
  let n := bits * vs.length
  BitVec.ofNat 131072 (old.toNat / 2 ^ n * 2 ^ n + joinLanes bits vs)

/-- One k-step lands in a bank (03 R81): the bank and the first cell that left its range. FK after an `outerz` of a type
without block exponents the spec leaves open: it is 0 (log entry 80). -/
def Bank.outer (k : Bank) (z : Bool) (w ty : Nat) (sat ftz : Bool) (rm : BitVec 2) (mask : Word)
    (a b : Wide) : Bank × Option Nat :=
  let fk := if ty = 0xB then BitVec.ofNat 6 (if z then 1 else k.fk.toNat + 1) else if z then 0 else k.fk
  let mode := if z then some ⟨w, ty⟩ else k.mode
  if w ≤ 1 then
    let old (c : Nat) : Nat := if z then 0 else k.cell w c
    let (vs, o) := outerIntStep w ty sat mask.toNat a.toNat b.toNat old
    let n := outerElems w * outerElems w
    let folds := if z then putFields k.folds 32 (List.replicate n 0) else k.folds
    ({ cells := putFields k.cells (32 * 2 ^ w) vs, folds := folds, mode := mode, fk := fk }, o)
  else
    let f := if w = 2 then Fmt.f32 else Fmt.f64
    let vs := outerFloatStep f (Rm.of2 rm) ftz z mask.toNat a.toNat b.toNat (k.floatCell w)
    ({ k with folds := putFields k.folds f.width vs, mode := mode, fk := fk }, none)

/-- A bank's mode folds: `.bq` at w = 1 or w = 2 (03 R82). -/
def Bank.foldable (k : Bank) : Bool := k.mode.any fun m => m.ty = 0xB && m.w ≤ 1

/-- A fold capture at the end of cycle `cyc` (03 R82). -/
def Pe.capture (p : Pe) (bank : Bool) (cyc : Nat) : Pe :=
  let k := p.bank bank
  let w := (k.mode.map BankMode.w).getD 0
  let n := outerElems w * outerElems w
  let f : Fold := { bank := bank, cap := cyc, w := w, cells := k.cells, ea := p.ea, eb := p.eb }
  let p := { p with folds := p.folds ++ [f] }
  p.setBank bank { k with cells := putFields k.cells (32 * 2 ^ w) (List.replicate n 0), fk := 0 }

/-- The capture that a landing `fold`, or the step that makes FK equal FI, brings about. -/
def Pe.captureIf (p : Pe) (bank full : Bool) (cyc : Nat) : Pe :=
  let k := p.bank bank
  let fi := foldInterval ((k.mode.map BankMode.w).getD 3)
  if k.foldable && (if full then k.fk.toNat = fi else k.fk ≠ 0) then p.capture bank cyc else p

/-- The oldest unfinished fold of a bank finishes: its cells are added into the fold registers
(03 R82, R83). -/
def Pe.finishFold (p : Pe) (bank : Bool) : Pe :=
  match p.folds.find? fun f => f.bank = bank && !f.done with
  | none => p
  | some f =>
    let k := p.bank bank
    let vs := foldStep f.w f.ea.toNat f.eb.toNat f.cells.toNat fun c => (lane 32 k.folds c).toNat
    let p := p.setBank bank { k with folds := putFields k.folds 32 vs }
    { p with folds := p.folds.map fun g => if g = f then { g with done := true } else g }

/-- All unfinished folds that satisfy a test finish, oldest first. -/
def Pe.finishFolds (p : Pe) (due : Fold → Bool) : Pe :=
  p.folds.foldl (fun q f => if due f && !f.done then q.finishFold f.bank else q) p

/-- Folds no longer pending by virtual cycle are forgotten: one is pending up to the cycle capture + 16 (03 R83). -/
def Pe.pruneFolds (p : Pe) (vcc : Nat) : Pe :=
  { p with folds := p.folds.filter fun f => !f.done || vcc ≤ f.cap + 16 }

/-- Captured folds complete before the banks are saved, moved or kept in a snapshot (03 R89, 06 R186). -/
def Kernel.endFolds (k : Kernel) : Kernel :=
  { k with run := { k.run with pes := Tab.mapVal k.run.pes fun _ p => p.finishFolds fun _ => true } }

/-- The place of a landing in the order of 06 R184. -/
def LandAct.rank : LandAct → Nat
  | .scale _ _ _ => 1 | .rowp _ => 1
  | .outer _ _ _ _ _ _ _ _ _ _ => 2
  | .fold _ => 3
  | .accclr _ => 4
  | .accwr _ _ _ _ => 5
  | .cset _ _ _ _ => 6
  | .bsel _ => 7 | .gwset _ => 7
  | _ => 0

/-- A landing on a CPE's own state: the PE and the trap event it raises, cause and item. -/
def Pe.cpeLand (p : Pe) (cyc : Nat) : LandAct → Pe × Option (BitVec 16 × Nat)
  | .scale isB hi v =>
    let old := if isB then p.eb else p.ea
    let new := setLane old (if hi then 1 else 0) v
    (if isB then { p with eb := new } else { p with ea := new }, none)
  | .rowp v => ({ p with rm := v }, none)
  | .outer z w ty sat ftz rm bank mask a b =>
    let k := p.bank bank
    if !z ∧ k.mode ≠ some ⟨w, ty⟩ then (p, some (0x0103#16, 0))
    else
      let (k', o) := k.outer z w ty sat ftz rm mask a b
      ((p.setBank bank k').captureIf bank true cyc, o.map fun i => (0x0101#16, i))
  | .fold bank => (p.captureIf bank false cyc, none)
  | .accclr bank => (p.setBank bank {}, none)
  | .accwr bank fr g v =>
    let k := p.bank bank
    (p.setBank bank (if fr then { k with folds := setLane k.folds g v }
      else { k with cells := setLane k.cells g v }), none)
  | .cset bank w ty n =>
    let k := p.bank bank
    (p.setBank bank { k with
      mode := if ty = 0 then none else some ⟨w, ty⟩,
      fk := if ty = 0xB then BitVec.ofNat 6 (min n (foldInterval w - 1)) else 0 }, none)
  | .bsel bank => ({ p with sel := bank }, none)
  | .gwset v =>
    if (Gw.of v).ok then ({ p with gw := v &&& gwMask }, none) else (p, some (0x0102#16, 0))
  | .readOut v => ({ p with ro := v }, none)
  | _ => (p, none)

/-- A landing of a cycle must wait for the adders (03 R83): it captures a bank of which two folds are unfinished, or
writes fold registers by `accwr` while a fold captured in an earlier cycle is unfinished. -/
def Pe.landsLate (p : Pe) (cyc : Nat) (a : LandAct) : Bool :=
  match a with
  | .accwr b true _ _ => p.folds.any fun f => f.bank = b && !f.done && f.cap < cyc
  | _ => [false, true].any fun b =>
    ((p.cpeLand cyc a).1.folds.filter fun f => f.bank = b).length > (p.folds.filter fun f => f.bank = b).length
      && (p.folds.filter fun f => f.bank = b && !f.done).length ≥ 2

/-- The op slot of the first of some landings of a cycle, in their order, that must wait for the adders. -/
def Pe.lateLanding (p : Pe) (cyc : Nat) : List Landing → Option Nat
  | [] => none
  | l :: ls => if p.landsLate cyc l.act then some l.ops else (p.cpeLand cyc l.act).1.lateLanding cyc ls

end Sys2Proof.Machine
end

