-- ==== Sys2Proof/Machine/Ape.lean ====
section
/-! DEFINITION. The meanings of the APE ops (07 R191 to R208): each issues by the shared rule of
Kernel.lean and lands the lane result of Lanes.lean. -/
namespace Sys2Proof.Machine

/-- A bad ternary code found by an op: the sticky bit and, under BCTRAP, the trap event, both at the
landing (07 R205). -/
def badCode (e : OpEnv) (bad : Bool) : List LandAct :=
  if bad then .sticky :: (if e.k.desc.bctrap then [.event 0x0104#16 0] else []) else []

/-- `add` (07 R193). -/
def execAdd (f : OpF) (s : State) : Result :=
  resultOp .ape 0x01 f s fun e => apeInt2 f.ty e.a e.b (· + ·)
/-- `sub` (07 R193). -/
def execSub (f : OpF) (s : State) : Result :=
  resultOp .ape 0x02 f s fun e => apeInt2 f.ty e.a e.b (· - ·)
/-- `adds` (07 R193). -/
def execAdds (f : OpF) (s : State) : Result :=
  resultOp .ape 0x03 f s fun e => apeInt2 f.ty e.a e.b fun x y => satT f.ty (x + y)
/-- `subs` (07 R193). -/
def execSubs (f : OpF) (s : State) : Result :=
  resultOp .ape 0x04 f s fun e => apeInt2 f.ty e.a e.b fun x y => satT f.ty (x - y)
/-- `mul` (07 R193). -/
def execMul (f : OpF) (s : State) : Result :=
  resultOp .ape 0x05 f s fun e => apeMul f.ty f.sat e.a e.b
/-- `mulh` (07 R193). -/
def execMulh (f : OpF) (s : State) : Result :=
  resultOp .ape 0x06 f s fun e => apeMulh f.ty e.a e.b
/-- `mad` (07 R193). -/
def execMad (f : OpF) (s : State) : Result :=
  resultOp .ape 0x07 f s fun e => apeMad f.ty f.sat e.a e.b e.c
/-- `min` (07 R193). -/
def execMin (f : OpF) (s : State) : Result :=
  resultOp .ape 0x08 f s fun e => apeInt2 f.ty e.a e.b min
/-- `max` (07 R193). -/
def execMax (f : OpF) (s : State) : Result :=
  resultOp .ape 0x09 f s fun e => apeInt2 f.ty e.a e.b max
/-- `abs` (07 R193). -/
def execAbs (f : OpF) (s : State) : Result :=
  resultOp .ape 0x0A f s fun e => apeSign f.ty f.sat e.a (fun x => x.natAbs) (fun _ => false)
/-- `neg` (07 R193). -/
def execNeg (f : OpF) (s : State) : Result :=
  resultOp .ape 0x0B f s fun e => apeSign f.ty f.sat e.a (fun x => -x) (fun n => !n)
/-- `and` (07 R194). -/
def execAnd (f : OpF) (s : State) : Result :=
  resultOp .ape 0x0C f s fun e => { r1 := e.a &&& e.b }
/-- `or` (07 R194). -/
def execOr (f : OpF) (s : State) : Result :=
  resultOp .ape 0x0D f s fun e => { r1 := e.a ||| e.b }
/-- `xor` (07 R194). -/
def execXor (f : OpF) (s : State) : Result :=
  resultOp .ape 0x0E f s fun e => { r1 := e.a ^^^ e.b }
/-- `andn` (07 R194). -/
def execAndn (f : OpF) (s : State) : Result :=
  resultOp .ape 0x0F f s fun e => { r1 := e.a &&& (2 ^ 512 - 1 - e.b) }
/-- `shl` (07 R195). -/
def execShl (f : OpF) (s : State) : Result :=
  resultOp .ape 0x10 f s fun e => apeShift f.ty e.a e.b laneShl
/-- `shr` (07 R195). -/
def execShr (f : OpF) (s : State) : Result :=
  resultOp .ape 0x11 f s fun e => apeShift f.ty e.a e.b laneShr
/-- `sra` (07 R195). -/
def execSra (f : OpF) (s : State) : Result :=
  resultOp .ape 0x12 f s fun e => apeShift f.ty e.a e.b laneSra
/-- `rot` (07 R195). -/
def execRot (f : OpF) (s : State) : Result :=
  resultOp .ape 0x13 f s fun e => apeShift f.ty e.a e.b laneRot
/-- `cmp` (07 R196). -/
def execCmp (f : OpF) (s : State) : Result :=
  resultOp .ape 0x14 f s fun e => apeCmp f.ty (f.modBits 2 0) e.a e.b
/-- `sel` (07 R196). -/
def execSel (f : OpF) (s : State) : Result :=
  resultOp .ape 0x15 f s fun e => apeSel f.ty e.a e.b e.c
/-- `cnt` (07 R196). -/
def execCnt (f : OpF) (s : State) : Result :=
  resultOp .ape 0x16 f s fun e => apeCnt f.ty e.a
/-- `lzc` (07 R196). -/
def execLzc (f : OpF) (s : State) : Result :=
  resultOp .ape 0x17 f s fun e => apeLzc f.ty e.a
/-- `fadd` (07 R197). -/
def execFadd (f : OpF) (s : State) : Result :=
  resultOp .ape 0x18 f s fun e => apeFloat f (fun rm x => (x 0).add (x 1) rm) [e.a, e.b]
/-- `fsub` (07 R197). -/
def execFsub (f : OpF) (s : State) : Result :=
  resultOp .ape 0x19 f s fun e => apeFloat f (fun rm x => (x 0).add (x 1).negate rm) [e.a, e.b]
/-- `fmul` (07 R197). -/
def execFmul (f : OpF) (s : State) : Result :=
  resultOp .ape 0x1A f s fun e => apeFloat f (fun _ x => (x 0).mul (x 1)) [e.a, e.b]
/-- `fma` (07 R197). -/
def execFma (f : OpF) (s : State) : Result :=
  resultOp .ape 0x1B f s fun e => apeFloat f (fun rm x => ((x 0).mul (x 1)).add (x 2) rm) [e.a, e.b, e.c]
/-- `fmin` (07 R198). -/
def execFmin (f : OpF) (s : State) : Result :=
  resultOp .ape 0x1C f s fun e => apeExtreme f false e.a e.b
/-- `fmax` (07 R198). -/
def execFmax (f : OpF) (s : State) : Result :=
  resultOp .ape 0x1D f s fun e => apeExtreme f true e.a e.b
/-- `fcmp` (07 R198). -/
def execFcmp (f : OpF) (s : State) : Result :=
  resultOp .ape 0x1E f s fun e => apeFcmp f e.a e.b
/-- `frcp` (07 R199). -/
def execFrcp (f : OpF) (s : State) : Result :=
  resultOp .ape 0x1F f s fun e => apeFloat f (fun _ x => (Val.fin false 1 0).div (x 0)) [e.a]
/-- `frsq` (07 R199). -/
def execFrsq (f : OpF) (s : State) : Result :=
  resultOp .ape 0x20 f s fun e => apeFloat f (fun _ x => (x 0).rsqrt) [e.a]
/-- `fexp2` (07 R199). -/
def execFexp2 (f : OpF) (s : State) : Result :=
  resultOp .ape 0x21 f s fun e => apeFloat f (fun _ x => (x 0).exp2) [e.a]
/-- `flog2` (07 R199). -/
def execFlog2 (f : OpF) (s : State) : Result :=
  resultOp .ape 0x22 f s fun e => apeFloat f (fun _ x => (x 0).log2) [e.a]
/-- `fcvt` (07 R200). -/
def execFcvt (f : OpF) (s : State) : Result :=
  resultOp .ape 0x23 f s fun e => apeFcvt f e.a e.b
/-- `bcast` (07 R202). -/
def execBcast (f : OpF) (s : State) : Result :=
  resultOp .ape 0x24 f s fun e => apeBcast f.ty e.a e.b
/-- `perm` (07 R202). -/
def execPerm (f : OpF) (s : State) : Result :=
  resultOp .ape 0x25 f s fun e => apePerm f.ty e.a e.b
/-- `shufl` (07 R202). -/
def execShufl (f : OpF) (s : State) : Result :=
  resultOp .ape 0x26 f s fun e => apeShufl f.ty e.a e.b
/-- `rsum` (07 R201). -/
def execRsum (f : OpF) (s : State) : Result :=
  resultOp .ape 0x27 f s fun e => apeRsum f e.a e.b
/-- `rmax` (07 R201). -/
def execRmax (f : OpF) (s : State) : Result :=
  resultOp .ape 0x28 f s fun e => apeRext f true e.a e.b
/-- `rmin` (07 R201). -/
def execRmin (f : OpF) (s : State) : Result :=
  resultOp .ape 0x29 f s fun e => apeRext f false e.a e.b
/-- `zip` (07 R202). -/
def execZip (f : OpF) (s : State) : Result :=
  resultOp .ape 0x2A f s fun e => apeZip f.ty e.a e.b
/-- `unzip` (07 R202). -/
def execUnzip (f : OpF) (s : State) : Result :=
  resultOp .ape 0x2B f s fun e => apeUnzip f.ty e.a e.b
/-- `ext` (07 R202). -/
def execExt (f : OpF) (s : State) : Result :=
  resultOp .ape 0x2C f s fun e => apeExt f.ty e.a e.b e.c
/-- `tunp` (07 R203). -/
def execTunp (f : OpF) (s : State) : Result :=
  resultOp .ape 0x2D f s (fun e => (apeTunp e.a e.b).1) fun e => badCode e (apeTunp e.a e.b).2
/-- `tacc` (07 R204). -/
def execTacc (f : OpF) (s : State) : Result :=
  resultOp .ape 0x2E f s (fun e => (apeTacc f e.a e.b e.c).1) fun e => badCode e (apeTacc f e.a e.b e.c).2
/-- `sat` (07 R206). -/
def execSat (f : OpF) (s : State) : Result :=
  resultOp .ape 0x2F f s fun e => apeSat f e.a
/-- `clamp` (07 R207). -/
def execClamp (f : OpF) (s : State) : Result :=
  resultOp .ape 0x30 f s fun e => apeClamp f e.a e.b e.c
/-- `mov` (07 R208). -/
def execMov (f : OpF) (s : State) : Result :=
  resultOp .ape 0x31 f s fun e => { r1 := e.a }
/-- `mask` (07 R208). -/
def execMask (f : OpF) (s : State) : Result :=
  resultOp .ape 0x32 f s fun e => apeMask f.ty e.a
/-- `iota` (07 R208). -/
def execIota (f : OpF) (s : State) : Result :=
  resultOp .ape 0x33 f s fun e => apeIota f.ty e.a e.b
/-- `lut` (07 R208). -/
def execLut (f : OpF) (s : State) : Result :=
  resultOp .ape 0x34 f s fun e => apeLut f.ty e.a e.b e.c

end Sys2Proof.Machine
end

