-- ==== Sys2Proof/Machine/Flags.lean ====
section
/-! DEFINITION. The host core's integer and float arithmetic (00 R3: RV64IMFD, Zba, Zbb, Zicond),
with the exception flags of `fcsr` (02 R44). Flag bits: NV 16, DZ 8, OF 4, UF 2, NX 1. -/
namespace Sys2Proof.Machine

/-! ### Integer results -/

/-- The low 32 bits sign-extended. -/
def sext32 (v : Word) : Word := (v.setWidth 32).signExtend 64
/-- The low 32 bits zero-extended. -/
def zext32 (v : Word) : Word := (v.setWidth 32).setWidth 64

/-- Signed division of RISC-V: -1 for a zero divisor, the dividend on overflow. -/
def divS (n : Nat) (a b : Int) : Int :=
  if b = 0 then -1 else if a = -(2 ^ (n - 1) : Nat) ∧ b = -1 then a else a.tdiv b
/-- Signed remainder of RISC-V. -/
def remS (n : Nat) (a b : Int) : Int :=
  if b = 0 then a else if a = -(2 ^ (n - 1) : Nat) ∧ b = -1 then 0 else a.tmod b
/-- Unsigned division of RISC-V. -/
def divU (n a b : Nat) : Nat := if b = 0 then 2 ^ n - 1 else a / b
/-- Unsigned remainder of RISC-V. -/
def remU (a b : Nat) : Nat := if b = 0 then a else a % b

/-- The high 64 bits of a product. -/
def mulHigh (p : Int) : Word := BitVec.ofInt 64 (p / (2 ^ 64 : Nat))

/-- A register-register operation. -/
def aluResult (op : AluOp) (a b : Word) : Word :=
  let sh := (b.toNat % 64)
  let sh5 := (b.toNat % 32)
  let a5 : BitVec 32 := a.setWidth 32
  let b5 : BitVec 32 := b.setWidth 32
  match op with
  | .add => a + b
  | .sub => a - b
  | .sll => a <<< sh
  | .slt => if a.slt b then 1 else 0
  | .sltu => if a.ult b then 1 else 0
  | .xor => a ^^^ b
  | .srl => a >>> sh
  | .sra => a.sshiftRight sh
  | .or => a ||| b
  | .and => a &&& b
  | .addw => sext32 (a + b)
  | .subw => sext32 (a - b)
  | .sllw => (a5 <<< sh5).signExtend 64
  | .srlw => (a5 >>> sh5).signExtend 64
  | .sraw => (a5.sshiftRight sh5).signExtend 64
  | .mul => a * b
  | .mulh => mulHigh (a.toInt * b.toInt)
  | .mulhsu => mulHigh (a.toInt * b.toNat)
  | .mulhu => mulHigh (a.toNat * b.toNat)
  | .div => BitVec.ofInt 64 (divS 64 a.toInt b.toInt)
  | .divu => BitVec.ofNat 64 (divU 64 a.toNat b.toNat)
  | .rem => BitVec.ofInt 64 (remS 64 a.toInt b.toInt)
  | .remu => BitVec.ofNat 64 (remU a.toNat b.toNat)
  | .mulw => (a5 * b5).signExtend 64
  | .divw => BitVec.ofInt 64 (divS 32 a5.toInt b5.toInt)
  | .divuw => (BitVec.ofNat 32 (divU 32 a5.toNat b5.toNat)).signExtend 64
  | .remw => BitVec.ofInt 64 (remS 32 a5.toInt b5.toInt)
  | .remuw => (BitVec.ofNat 32 (remU a5.toNat b5.toNat)).signExtend 64
  | .addUw => zext32 a + b
  | .sh1add => (a <<< 1) + b
  | .sh2add => (a <<< 2) + b
  | .sh3add => (a <<< 3) + b
  | .sh1addUw => (zext32 a <<< 1) + b
  | .sh2addUw => (zext32 a <<< 2) + b
  | .sh3addUw => (zext32 a <<< 3) + b
  | .andn => a &&& ~~~b
  | .orn => a ||| ~~~b
  | .xnor => ~~~(a ^^^ b)
  | .min => if a.slt b then a else b
  | .minu => if a.ult b then a else b
  | .max => if a.slt b then b else a
  | .maxu => if a.ult b then b else a
  | .rol => a.rotateLeft sh
  | .ror => a.rotateRight sh
  | .rolw => (a5.rotateLeft sh5).signExtend 64
  | .rorw => (a5.rotateRight sh5).signExtend 64
  | .czeroEqz => if b = 0 then 0 else a
  | .czeroNez => if b = 0 then a else 0

/-- An operation with a sign-extended immediate. -/
def immResult (op : ImmOp) (a i : Word) : Word :=
  match op with
  | .addi => a + i
  | .slti => if a.slt i then 1 else 0
  | .sltiu => if a.ult i then 1 else 0
  | .xori => a ^^^ i
  | .ori => a ||| i
  | .andi => a &&& i
  | .addiw => sext32 (a + i)

/-- A shift by an immediate. -/
def shiftResult (op : ShiftOp) (a : Word) (n : Nat) : Word :=
  let a5 : BitVec 32 := a.setWidth 32
  match op with
  | .slli => a <<< n
  | .srli => a >>> n
  | .srai => a.sshiftRight n
  | .rori => a.rotateRight n
  | .slliUw => zext32 a <<< n
  | .slliw => (a5 <<< n).signExtend 64
  | .srliw => (a5 >>> n).signExtend 64
  | .sraiw => (a5.sshiftRight n).signExtend 64
  | .roriw => (a5.rotateRight n).signExtend 64

/-- Trailing zeros of the low n bits. -/
def trailingZeros (v : Nat) : Nat → Nat
  | 0 => 0
  | n + 1 => if v % 2 = 1 then 0 else trailingZeros (v / 2) n + 1

/-- A one-operand operation of Zbb. -/
def unaryResult (op : UnaryOp) (a : Word) : Word :=
  let a5 := a.toNat % 2 ^ 32
  match op with
  | .clz => BitVec.ofNat 64 (leadingZeros a.toNat 64)
  | .ctz => BitVec.ofNat 64 (trailingZeros a.toNat 64)
  | .cpop => BitVec.ofNat 64 (popCount a.toNat 64)
  | .clzw => BitVec.ofNat 64 (leadingZeros a5 32)
  | .ctzw => BitVec.ofNat 64 (trailingZeros a5 32)
  | .cpopw => BitVec.ofNat 64 (popCount a5 32)
  | .sextB => (a.setWidth 8).signExtend 64
  | .sextH => (a.setWidth 16).signExtend 64
  | .zextH => (a.setWidth 16).setWidth 64
  | .orcB => BitVec.ofNat 64 (joinLanes 8 ((lanesOf a.toNat 8 8).map fun b => if b = 0 then 0 else 255))
  | .rev8 => BitVec.ofNat 64 (joinLanes 8 (lanesOf a.toNat 8 8).reverse)

/-- The condition of a branch. -/
def branchTaken (op : BranchOp) (a b : Word) : Bool :=
  match op with
  | .beq => a == b
  | .bne => a != b
  | .blt => a.slt b
  | .bge => !a.slt b
  | .bltu => a.ult b
  | .bgeu => !a.ult b

/-! ### Float results with flags -/

/-- The number format of a host float operation. -/
def fmtOf : FFmt → Fmt
  | .s => .f32 | .d => .f64

/-- A signalling NaN of a format. -/
def isSnan (f : Fmt) (b : Nat) : Bool :=
  (f.dec b).isNan && !b.testBit (f.fbits - 1)

/-- NV when a condition holds. -/
def nvIf (b : Bool) : Nat := if b then 16 else 0

/-- A magnitude below the normal range is tiny after rounding: rounded with the exponent unbounded it
stays below 2^emin. -/
def tinyAfter (f : Fmt) (rm : Rm) (neg : Bool) (m : Nat) (e : Int) : Bool :=
  m ≠ 0 && f.roundMag rm neg m (e + 64) < 65 * 2 ^ f.fbits

/-- A value rounded into a format, with OF, UF and NX. -/
def roundFlags (f : Fmt) (rm : Rm) (v : Val) : Nat × Nat :=
  match v with
  | .fin neg m e =>
    let fl := f.floor m e
    let ended := fl.code = f.omega || f.roundMag rm neg m e = f.omega
    let flags :=
      if ended then 5
      else if fl.exact then 0
      else if tinyAfter f rm neg m e then 3 else 1
    (f.enc v rm, flags)
  | v => (f.enc v rm, 0)

/-- A rounded result of operands: NV for a signalling operand or for a NaN out of none. -/
def floatResult (f : Fmt) (rm : Rm) (ops : List Nat) (v : Val) : Nat × Nat :=
  let nv := ops.any (isSnan f) || (v.isNan && !ops.any fun b => (f.dec b).isNan)
  let (r, fl) := roundFlags f rm v
  (r, fl ||| nvIf nv)

/-- Addition, subtraction, multiplication and division. -/
def farithResult (op : FArithOp) (f : Fmt) (rm : Rm) (a b : Nat) : Nat × Nat :=
  let x := f.dec a
  let y := f.dec b
  match op with
  | .add => floatResult f rm [a, b] (x.add y rm)
  | .sub => floatResult f rm [a, b] (x.add y.negate rm)
  | .mul => floatResult f rm [a, b] (x.mul y)
  | .div =>
    let (r, fl) := floatResult f rm [a, b] (x.div y)
    let dz := y.isZero && !x.isZero && !x.isNan && !x.isInf
    (r, if dz then fl ||| 8 else fl)

/-- The fused multiply-adds. -/
def fmaResult (op : FmaOp) (f : Fmt) (rm : Rm) (a b c : Nat) : Nat × Nat :=
  let p := (f.dec a).mul (f.dec b)
  let p := match op with | .nmsub | .nmadd => p.negate | _ => p
  let z := f.dec c
  let z := match op with | .msub | .nmadd => z.negate | _ => z
  let (r, fl) := floatResult f rm [a, b, c] (p.add z rm)
  -- an infinity times a zero is invalid even beside a quiet NaN
  let bad := p.isNan && !(f.dec a).isNan && !(f.dec b).isNan
  (r, fl ||| nvIf bad)

/-- The square root. -/
def fsqrtResult (f : Fmt) (rm : Rm) (a : Nat) : Nat × Nat := floatResult f rm [a] (f.dec a).sqrt

/-- The smaller or the larger of two values; -0 is below +0. -/
def fminResult (f : Fmt) (isMax : Bool) (a b : Nat) : Nat × Nat :=
  let x := f.dec a
  let y := f.dec b
  let nv := nvIf (isSnan f a || isSnan f b)
  if x.isNan then (if y.isNan then f.nan else b, nv)
  else if y.isNan then (a, nv)
  else if x.isZero && y.isZero then (if x.neg? = !isMax then a else b, nv)
  else
    let less := x.cmp y = some .lt
    (if less = !isMax then a else b, nv)

/-- Sign injection and minimum and maximum. -/
def fmiscResult (op : FMiscOp) (f : Fmt) (a b : Nat) : Nat × Nat :=
  let h := 2 ^ (f.width - 1)
  let s (v : Nat) : Nat := v / h % 2
  match op with
  | .sgnj => (a % h + h * s b, 0)
  | .sgnjn => (a % h + h * (1 - s b), 0)
  | .sgnjx => (a % h + h * ((s a + s b) % 2), 0)
  | .min => fminResult f false a b
  | .max => fminResult f true a b

/-- Comparisons: `feq` is quiet, the others signal on every NaN. -/
def fcmpResult (op : FCmpOp) (f : Fmt) (a b : Nat) : Nat × Nat :=
  let o := (f.dec a).cmp (f.dec b)
  let nv := nvIf (match op with
    | .eq => isSnan f a || isSnan f b
    | _ => (f.dec a).isNan || (f.dec b).isNan)
  let r : Bool := match op with
    | .eq => o == some .eq
    | .lt => o == some .lt
    | .le => o == some .lt || o == some .eq
  (if r then 1 else 0, nv)

/-- The class mask of `fclass`. -/
def fclassResult (f : Fmt) (a : Nat) : Nat :=
  match f.dec a with
  | .nan => if isSnan f a then 2 ^ 8 else 2 ^ 9
  | .inf n => if n then 1 else 2 ^ 7
  | .fin n _ _ =>
    let mag := a % 2 ^ (f.width - 1)
    if mag = 0 then (if n then 2 ^ 3 else 2 ^ 4)
    else if mag < 2 ^ f.fbits then (if n then 2 ^ 2 else 2 ^ 5)
    else if n then 2 else 2 ^ 6

/-- Width and sign of an integer type. -/
def intFmt : IntFmt → Nat × Bool
  | .w => (32, true) | .wu => (32, false) | .l => (64, true) | .lu => (64, false)

/-- The exact value m · 2^e is an integer. -/
def isInteger (m : Nat) (e : Int) : Bool := e ≥ 0 || m % 2 ^ (-e).toNat = 0

/-- Conversion to an integer: the register value and the flags; values out of range clamp with NV. -/
def fcvtToIntResult (t : IntFmt) (f : Fmt) (rm : Rm) (a : Nat) : Word × Nat :=
  let (n, sgn) := intFmt t
  let lo : Int := if sgn then -(2 ^ (n - 1) : Nat) else 0
  let hi : Int := if sgn then (2 ^ (n - 1) : Nat) - 1 else (2 ^ n : Nat) - 1
  let put (v : Int) : Word := if n = 32 then (BitVec.ofInt 32 v).signExtend 64 else BitVec.ofInt 64 v
  match f.dec a with
  | .nan => (put hi, 16)
  | .inf neg => (put (if neg then lo else hi), 16)
  | .fin neg m e =>
    let v := roundInt rm neg m e
    if v < lo then (put lo, 16) else if hi < v then (put hi, 16)
    else (put v, if isInteger m e then 0 else 1)

/-- Conversion from an integer register. -/
def fcvtFromIntResult (f : Fmt) (t : IntFmt) (rm : Rm) (v : Word) : Nat × Nat :=
  let (n, sgn) := intFmt t
  roundFlags f rm (Val.ofInt (readInt sgn v.toNat n))

/-- Conversion between the two float formats. -/
def fcvtFFResult (dst : Fmt) (src : Fmt) (rm : Rm) (a : Nat) : Nat × Nat :=
  let (r, fl) := roundFlags dst rm (src.dec a)
  (r, fl ||| nvIf (isSnan src a))

/-- The rounding mode of a code of frm. -/
def rmOf (c : Nat) : Option Rm :=
  match c with
  | 0 => some .rne | 1 => some .rtz | 2 => some .rdn | 3 => some .rup | 4 => some .rmm | _ => none

/-- The rounding mode of an instruction's rm field, the dynamic one from frm; none is illegal. -/
def rmField (rm : BitVec 3) (fcsr : Byte) : Option Rm :=
  if rm = 7 then rmOf (fcsr.toNat / 32) else rmOf rm.toNat

end Sys2Proof.Machine
end

