-- ==== Sys2Proof/Machine/Posted.lean ====
section
/-! DEFINITION. Posted operations on their way to a pool bank or a codec home, and loads and stores at home (13 R361,
R369, R370, R378; 12 R348). -/
namespace Sys2Proof.Machine

/-! ### Posted operations -/

/-- The address and the length of a posted operation. -/
def BankOp.span : BankOp → Nat × Nat
  | .fadd _ pa _ => (pa, 4)
  | .fx _ pa _ => (pa, 8)
  | .atm _ pa _ ty _ _ _ => (pa, if ty = 7 ∨ ty = 8 then 8 else 4)
  | .merge _ pa v _ => (pa, v.length)

/-- The address and the length of what an entry of a store buffer writes; nothing for one that writes none. -/
def BufEnt.span : BufEnt → Nat × Nat
  | .store _ pa v _ _ => (pa, v.length)
  | .bank b _ => b.span
  | .count pa _ _ => (pa, 8)
  | _ => (0, 0)

/-- The agent that posted an operation. -/
def BankOp.src : BankOp → Nat
  | .fadd c _ _ => c | .fx c _ _ => c | .atm c _ _ _ _ _ _ => c | .merge c _ _ _ => c

/-- The value that an atomic operation leaves at a location of n bits (13 R369): 0 add, 1 min,
2 max, 3 and, 4 or, 5 xor, 6 swap, 7 cas against `cmp`. -/
def atomResult (op n : Nat) (sgn : Bool) (old x cmp : Nat) : Nat :=
  let lt := if sgn then sx old n < sx x n else old < x
  if op = 0 then (old + x) % 2 ^ n
  else if op = 1 then (if lt then old else x)
  else if op = 2 then (if lt then x else old)
  else if op = 3 then old &&& x
  else if op = 4 then old ||| x
  else if op = 5 then old ^^^ x
  else if op = 6 then x
  else if old = cmp then x else old

/-- One RNE addition of `pred.f32` (13 R370). -/
def faddResult (old x : Nat) : Nat :=
  Fmt.f32.enc ((Fmt.f32.dec old).add (Fmt.f32.dec x) .rne) .rne

/-- The cluster of a posting unit that is a host thread: its L1 holds the line that it writes. -/
def srcClu (src : Nat) : Option Nat := if src % 2 ^ 16 < 128 then some (src % 2 ^ 16 / 16) else none

/-- An engine is bound for FAULTED with a cause, which it delivers once its status record is written (10 R304). -/
def State.faultEngine (s : State) (en : Nat) (cause : BitVec 16) (info : Nat) : State :=
  let x := Tab.getD s.engs en {}
  { s with engs := Tab.put s.engs en { x with bound := some .faulted, cause := cause, addr := info } }

/-- A posted operation that meets a poisoned or failed place raises its cause at the unit that posted it (13 R378): a
thread takes it before its next instruction, an engine is bound for FAULTED, a kernel has a trap event. -/
def State.postedFault (s : State) (b : BankOp) (c : BitVec 16) (i : Nat) : State :=
  let ctx := b.src / 2 ^ 16
  let u := b.src % 2 ^ 16
  if u < 128 then
    let t := Tab.getD s.thrs u {}
    if t.ctx = ctx ∧ t.st ≠ .off then
      { s with thrs := Tab.put s.thrs u { t with inbox := t.inbox ++ [⟨c, false, Word.of i⟩] } }
    else s
  else if 1024 ≤ u ∧ u < 1152 then
    let x := Tab.getD s.engs (u - 1024) {}
    if x.own = some ctx ∧ x.bound.isNone ∧ x.st ≠ .free ∧ x.st ≠ .done ∧ x.st ≠ .faulted then
      s.faultEngine (u - 1024) c i
    else s
  else match b with
    | .atm _ _ _ _ _ pe ops => s.modRun ctx (u - 256) (·.addEvent pe ops 0 c (Word.of i))
    | _ => s

/-- A posted operation performed at its home; at a poisoned or failed location its cause is raised and nothing is
changed (13 R378). -/
def State.perform (s : State) (b : BankOp) : State :=
  let (pa, n) := b.span
  match b with
  | .merge src _ v en => s.poke pa v en (srcClu src)
  | _ =>
    match s.readError pa n with
    | some (c, i) => s.postedFault b c i
    | none =>
      let old := s.peek pa n
      s.pokeLE pa n (match b with
        | .fadd _ _ v => faddResult old v.toNat
        | .fx _ _ v => (old + v.toNat) % 2 ^ 64
        | .atm _ _ op ty v _ _ =>
          if ty = 9 then faddResult old (v.toNat % 2 ^ 32)
          else atomResult op (8 * n) (ty = 5 || ty = 7) old (v.toNat % 2 ^ (8 * n)) 0
        | .merge _ _ _ _ => old)

/-- A posted operation touches n bytes at pa; merges touch whole codec pages. -/
def BankOp.touches (b : BankOp) (pa n : Nat) : Bool :=
  match b with
  | .merge _ a _ _ => a / 4096 ≤ (pa + n) / 4096 && pa / 4096 ≤ (a + b.span.2) / 4096
  | _ => b.span.1 < pa + n && pa < b.span.1 + b.span.2

/-- All posted operations that satisfy a test, performed in order of arrival. -/
def State.drainBanks (s : State) (p : BankOp → Bool) : State :=
  let t := (s.banks.filter p).foldl State.perform s
  { t with banks := s.banks.filter fun b => !p b }

/-- Posted operations on n bytes at pa are performed before an access to them (13 R361, R370). -/
def State.settle (s : State) (pa n : Nat) : State := s.drainBanks fun b => b.touches pa n

/-- n bytes loaded at home. -/
def State.load (s : State) (pa n : Nat) : Nat × State :=
  let t := s.settle pa n
  (t.peek pa n, t)

/-- Bytes stored at home by a source: a write to a codec page is a merge on its way (12 R348). -/
def State.store (s : State) (src pa : Nat) (v en : List Nat) : State :=
  let t := s.settle pa v.length
  if t.isCodec pa then { t with banks := t.banks ++ [.merge src pa v en] } else t.poke pa v en (srcClu src)

/-- Bytes at physical addresses gathered into runs of consecutive addresses within a frame, so that one request stays
one store (12 R348). -/
def runsOf : List (Nat × Nat) → List (Nat × List Nat)
  | [] => []
  | (a, v) :: t =>
    match runsOf t with
    | (b, vs) :: rest => if b = a + 1 ∧ b % 4096 ≠ 0 then (a, v :: vs) :: rest else (a, [v]) :: (b, vs) :: rest
    | [] => [(a, [v])]

/-- Bytes stored at home at physical addresses, one store for each run. -/
def State.storeRuns (s : State) (src : Nat) (bs : List (Nat × Nat)) : State :=
  (runsOf bs).foldl (fun s r => s.store src r.1 r.2 (r.2.map fun _ => 1)) s

end Sys2Proof.Machine
end

