-- ==== Sys2Proof/Machine/Device.lean ====
section
/-! DEFINITION. The device registers of region 0x3 as a read finds them (17 R427 to R443, 16 R406,
18 R447, R448, 19 R462, R482; in the recovery state 01 R37). -/
namespace Sys2Proof.Machine

/-- A cluster. -/
def State.clu (s : State) (k : Nat) : Cluster := Tab.getD s.clus k {}
/-- A cluster replaced. -/
def State.putClu (s : State) (k : Nat) (c : Cluster) : State := { s with clus := Tab.put s.clus k c }
/-- A port. -/
def State.port (s : State) (p : Nat) : Port := Tab.getD s.ports p {}
/-- A port replaced. -/
def State.putPort (s : State) (p : Nat) (x : Port) : State := { s with ports := Tab.put s.ports p x }

/-- CSTAT of a context (16 R406). -/
def Ctx.cstat (c : Ctx) : Nat :=
  c.st.code * 2 ^ 60 + (if c.nest then 2 ^ 56 else 0) + c.orig.toNat * 2 ^ 32 + c.thr * 2 ^ 16
    + c.cause.toNat

/-- A word of the context table (16 R406). -/
def State.ctxWord (s : State) (off : Nat) : Nat :=
  let c := s.ctx (off / 64)
  match off % 64 with
  | 0 => c.cstat
  | 8 => c.cinfo.toNat
  | 0x10 => c.serial
  | _ => 0

/-- PSTAT (18 R448). -/
def Port.pstat (p : Port) : Nat :=
  p.replay.toNat * 2 ^ 32 + p.retrain.toNat * 2 ^ 16 + p.lanes.toNat * 8 + p.st.code

/-- The energy register that CTX and CORE select (19 R482). -/
def State.selEnergy (s : State) : BitVec 49 :=
  Tab.getD (s.ctx s.pow.ctx.toNat).energy s.pow.core.toNat 0

/-- A word of the power page (19 R462). -/
def State.powerWord (s : State) (off : Nat) : Nat :=
  match off with
  | 0x3800 => s.pow.ewt0.toNat
  | 0x3808 => s.pow.ewt1.toNat
  | 0x3810 => s.pow.swt.toNat
  | 0x3818 => s.pow.awt.toNat
  | 0x3860 => s.pow.opcur.toNat
  | 0x3890 => s.pow.lmax.toNat
  | 0x3898 => s.pow.core.toNat * 2 ^ 16 + s.pow.ctx.toNat
  | 0x38A0 =>
    let e := s.selEnergy
    (e.extractLsb' 0 32).toNat + 2 ^ 32 * (e.extractLsb' 32 17).toNat
  | 0x38A8 => s.pow.tjmax.toNat
  | _ =>
    if 0x3820 ≤ off ∧ off < 0x3860 then
      let c := s.clu ((off - 0x3820) / 8)
      c.lvl * 2 ^ 32 + c.bud
    else if 0x3868 ≤ off ∧ off < 0x3890 then (nth s.pow.lvbud ((off - 0x3868) / 8) 0).toNat
    else 0

/-- The queue of a package queue number: its context and index (17 R431). -/
def State.queueOf (s : State) (pqn : Nat) : Option (Nat × Nat) :=
  s.ctxs.findSome? fun c => (c.2.queues.find? fun q => q.2.pqn = some pqn).map fun q => (c.1, q.1)

/-- A queue of a context. -/
def State.queue (s : State) (ctx q : Nat) : Queue := Tab.getD (s.ctx ctx).queues q {}

/-- A word of the codec region table (12 R336). -/
def CodecEnt.word (c : CodecEnt) (off : Nat) : Nat :=
  match off with
  | 0 => c.cfg.toNat
  | 8 => c.dbase.toNat
  | 0x10 => c.nfr.toNat
  | 0x18 => c.estore.toNat
  | 0x20 => c.acc.toNat
  | _ => (nth c.rsv ((off - 0x28) / 8) 0).toNat

/-- The recovery registers (01 R37): the only contents of BAR 0 in the recovery state. -/
def State.recoveryWord (s : State) (off : Nat) : Nat :=
  if off = 0 then s.recov.rstat.toNat
  else if off = 8 then s.recov.floff.toNat
  else if off = 0x18 then (if s.recov.err then 2 else 0) + (if s.recov.busy ≠ 0 then 1 else 0)
  else if 0x1000 ≤ off ∧ off < 0x2000 then Memory.readLE s.recov.window (off - 0x1000) 8
  else 0

/-- The 64-bit word of region 0x3 at an offset that is a multiple of 8. -/
def State.devWord (s : State) (off : Nat) : Nat :=
  if s.boot = .recovery then s.recoveryWord off
  else if off < 0x1000 then
    match off with
    | 0 => (if s.fw.active then 1 else 0) + (if s.fw.trial then 2 else 0)
    | 0x10 => (nth s.fw.fwver 0 0).toNat
    | 0x18 => (nth s.fw.svn 0 0).toNat
    | 0x20 => (nth s.fw.fwver 1 0).toNat
    | 0x28 => (nth s.fw.svn 1 0).toNat
    | _ => 0
  else if off < 0x2000 then
    match off with
    | 0x1000 => s.sys.base.toNat
    | 0x1008 => s.sys.log
    | 0x1010 => s.sys.kick.toNat
    | 0x1018 => s.sys.done.toNat
    | _ => 0
  else if off < 0x3000 then s.ctxWord (off - 0x2000)
  else if off < 0x4000 then
    if off = 0x3000 then (if s.fw.active then 1 else 0) + (if s.fw.trial then 2 else 0)
    else s.powerWord off
  else if off < 0x5000 then
    if off < 0x4100 then
      let w := Tab.getD s.windows ((off - 0x4000) / 16) (0, 0)
      if off % 16 = 0 then w.1.toNat else w.2.toNat
    else if off = 0x4100 then (if s.winLock then 1 else 0)
    else if off = 0x4108 then s.portMask.toNat
    else if off = 0x4110 then s.pkgid.toNat
    else if 0x4200 ≤ off ∧ off < 0x4400 then (s.port ((off - 0x4200) / 8)).pstat
    else if 0x4400 ≤ off ∧ off < 0x4600 then (s.port ((off - 0x4400) / 8)).rate
    else if 0x4800 ≤ off ∧ off < 0x4A00 then (Tab.getD s.epbase ((off - 0x4800) / 8) 0).toNat
    else 0
  else if 0x1000000 ≤ off ∧ off < 0x1400000 then
    if off % 4096 = 0 then
      match s.queueOf ((off - 0x1000000) / 4096) with
      | some (c, q) => (s.queue c q).kick
      | none => 0
    else 0
  else if 0x2000000 ≤ off ∧ off < 0x2400000 then
    (Tab.getD s.codec ((off - 0x2000000) / 64) {}).word (off % 64)
  else 0

/-- A read of n bytes, naturally aligned, through BAR 0 or by a device access. EHI reads from the
latch of its path (19 R482). -/
def State.devRead (s : State) (bar : Bool) (off n : Nat) : Nat :=
  if s.boot ≠ .recovery ∧ 0x38A4 ≤ off ∧ off < 0x38A8 then
    (if bar then s.pow.latchBar else s.pow.latchDev).toNat / 2 ^ (8 * (off % 4)) % 2 ^ (8 * n)
  else s.devWord (off / 8 * 8) / 2 ^ (8 * (off % 8)) % 2 ^ (8 * n)

/-- A read of ELO of 32 bits latches bits [47:32] and SAT for its path (19 R482). -/
def State.eloLatch (s : State) (bar : Bool) : State :=
  let l := s.selEnergy.extractLsb' 32 17
  { s with pow := if bar then { s.pow with latchBar := l } else { s.pow with latchDev := l } }

/-- A 64-bit word with n bytes written at an offset within it. -/
def mergeWord (old : Nat) (off n v : Nat) : Nat :=
  let b := bytesOf old 8
  ofBytes ((List.range 8).map fun i =>
    if off ≤ i ∧ i < off + n then v / 256 ^ (i - off) % 256 else nth b i 0)

/-- The 64-bit word that a write leaves in a register without behaviour of its own. -/
def State.devMerged (s : State) (off n : Nat) (v : Word) : Word :=
  Word.of (mergeWord (s.devWord (off / 8 * 8)) (off % 8) n v.toNat)

/-- The instruction that performs a write to a device register (17 R427, R428, R433, R440, R443;
18 R448; 19 R482; 01 R37). COMMIT is written by firmware alone (17 R440). -/
def devWriteInstr (s : State) (bar : Bool) (off n : Nat) (v : Word) : Instr :=
  let src : RegSrc := if bar then .bar else .device
  if s.boot = .recovery then
    (if off = 0x10 ∧ v = 1 then .flashErase else if off = 0x10 ∧ v = 2 then .flashProgram
     else .registerWrite src off n v)
  else if 0x1000000 ≤ off ∧ off < 0x1400000 ∧ off % 4096 = 0 then
    .kickWrite ((off - 0x1000000) / 4096) v n
  else if off / 8 * 8 = 0x3898 then .energySelect bar (s.devMerged off n v)
  else if off = 0x4100 ∧ bar ∧ v.getLsbD 0 then .outboundLock
  else if 0x4200 ≤ off ∧ off < 0x4400 ∧ (s.devMerged off n v).getLsbD 8 then
    .portRst ((off - 0x4200) / 8)
  else .registerWrite src off n v

end Sys2Proof.Machine
end

