-- ==== Sys2Proof/Machine/Ops.lean ====
section
/-! DEFINITION. Operations of host threads shared by every host instruction: registers, groups and
their aborts (14 R382 to R384), taking a trap and faulting a context (16 R420 to R422, R405), byte
budgets (19 R463), instruction fetch (11 R332 to R334) and data access (08 R245, 13 R356, R369,
R370, R378). -/
namespace Sys2Proof.Machine

/-! ### Threads and registers -/

/-- A host thread by 16·cluster + number. -/
def State.thr (s : State) (t : Nat) : Thr := Tab.getD s.thrs t {}
/-- A thread replaced. -/
def State.putThr (s : State) (t : Nat) (x : Thr) : State := { s with thrs := Tab.put s.thrs t x }
/-- A function applied to a thread. -/
def State.modThr (s : State) (t : Nat) (f : Thr → Thr) : State := s.putThr t (f (s.thr t))
/-- The thread on the move. -/
def State.me (s : State) : Thr := s.thr s.cur.thr
/-- A function applied to the thread on the move. -/
def State.modMe (s : State) (f : Thr → Thr) : State := s.modThr s.cur.thr f
/-- The context of the thread on the move. -/
def State.myCtx (s : State) : Nat := s.me.ctx
/-- The cluster of a thread. -/
def cluOf (t : Nat) : Nat := t / 16
/-- The cluster of the thread on the move. -/
def State.myClu (s : State) : Nat := cluOf s.cur.thr

/-- An integer register; x0 reads zero (00 R3). -/
def Thr.reg (t : Thr) (r : Reg) : Word := if r = 0 then 0 else t.x[r.toNat]
/-- An integer register written; x0 discards the value. -/
def Thr.setReg (t : Thr) (r : Reg) (v : Word) : Thr :=
  if r = 0 then t else { t with x := t.x.set r.toNat v }
/-- A float register written. -/
def Thr.setFreg (t : Thr) (r : Reg) (v : Word) : Thr := { t with f := t.f.set r.toNat v }
/-- A register of the thread on the move. -/
def State.reg (s : State) (r : Reg) : Word := s.me.reg r
/-- ACT of `hcause` (04 R120). -/
def Thr.act (t : Thr) : Bool := t.hcause.getLsbD 30

/-- The thread on the move goes on after an instruction of n bytes. -/
def State.retireN (s : State) (n : Nat) : State := s.modMe fun t => { t with pc := t.pc + Word.of n }
/-- The thread goes on after an instruction of 32 bits. -/
def State.retire (s : State) : State := s.retireN 4
/-- A result written, and the thread goes on. -/
def State.retireWith (s : State) (rd : Reg) (v : Word) : State := (s.modMe (·.setReg rd v)).retire

/-- The threads of a mask. -/
def threadsOf (m : BitVec 128) : List Nat := (List.range 128).filter fun i => m.getLsbD i

/-! ### Access counters (11 R330, R331) -/

/-- A notice of a unit of 64 KiB for a context, or a dropped one; the unit's counts restart. -/
def State.notice (s : State) (ctx unit key : Nat) (cs : List Nat) : State :=
  let c := s.ctx ctx
  let x := c.xl
  let s := { s with counts := Tab.put s.counts key (List.replicate 8 0) }
  if x.nqp - x.nqc < 2 ^ x.nqlog then
    let a := x.nqbase + 32 * (x.nqp % 2 ^ x.nqlog)
    let s := s.sysPoke a 8 (unit * 65536)
    let s := s.sysPoke (a + 8) 16 (joinLanes 16 cs)
    let s := s.sysPoke (a + 0x18) 8 s.gtc.toNat
    let s := s.sysPoke (x.base + 0x50) 8 (x.nqp + 1)
    s.putCtx ctx { c with xl := { x with nqp := x.nqp + 1 } }
  else
    let d := min (x.ndrop + 1) (2 ^ 32 - 1)
    (s.sysPoke (x.base + 0x38) 4 d).putCtx ctx { c with xl := { x with ndrop := d } }

/-- A 128-byte line request of a cluster reaches the home through a mapping of a context with ACNT. -/
def State.countHome (s : State) (ctx clu pa : Nat) : State :=
  if regionOf pa ≠ 0 ∧ regionOf pa < 8 then s
  else
    let unit := pa / 65536
    let key := ctx * 2 ^ 40 + unit
    let old := Tab.getD s.counts key (List.replicate 8 0)
    let cs := old.set clu (min (nth old clu 0 + 1) 65535)
    let thr := (s.ctx ctx).xl.acthr
    if nth cs clu 0 = thr ∧ thr ≠ 0 ∧ (regionOf pa ≠ 0 ∨ clu / 2 ≠ s.homeDie pa) then
      s.notice ctx unit key cs
    else { s with counts := Tab.put s.counts key cs }

/-- Lines of an address stand in the pools of dies: HBM and host memory (13 R355, R356). -/
def pooled (pa : Nat) : Bool := regionOf pa = 0 || 8 ≤ regionOf pa

/-- The pool of a die lists the line of an address. -/
def State.poolLists (s : State) (d pa : Nat) : Bool := (Tab.getD s.pools d []).contains (pa / 128)

/-- The pool of a die serves a request for a line: it holds the line, which it may also have replaced, and that is left
open (13 R355; log entry 2). -/
def State.poolServes (s : State) (d pa : Nat) : Bool := s.poolLists d pa && Config.poolHit s.draws

/-- A line comes into the pool of a die, if it does not stand there; a line that the pool had replaced had left the L1s
of the die too (13 R355). -/
def State.poolTake (s : State) (d pa : Nat) : State :=
  if !pooled pa then s
  else
    let gone : Bool := s.poolLists d pa && !s.poolServes d pa
    let keep (k : Nat) (c : Cluster) : Cluster :=
      if gone ∧ k / 2 = d then { c with lines := c.lines.filter fun l => l / 2 ≠ pa / 128 } else c
    let pools := if s.poolLists d pa then s.pools else Tab.put s.pools d (pa / 128 :: Tab.getD s.pools d [])
    { s with draws := s.draws + 1, pools := pools, clus := Tab.mapVal s.clus keep }

/-- A request for a line through a leaf: through a cached page the pool of the die may serve it, and it is then not
counted (11 R330). -/
def State.countAccess (s : State) (ctx clu pa : Nat) (acnt cached : Bool) : State :=
  let t := if cached then s.poolTake (clu / 2) pa else s
  if acnt ∧ !(cached && s.poolServes (clu / 2) pa) then t.countHome ctx clu pa else t

/-- An atomic operation reaches its home always, and the line stands in the pool there (13 R369, 11 R330). -/
def State.countAtomic (s : State) (ctx clu pa : Nat) (acnt : Bool) : State :=
  let t := s.poolTake (s.homeDie pa) pa
  if acnt then t.countHome ctx clu pa else t

/-! ### Write-combining buffers (13 R356) -/

/-- The arbiters that a write to an address passes: 0 banks of scratchpads, 1 pool banks, 2 HBM controllers and codecs,
3 the host link (16 R418). -/
def arbitersOf (pa : Nat) : List Nat :=
  if regionOf pa = 0 then [1, 2] else if regionOf pa = 1 then [1] else if regionOf pa = 2 then [0] else [3]

/-- Writes of a context to an address are fenced off: it is killed and an arbiter has acknowledged (16 R418, R419). -/
def State.fenced (s : State) (ctx pa : Nat) : Bool :=
  (s.ctx ctx).st = .killing && (arbitersOf pa).any fun n => !(s.ctx ctx).acks.contains n

/-- The context whose thread or engine owns a write-combining buffer. -/
def State.wcOwner (s : State) (key : Nat) : Option Nat :=
  if key < 128 then (if (s.thr key).st = .off then none else some (s.thr key).ctx)
  else (Tab.getD s.engs (key - 128) {}).own

/-- A write-combining buffer drains: one request for its line (13 R356, 11 R330); that of a killed context is dropped by
an arbiter that has acknowledged (16 R418). -/
def State.wcDrain (s : State) (key : Nat) : State :=
  match Tab.get? s.wc key with
  | none => s
  | some b =>
    if (s.wcOwner key).any fun c => s.fenced c b.base then { s with wc := Tab.del s.wc key } else
    let at_ (i : Nat) : Option Byte := (b.bytes.find? fun e => e.1 = i).map Prod.snd
    let v := (List.range 128).map fun i => ((at_ i).map BitVec.toNat).getD 0
    let en := (List.range 128).map fun i => if (at_ i).isSome then 1 else 0
    let s := s.settle b.base 128
    let s := { s.poke b.base v en (srcClu key) with wc := Tab.del s.wc key }
    match b.count with
    | some (ctx, clu) => s.countHome ctx clu b.base
    | none => s

/-- Everything on its way to some memory arrives: write-combining buffers, posted operations (13 R373). -/
def State.arriveAt (s : State) (a n : Nat) : State :=
  (((s.wc.filter fun b => rangesMeet b.2.base 128 a n).map Prod.fst).foldl State.wcDrain s).settle a n

/-- A read by the owner of a write-combining buffer first drains it where it overlaps (13 R356). -/
def State.ownRead (s : State) (key pa n : Nat) : State :=
  match Tab.get? s.wc key with
  | some b => if rangesMeet b.base 128 pa n then s.wcDrain key else s
  | none => s

/-- Bytes written through a write-combining buffer; `count` names the context and the cluster where the mapping counts
its requests. -/
def State.wcStore (s : State) (key pa : Nat) (v : List Nat) (count : Option (Nat × Nat) := none) : State :=
  let base := pa / 128 * 128
  let s := match Tab.get? s.wc key with
    | some b => if b.base = base then s else s.wcDrain key
    | none => s
  let old := ((Tab.get? s.wc key).map WcBuf.bytes).getD []
  let new := (List.range v.length).map fun i => (pa - base + i, BitVec.ofNat 8 (nth v i 0))
  let bytes := (old.filter fun e => new.all fun n => n.1 ≠ e.1) ++ new
  let s := { s with wc := Tab.put s.wc key { base := base, bytes := bytes, count := count } }
  if bytes.length ≥ 128 then s.wcDrain key else s

/-! ### Groups (14) -/

/-- A group entry of a context. -/
def State.group (s : State) (ctx g : Nat) : Group := Tab.getD (s.ctx ctx).groups g {}

/-- A group entry replaced; the device writes its read-only fields to the table in memory (14 R380). -/
def State.putGroup (s : State) (ctx g : Nat) (x : Group) : State :=
  let c := s.ctx ctx
  let s := s.putCtx ctx { c with groups := Tab.put c.groups g x }
  let a := c.obj.grptab + 64 * g
  let s := s.sysPoke a 8 x.cstep.toNat
  let s := s.sysPoke (a + 8) 8 x.astep.toNat
  let s := s.sysPoke (a + 0x10) 1 x.st.code
  let s := s.sysPoke (a + 0x12) 2 x.reason.toNat
  s.sysPoke (a + 0x30) 2 x.nexcl

/-- The groups of a thread (14 R381). -/
def State.groupsOf (s : State) (ctx t : Nat) : List Nat :=
  (s.ctx ctx).groups.filterMap fun e =>
    if e.2.st ≠ .free ∧ e.2.threads.getLsbD t then some e.1 else none

/-- The groups of a kernel (14 R381). -/
def KDesc.groups (d : KDesc) : List Nat := (d.gslot.filter (· ≠ 255#8)).map BitVec.toNat

/-- A kernel of an aborting group raises trap event 0x0704 (14 R384); the event orders after every PE
and engine (05 R148). -/
def Kernel.abortGroup (k : Kernel) (g : Nat) (step : Word) : Kernel :=
  let runs : Bool := k.state = .running || k.state = .moving || (k.state = .saved && k.savedFrom = .running)
  if g ∈ k.desc.groups ∧ runs then
    let info := Word.of (g * 2 ^ 56 + step.toNat % 2 ^ 56)
    { k with run := k.run.addEvent (enginePe 128) 0 g 0x0704#16 info }
  else k

/-- A copy engine of an aborting group is to stop at its next element (14 R384). -/
def Engine.abortGroup (e : Engine) (ctx g : Nat) : Engine :=
  if e.own = some ctx ∧ g ∈ e.groups ∧ e.active.isSome then { e with halted := true } else e

/-- A lane job of an aborting group is to stop (14 R384, 20 R493). -/
def Lane.abortGroup (l : Lane) (ctx g : Nat) : Lane :=
  if l.own = some ctx ∧ g ∈ l.groups ∧ (l.st = .running ∨ l.st = .stopped) ∧ l.bound.isNone then
    { l with halted := true } else l

/-- Two packages have the same system tag; others never exchange traffic (18 R450, R460). -/
def sameSystem (a b : Word) : Bool := a.extractLsb' 48 16 == b.extractLsb' 48 16

/-- Engines that a freeze has stopped and that an aborting group holds stay stopped (14 R382, R384). -/
def Ctx.abortSaved (c : Ctx) (g : Nat) : Ctx :=
  let saved (e : Nat) : Option Engine := c.image.bind fun i => Tab.get? i.engines e
  { c with froze := c.froze.filter fun e => !((saved e).any fun x => x.groups.contains g) }

/-- A group enters ABORTING (14 R382, R384): the reason is set, tokens leave for every package of the
records, and the members freeze. `origin` is the package that first entered ABORTING. -/
def State.abortGroup (s : State) (ctx g : Nat) (reason : BitVec 16) (origin : Word) : State :=
  let x := s.group ctx g
  if x.st = .filled ∨ x.st = .active ∨ x.st = .unwound then
    let y := { x with st := .aborting, reason := reason, since := s.gtc.toNat, collector := origin }
    let s := s.putGroup ctx g { y with reports := [], excluded := [], reported := false }
    let toks : List Sent := (x.remotes.filter fun r => sameSystem r.1 s.pkgid).map fun r => Sent.token r.1 r.2 origin reason
    let c := s.ctx ctx
    let ks := Tab.mapVal c.kernels fun _ k => k.abortGroup g x.cstep
    let s := s.putCtx ctx ({ c with kernels := ks }.abortSaved g)
    let engs := Tab.mapVal s.engs fun _ e => e.abortGroup ctx g
    let lanes := Tab.mapVal s.lanes fun _ l => l.abortGroup ctx g
    let thrs := Tab.mapVal s.thrs fun t h =>
      if h.ctx = ctx ∧ h.st ≠ .off ∧ x.threads.getLsbD t then { h with holds := h.holds ++ [g] } else h
    { s with sent := s.sent ++ toks, engs := engs, lanes := lanes, thrs := thrs }
  else s

/-- A fatal fault of a member: each of its groups aborts (14 R383). -/
def State.fatal (s : State) (ctx : Nat) (gs : List Nat) (reason : BitVec 16) : State :=
  gs.foldl (fun s g => s.abortGroup ctx g reason s.pkgid) s

/-- Causes of class 0x04 are fatal to the groups of the unit (14 R383). -/
def fatalCause (c : BitVec 16) : Bool := c.toNat / 256 = 4

/-! ### Faulting a context, taking a trap -/

/-- Kernels that run are asked to halt at their next boundary (16 R407). -/
def Kernel.askSave (k : Kernel) : Kernel :=
  if k.state = .running ∨ k.state = .moving then { k with saveReq := true } else k

/-- A lane job stops at the start of its unfinished chunks: what it stalled on walks again, and a pending failure stays
(16 R407, 20 R494). -/
def Lane.freeze (l : Lane) : Lane :=
  if l.st = .running then { l with st := .stopped, subs := List.replicate 8 {}, next := 0, stall := none } else l

/-- A kernel with its sequencer in motion. -/
def Kernel.moves (k : Kernel) : Bool := k.state = .running || k.state = .moving

/-- Every unit of a context is asked to halt at its boundary (16 R407): kernels that run, engines that
no running kernel has forked, lane jobs. -/
def State.haltUnits (s : State) (ctx : Nat) : State :=
  let c := s.ctx ctx
  let led (e : Engine) : Bool := e.kern.any fun kh => (Tab.get? c.kernels kh).any Kernel.moves
  let mine (e : Engine) : Bool := e.own = some ctx && !led e && e.active.isSome
  let froze := (c.froze ++ (s.engs.filter fun e => mine e.2).map Prod.fst).eraseDups
  let s := s.putCtx ctx { c with kernels := Tab.mapVal c.kernels (fun _ k => k.askSave), froze := froze }
  { s with engs := Tab.mapVal s.engs fun _ e => if mine e then e.halt else e,
           lanes := Tab.mapVal s.lanes fun _ l => if l.own = some ctx then l.freeze else l }

/-- A RUNNING context becomes FAULTED (16 R405): its units are halted and its groups abort. -/
def State.faultContext (s : State) (ctx t : Nat) (cause orig : BitVec 16) (nest : Bool)
    (info : Word) : State :=
  let c := s.ctx ctx
  if c.st = .running then
    let d := { c with st := .faulted, nest := nest, orig := orig, thr := t, cause := cause }
    let s := (s.putCtx ctx { d with cinfo := info }).haltUnits ctx
    s.fatal ctx (c.groups.map Prod.fst) cause
  else s

/-- The turn of a host core passes to one of its threads (08 R245). -/
def State.giveTurn (s : State) (clu t : Nat) : State := s.putClu clu { s.clu clu with turn := t % 16 }

/-- An endpoint window of the context holds an address (18 R452). -/
def Ctx.inWindow (c : Ctx) (va : Nat) : Bool :=
  c.eps.any fun e => e.2.valid && e.2.vbase ≤ va && va < e.2.vbase + e.2.npg * 65536

/-- Translation of a host access; a window onto another package refuses it (18 R452), behind the check of the address
(11 R311). -/
def State.hostXlate (s : State) (ctx clu va : Nat) (a : Acc) (multi : Bool := false) : XRes :=
  if va < 2 ^ 57 ∧ (s.ctx ctx).inWindow va then .miss 0x0302#16 va else s.translate ctx clu va a multi

/-- n bytes at a physical address as a device agent reads them. -/
def State.loadAny (s : State) (pa n : Nat) : Nat × State :=
  if regionOf pa = 3 then
    let off := pa - devBase
    (s.devRead false off n, if off = 0x38A0 ∧ n = 4 then s.eloLatch false else s)
  else s.load pa n

/-- A page policy that the caches hold lines of (13 R356). -/
def cachedPol (leaf : Word) : Bool := leafPol leaf ≠ 2 && leafPol leaf ≠ 3

/-- A fetch, or a read of a map word or a record, through a mapping that counts its requests (11 R330). -/
def State.countRead (s : State) (ctx clu pa : Nat) (leaf : Word) : State :=
  if leafAcnt leaf then s.countAccess ctx clu pa true (cachedPol leaf) else s

/-- A fetch-map word kept with the translation of its page (11 R332). -/
def State.keepMap (s : State) (clu asid va : Nat) (w : Word) : State :=
  { s with tlb := s.tlb.map fun t =>
      if t.covers clu asid va then { t with maps := Tab.put t.maps (va / 4096) w } else t }

/-- The fetch-map word of a page (11 R332), with the state in which it is cached; or the cause and
address that stop the fetch. -/
def State.mapWord (s : State) (ctx clu va : Nat) : Except (BitVec 16 × Nat) (Word × State) :=
  let x := (s.ctx ctx).xl
  match (s.tlb.find? fun t => t.covers clu x.asid va).bind fun t => Tab.get? t.maps (va / 4096) with
  | some w => .ok (w, s)
  | none =>
    match s.hostXlate ctx clu (x.fmbase + 8 * (va % 2 ^ 57 / 4096)) .read with
    | .miss c a => .error (c, a)
    | .hit pa leaf s =>
      match s.readError pa 8 with
      | some e => .error e
      | none =>
        let (v, s) := (s.countRead ctx clu pa leaf).load pa 8
        .ok (Word.of v, s.keepMap clu x.asid va (Word.of v))

/-- The fetch map lets a byte of a page be fetched (11 R332, R333): the state, or the cause and address
that stop the fetch. -/
def State.fetchMap (s : State) (ctx clu : Nat) (leaf : Word) (va : Nat) :
    Except (BitVec 16 × Nat) State :=
  if !leafFmap leaf then .ok s
  else if (s.ctx ctx).xl.fmbase = 0 then .error (0x0304#16, va)
  else
    match s.mapWord ctx clu va with
    | .error e => .error e
    | .ok (w, s) => if w.getLsbD (va % 4096 / 64) then .ok s else .error (0x0304#16, va)

/-- One parcel of an instruction: the cause and address that stop its fetch, or its 16 bits. -/
def State.fetchHalf (s : State) (ctx clu va : Nat) : Except (BitVec 16 × Nat) (Half16 × State) :=
  match s.hostXlate ctx clu va .fetch with
  | .miss c a => .error (c, a)
  | .hit pa leaf s =>
    match s.fetchMap ctx clu leaf va with
    | .error e => .error e
    | .ok s =>
      match s.readError pa 2 with
      | some e => .error e
      | none =>
        let (v, s) := ((s.countRead ctx clu pa leaf).ownRead s.cur.thr pa 2).loadAny pa 2
        .ok (BitVec.ofNat 16 v, s)

/-- The first instruction at an address can be fetched (16 R420). -/
def State.canFetch (s : State) (ctx clu va : Nat) : Bool :=
  match s.fetchHalf ctx clu va with
  | .error _ => false
  | .ok (h, _) =>
    isCompressed h || (match s.fetchHalf ctx clu (va + 2) with | .error _ => false | .ok _ => true)

/-- A thread takes a trap (16 R420, R422): cause, KT, the address that `hepc` receives and the trap
information. A cause raised while a handler runs, or whose handler cannot be fetched, makes the
context FAULTED and stops the thread. -/
def State.deliver (s : State) (t : Nat) (c : AsyncCause) (epc : Word) : State :=
  let h := s.thr t
  if h.act then
    (s.modThr t fun h => { h with st := .stopped }).faultContext h.ctx t c.cause
      (h.hcause.extractLsb' 0 16) true 0
  else
    let cause := Word.of ((if c.kt then 2 ^ 31 else 0) + 2 ^ 30 + c.cause.toNat)
    let a := h.htvec &&& ~~~3#64
    let s := s.modThr t fun h => { h with hcause := cause, hepc := epc, htval := c.info, st := .ready, again := false }
    if a = 0 then
      (s.modThr t fun h => { h with st := .stopped }).faultContext h.ctx t 0x0A01#16 c.cause false 0
    else if !s.canFetch h.ctx (cluOf t) a.toNat then
      (s.modThr t fun h => { h with st := .stopped }).faultContext h.ctx t 0x0A01#16 c.cause false a
    else s.modThr t fun h => { h with pc := a }

/-- A precise trap of a thread at its instruction (16 R420); a memory-integrity cause aborts its
groups (14 R383). -/
def State.trapThr (s : State) (t : Nat) (cause : BitVec 16) (info : Word) (kt : Bool := false) : State :=
  let h := s.thr t
  let s := s.deliver t ⟨cause, kt, info⟩ h.pc
  if fatalCause cause then s.fatal h.ctx (s.groupsOf h.ctx t) cause else s

/-- A precise trap of the thread on the move. -/
def State.trap (s : State) (cause : BitVec 16) (info : Word) : State := s.trapThr s.cur.thr cause info

/-- The illegal-instruction trap with the instruction's word (04 R117). -/
def State.illegal (s : State) (w : Half) : State := s.trap 0x0510#16 (w.setWidth 64)

/-- An asynchronous cause arrives at a thread (16 R420, R422). -/
def State.post (s : State) (t : Nat) (c : AsyncCause) : State :=
  s.modThr t fun h => { h with inbox := h.inbox ++ [c] }

/-! ### Byte budgets (19 R463) -/

/-- The weight of an arbiter class: 0 scratchpad bank, 1 window fill, 2 pool bank, 3 HBM controller,
4 Vetar egress (19 R462). -/
def State.arbWeight (s : State) (c : Nat) : Nat := (s.pow.awt.extractLsb' (8 * c) 8).toNat

/-- The charge of n bytes that pass some classes. -/
def State.cost (s : State) (classes : List Nat) (n : Nat) : Nat :=
  classes.foldl (fun v c => v + (n * s.arbWeight c + 15) / 16) 0

/-- A charge on a cluster's meter for a request; none when it exceeds what remains, unless it was charged at the start
of the interval (19 R464). -/
def State.spend (s : State) (clu c : Nat) (who : Payer) : Option State :=
  let k := s.clu clu
  if (who, c) ∈ k.paid then some (s.putClu clu { k with paid := k.paid.erase (who, c) })
  else if c ≤ k.meter then some (s.putClu clu { k with meter := k.meter - c }) else none

/-- A request that the meter has refused waits, in the order of refusal (19 R464). -/
def State.refuse (s : State) (clu c : Nat) (who : Payer) : State :=
  let k := s.clu clu
  if k.waits.any fun w => w.1 = who then s else s.putClu clu { k with waits := k.waits ++ [(who, c)] }

/-- The classes of a request for a line by a unit of a die: pool bank, and HBM controller where no pool serves it
(19 R463). -/
def State.homeClasses (s : State) (clu pa : Nat) (cached : Bool) : List Nat :=
  if regionOf pa = 0 ∧ !(cached && s.poolServes (clu / 2) pa) then [2, 3] else [2]

/-- The classes of an atomic operation: the pool bank of the home, and the HBM controller where that pool does not hold
the line (19 R463, 13 R369). -/
def State.atomClasses (s : State) (pa : Nat) : List Nat :=
  if regionOf pa = 0 ∧ !s.poolServes (s.homeDie pa) pa then [2, 3] else [2]

/-! ### Data access -/

/-- What a host access answers: a value and the state, or the state in which the thread has trapped or
waits. -/
inductive HAcc (α : Type) where
  | ok (v : α) (s : State)
  | stop (s : State)

/-- A cause raised by an access of the thread on the move: a replayable one posts a record and the
thread waits (11 R327, R328), any other traps. -/
def State.raise (s : State) (cause : BitVec 16) (va : Nat) (a : Acc) : State :=
  if replayable cause then
    (s.raiseFault s.myCtx va cause 0 (s.myClu * 2 ^ 13 + s.cur.thr % 16) a.bit (.host s.cur.thr)).modMe
      fun t => { t with st := .faultWait }
  else s.trap cause (Word.of va)

/-- The unit that posts an operation: the context and the unit's number (16 R418). -/
def srcOf (ctx unit : Nat) : Nat := ctx * 2 ^ 16 + unit

/-- The 64-byte line of an address stands in the L1 of a cluster. -/
def State.inL1 (s : State) (clu pa : Nat) : Bool := (pa / 64) ∈ (s.clu clu).lines

/-- A cached access of the thread on the move finds its line, or the thread is switched out until it
arrives, or until the next interval when the budget is spent (08 R245, 19 R464). -/
def State.lineReady (s : State) (pa : Nat) (leaf : Word) : Option State :=
  if s.inL1 s.myClu pa then none
  else
    let c := s.cost (s.homeClasses s.myClu pa true) 64
    match s.spend s.myClu c (.thread s.cur.thr) with
    | none => some ((s.refuse s.myClu c (.thread s.cur.thr)).modMe fun t => { t with st := .budget })
    | some s => some (s.modMe fun t => { t with st := .miss (pa / 64 * 64) (leafAcnt leaf) })

/-- An address lies in a scratchpad of a region that moves: an access waits as for a translation
(05 R143). -/
def State.movingAt (s : State) (ctx pa : Nat) : Bool :=
  (s.ctx ctx).kernels.any fun e => e.2.state = .moving && (e.2.coreOfPa pa).isSome

/-- The transfer of the access in hand of the thread on the move meets a second parity error: a precise trap with the
physical core (13 R377, R378). -/
def State.upsetMe (s : State) : Option State :=
  s.me.upset.map fun core => (s.modMe fun t => { t with upset := none }).trap 0x0404#16 (Word.of core)

/-- A load of n bytes by the thread on the move, naturally aligned or 0x0511 (04 R124). -/
def State.hostLoad (s : State) (va n : Nat) : HAcc Nat :=
  if va % n ≠ 0 then .stop (s.trap 0x0511#16 (Word.of va))
  else
    match s.hostXlate s.myCtx s.myClu va .read with
    | .miss c a => .stop (s.raise c a .read)
    | .hit pa leaf s =>
      if s.movingAt s.myCtx pa then .stop s
      else if regionOf pa = 3 then let (v, s) := s.loadAny pa n; .ok v s
      else
        match s.readError pa n with
        | some (c, i) => .stop (s.trap c (Word.of i))
        | none =>
          match (if cachedPol leaf then s.lineReady pa leaf else s.upsetMe) with
          | some s => .stop s
          | none =>
            let s := if cachedPol leaf then s else s.countAccess s.myCtx s.myClu pa (leafAcnt leaf) false
            let (v, s) := (s.ownRead s.cur.thr pa n).load pa n
            .ok v s

/-- A write to region 0x3 is performed by the instruction of its register, the next to run. -/
def State.devStore (s : State) (pa n v : Nat) : State :=
  { s with sched := .event (devWriteInstr s false (pa - devBase) n (Word.of v)) s.cur :: s.sched }

/-- A store of n bytes by the thread on the move. -/
def State.hostStore (s : State) (va n v : Nat) (multi : Bool := false) : HAcc Unit :=
  if va % n ≠ 0 then .stop (s.trap 0x0511#16 (Word.of va))
  else
    match s.hostXlate s.myCtx s.myClu va .write multi with
    | .miss c a => .stop (s.raise c a .write)
    | .hit pa leaf s =>
      if s.movingAt s.myCtx pa then .stop s
      else if regionOf pa = 3 then .ok () (s.devStore pa n v)
      else
        match s.failedAt pa n with
        | some ch => .stop (s.trap 0x0405#16 (Word.of ch))
        | none =>
          if leafPol leaf = 3 then
            .ok () (s.wcStore s.cur.thr pa (bytesOf v n) (if leafAcnt leaf then some (s.myCtx, s.myClu) else none))
          else
            match (if cachedPol leaf then s.lineReady pa leaf else s.upsetMe) with
            | some s => .stop s
            | none =>
              let s := if cachedPol leaf then s else s.countAccess s.myCtx s.myClu pa (leafAcnt leaf) false
              .ok () (s.store (srcOf s.myCtx s.cur.thr) pa (bytesOf v n) (List.replicate n 1))

/-- The physical place of an atomic of the thread on the move, with its translation, checks and charge
(11 R317, 13 R369, 19 R463). -/
def State.hostAtomPlace (s : State) (va n : Nat) : HAcc Nat :=
  if va % n ≠ 0 then .stop (s.trap 0x0511#16 (Word.of va))
  else
    match s.hostXlate s.myCtx s.myClu va .atomic with
    | .miss c a => .stop (s.raise c a .atomic)
    | .hit pa leaf s =>
      if s.movingAt s.myCtx pa then .stop s
      else
        match s.readError pa n with
        | some (c, i) => .stop (s.trap c (Word.of i))
        | none =>
          match s.upsetMe with
          | some t => .stop t
          | none =>
            let c := s.cost (s.atomClasses pa) n
            match s.spend s.myClu c (.thread s.cur.thr) with
            | none => .stop ((s.refuse s.myClu c (.thread s.cur.thr)).modMe fun t => { t with st := .budget })
            | some s => .ok pa (s.countAtomic s.myCtx s.myClu pa (leafAcnt leaf))

/-- An atomic read-modify-write of the thread on the move; `f` gives the new value, or none to write
nothing. It answers the old value (13 R369). -/
def State.hostAtomic (s : State) (va n : Nat) (f : Nat → Option Nat) : HAcc Nat :=
  match s.hostAtomPlace va n with
  | .stop s => .stop s
  | .ok pa s =>
    let (old, s) := s.load pa n
    match f old with
    | none => .ok old s
    | some v => .ok old (s.pokeLE pa n v)

/-- What a read of records of a context answers: a value, or the cause that stops it with its
information. -/
inductive Rd (α : Type) where
  | ok (v : α) (s : State)
  | bad (cause : BitVec 16) (info : Nat)

/-- A read used to go on. -/
def Rd.bind {α β : Type} (x : Rd α) (f : α → State → Rd β) : Rd β :=
  match x with
  | .ok v s => f v s
  | .bad c i => .bad c i

/-- Pieces of n bytes, k of them, from an address up, each through translation (05 R152); `own` is the write-combining
buffer of the unit that reads, if it has one. -/
def State.readPieces (s : State) (ctx clu n va : Nat) (own : Option Nat := none) : Nat → Rd (List Nat)
  | 0 => .ok [] s
  | k + 1 =>
    match s.hostXlate ctx clu va .read with
    | .miss c a => .bad c a
    | .hit pa leaf s =>
      match s.readError pa n with
      | some (c, i) => .bad c i
      | none =>
        let s := s.countRead ctx clu pa leaf
        let s := match own with | some key => s.ownRead key pa n | none => s
        let (v, s) := s.loadAny pa n
        (s.readPieces ctx clu n (va + n) own k).bind fun r s => .ok (bytesOf v n ++ r) s

/-- n bytes of a record of a context, 8 at a time where they are aligned. -/
def State.readRecord (s : State) (ctx clu va n : Nat) (own : Option Nat := none) : Rd (List Byte) :=
  (if va % 8 = 0 ∧ n % 8 = 0 then s.readPieces ctx clu 8 va own (n / 8)
   else s.readPieces ctx clu 1 va own n).bind fun r s => .ok (r.map (BitVec.ofNat 8)) s

/-- A read of records by the thread on the move: an unresolved cause traps or waits. -/
def Rd.host {α : Type} (x : Rd α) (s : State) : HAcc α :=
  match x with
  | .ok v s => .ok v s
  | .bad c i => .stop (s.raise c i .read)

/-- A record of n bytes read by the thread on the move (05 R152). -/
def State.hostRecord (s : State) (va n : Nat) : HAcc (List Byte) :=
  (s.readRecord s.myCtx s.myClu va n (some s.cur.thr)).host s

/-- An access's value used to go on, or the stop it ran into. -/
def HAcc.andThen {α : Type} (x : HAcc α) (f : α → State → Result) : Result :=
  match x with
  | .ok v s => f v s
  | .stop s => .next s

/-- The operations that the thread on the move has posted are performed, and its write-combining
buffer drains: what a release or a fence waits for (13 R363, R356). -/
def State.flushMine (s : State) : State :=
  (s.wcDrain s.cur.thr).drainBanks fun b => b.src = srcOf s.myCtx s.cur.thr

/-! ### Fetching an instruction -/

/-- What the fetch of the thread on the move finds: an instruction, or a cause with its
information. -/
inductive Fetched where
  | instr (i : Instr) (s : State)
  | stop (cause : BitVec 16) (info : Nat)

/-- The instruction at the program counter (11 R332 to R334, 04 R117). -/
def State.fetch (s : State) : Fetched :=
  let pc := s.me.pc.toNat
  match s.fetchHalf s.myCtx s.myClu pc with
  | .error (c, a) => .stop c a
  | .ok (lo, s) =>
    if isCompressed lo then
      let pool := lo = 0 && pc % 4 = 2 &&
        (match s.fetchHalf s.myCtx s.myClu (pc - 2) with
         | .ok (h, _) => h = 0x700B#16
         | .error _ => false)
      if pool then .stop 0x0A03#16 pc
      else match decodeHost16 lo with
        | .ok i => .instr i s
        | .error _ => .stop 0x0510#16 lo.toNat
    else
      match s.fetchHalf s.myCtx s.myClu (pc + 2) with
      | .error (c, a) => .stop c a
      | .ok (hi, s) =>
        match decodeHost32 (hi ++ lo) with
        | .ok i => .instr i s
        | .error _ => .stop 0x0510#16 (hi ++ lo).toNat

end Sys2Proof.Machine
end

