-- ==== Sys2Proof/Machine/HostRv.lean ====
section
/-! DEFINITION. The base host instruction set on a host thread (00 R3: RV64IMAFDC, Zicsr, Zifencei,
Zba, Zbb, Zicond; 04 R117 to R124): one meaning, by form of instruction. -/
namespace Sys2Proof.Machine

/-- Bytes of an instruction. -/
def instrLen (compressed : Bool) : Nat := if compressed then 2 else 4

/-- A register result, and the thread goes on. -/
def State.put (s : State) (len : Nat) (rd : Reg) (v : Word) : Result :=
  .next ((s.modMe (·.setReg rd v)).retireN len)

/-! ### Float registers -/

/-- A float operand: a single in a register that is not boxed reads as the canonical NaN. -/
def Thr.fval (t : Thr) (f : FFmt) (r : Reg) : Nat :=
  let v := t.f[r.toNat]
  match f with
  | .d => v.toNat
  | .s => if v.extractLsb' 32 32 = BitVec.allOnes 32 then v.toNat % 2 ^ 32 else Fmt.f32.nan

/-- The register value of a float result: a single is boxed. -/
def boxed (f : FFmt) (v : Nat) : Word :=
  match f with
  | .d => BitVec.ofNat 64 v
  | .s => BitVec.allOnes 32 ++ BitVec.ofNat 32 v

/-- Exception flags added to `fcsr`. -/
def Thr.raiseFlags (t : Thr) (fl : Nat) : Thr := { t with fcsr := t.fcsr ||| BitVec.ofNat 8 fl }

/-- A float result with its flags. -/
def State.putF (s : State) (len : Nat) (f : FFmt) (rd : Reg) (r : Nat × Nat) : Result :=
  .next ((s.modMe fun t => (t.setFreg rd (boxed f r.1)).raiseFlags r.2).retireN len)

/-- An integer result of a float operation with its flags. -/
def State.putX (s : State) (len : Nat) (rd : Reg) (v : Word) (fl : Nat) : Result :=
  .next ((s.modMe fun t => (t.setReg rd v).raiseFlags fl).retireN len)

/-- A float instruction under its rounding mode; a reserved mode is illegal. -/
def State.withRm (s : State) (r : Rv) (rm : BitVec 3) (k : Rm → Result) : Result :=
  match rmField rm s.me.fcsr with
  | some m => k m
  | none => .next (s.illegal (encodeRv r))

/-! ### CSRs (04 R119 to R123) -/

/-- The region-relative core of a kernel that a package core is. -/
def Kernel.relCore (k : Kernel) (core : Nat) : Nat :=
  (core / 16 - k.origin / 16) * k.desc.cols + (core % 16 - k.origin % 16)

/-- The stream that `scsel` selects in a context (04 R122), if the context holds it. -/
def State.selStream (s : State) (ctx : Nat) (sel : Word) : Option StreamSt :=
  let core := (sel.extractLsb' 6 10).toNat
  let st := (sel.extractLsb' 0 4).toNat
  ((s.ctx ctx).kernels.find? fun e => e.2.holdsCore (core / 128) (core % 128)).bind fun e =>
    let key := streamKey (e.2.relCore (core % 128)) (sel.getLsbD 5) st
    if st ≤ 11 ∧ (e.2.strm? key).isSome then some (e.2.run.stream key) else none

/-- `leasest` (04 R123); a part of a microsecond left is dropped, a rounding that the spec does not give (log entry 85).
-/
def State.leaseWord (s : State) (t : Thr) : Word :=
  let st := s.pow.store.code * 64
  match t.lease with
  | none => Word.of st
  | some (lvl, stop) =>
    Word.of (min ((stop - s.gtc.toNat) / 1000) (2 ^ 32 - 1) * 2 ^ 32 + st + 32 + lvl)

/-- A CSR read; none where no CSR stands (04 R118, R119). -/
def State.csrRead (s : State) (a : Nat) : Option Word :=
  let t := s.me
  let ctx := s.myCtx
  let c := s.ctx ctx
  let core := (t.esel.extractLsb' 0 10).toNat
  let en : BitVec 49 := if c.holdsCore (core / 128) (core % 128) then Tab.getD c.energy core 0 else 0
  let counter (f : StreamSt → Word) : Option Word := some (((s.selStream ctx t.scsel).map f).getD 0)
  match a with
  | 0x001 => some ((t.fcsr &&& 0x1F#8).setWidth 64)
  | 0x002 => some ((t.fcsr >>> 5).setWidth 64)
  | 0x003 => some (t.fcsr.setWidth 64)
  | 0x800 => some t.htvec
  | 0x801 => some t.hcause
  | 0x802 => some t.hepc
  | 0x803 => some t.htval
  | 0x804 => some t.kctl
  | 0x805 => some t.scsel
  | 0x806 => some t.aesel
  | 0x807 => some t.esel
  | 0xCC0 => some ((en.extractLsb' 0 48).setWidth 64)
  | 0xCC1 => some ((en.extractLsb' 48 1).setWidth 64)
  | 0xCC2 => some (s.pow.melt.setWidth 64)
  | 0xCC3 => some (s.leaseWord t)
  | 0xCC4 => some s.gtc
  | 0xCC5 =>
    let e := Tab.getD s.codec t.aesel.toNat {}
    some (if e.owner = c.xl.asid then e.acc else 0)
  | 0xCD0 => counter StreamSt.filled
  | 0xCD1 => counter StreamSt.used
  | 0xCD2 => counter StreamSt.late
  | 0xCD3 => counter StreamSt.evict
  | _ => none

/-- A CSR that may be written. -/
def csrWritable (a : Nat) : Bool := (1 ≤ a && a ≤ 3) || (0x800 ≤ a && a ≤ 0x807)

/-- A CSR written: read-only and reserved bits keep their values (04 R119 to R122). -/
def Thr.csrWrite (t : Thr) (a : Nat) (v : Word) : Thr :=
  match a with
  | 0x001 => { t with fcsr := (t.fcsr &&& 0xE0#8) ||| (v.setWidth 8 &&& 0x1F#8) }
  | 0x002 => { t with fcsr := (t.fcsr &&& 0x1F#8) ||| (v.setWidth 8 <<< 5) }
  | 0x003 => { t with fcsr := v.setWidth 8 }
  | 0x800 => { t with htvec := v &&& ~~~3#64 }
  | 0x801 => { t with hcause := (t.hcause &&& 0x40000000#64) ||| (v &&& 0x8000FFFF#64) }
  | 0x802 => { t with hepc := v }
  | 0x803 => { t with htval := v }
  | 0x804 => { t with kctl := v &&& 1#64 }
  | 0x805 => { t with scsel := v &&& 0xFFEF#64 }
  | 0x806 => { t with aesel := v &&& 0xFFFF#64 }
  | 0x807 => { t with esel := v &&& 0x3FF#64 }
  | _ => t

/-- The value that a CSR operation writes, or none: a set or clear with operand register 0 writes
nothing. -/
def csrNew (op : CsrOp) (rs1 : Reg) (x old : Word) : Option Word :=
  let z : Word := rs1.setWidth 64
  match op with
  | .rw => some x
  | .rs => if rs1 = 0 then none else some (old ||| x)
  | .rc => if rs1 = 0 then none else some (old &&& ~~~x)
  | .rwi => some z
  | .rsi => if rs1 = 0 then none else some (old ||| z)
  | .rci => if rs1 = 0 then none else some (old &&& ~~~z)

/-- The CSR instructions. -/
def rvCsr (r : Rv) (op : CsrOp) (rd rs1 : Reg) (addr : BitVec 12) (s : State) : Result :=
  match s.csrRead addr.toNat with
  | none => .next (s.illegal (encodeRv r))
  | some old =>
    match csrNew op rs1 (s.reg rs1) old with
    | none => s.put 4 rd old
    | some v =>
      if csrWritable addr.toNat then (s.modMe (·.csrWrite addr.toNat v)).put 4 rd old
      else .next (s.illegal (encodeRv r))

/-! ### Memory -/

/-- Bytes and signedness of a load. -/
def loadShape : LoadOp → Nat × Bool
  | .lb => (1, true) | .lh => (2, true) | .lw => (4, true) | .ld => (8, true)
  | .lbu => (1, false) | .lhu => (2, false) | .lwu => (4, false)
/-- Bytes of a store. -/
def storeSize : StoreOp → Nat
  | .sb => 1 | .sh => 2 | .sw => 4 | .sd => 8

/-- The address of a load or store. -/
def State.ea (s : State) (rs1 : Reg) (imm : BitVec 12) : Nat := (s.reg rs1 + imm.signExtend 64).toNat

/-- Loads. -/
def rvLoad (op : LoadOp) (rd rs1 : Reg) (imm : BitVec 12) (len : Nat) (s : State) : Result :=
  (s.hostLoad (s.ea rs1 imm) (loadShape op).1).andThen fun v s =>
    s.put len rd (BitVec.ofInt 64 (readInt (loadShape op).2 v (8 * (loadShape op).1)))

/-- Stores. -/
def rvStore (op : StoreOp) (rs1 rs2 : Reg) (imm : BitVec 12) (len : Nat) (s : State) : Result :=
  (s.hostStore (s.ea rs1 imm) (storeSize op) ((s.reg rs2).toNat % 2 ^ (8 * (storeSize op)))).andThen fun _ s =>
    .next (s.retireN len)

/-- The physical address that an access reaches, if it translates. -/
def State.hostPa (s : State) (va : Nat) (a : Acc) : Option Nat :=
  match s.hostXlate s.myCtx s.myClu va a with
  | .hit pa _ _ => some pa
  | .miss _ _ => none

/-- What an atomic of the A extension with RL set waits for (13 R363). -/
def State.rlFlush (s : State) (rl : Bool) : State := if rl then s.flushMine else s

/-- `lr`: the load, and a reservation on the bytes read. Its access is of class read, that of `sc` of class write, on
every page policy, which 11 R317 leaves open (DESIGN CHOICE, log entry 91). -/
def rvLr (n : Nat) (rl : Bool) (rd rs1 : Reg) (s : State) : Result :=
  let s := s.rlFlush rl
  let va := (s.reg rs1).toNat
  (s.hostLoad va n).andThen fun v s =>
    let s := match s.hostPa va .read with
      | some pa => { s with resvs := Tab.put s.resvs s.cur.thr (pa, n) }
      | none => s
    s.put 4 rd (BitVec.ofInt 64 (sx v (8 * n)))

/-- `sc`: the store and 0 if the reservation stands once what was posted to its bytes has been performed, else 1; the
reservation ends, and with the store every other on its bytes. Its access is of class write on every page policy, which
11 R317 leaves open (DESIGN CHOICE, log entry 91). -/
def rvSc (n : Nat) (rl : Bool) (rd rs1 rs2 : Reg) (s : State) : Result :=
  let s := s.rlFlush rl
  let va := (s.reg rs1).toNat
  if va % n ≠ 0 then .next (s.trap 0x0511#16 (Word.of va))
  else
    match s.hostXlate s.myCtx s.myClu va .write with
    | .miss c a => .next (s.raise c a .write)
    | .hit pa _ _ =>
      let s := (s.ownRead s.cur.thr pa n).settle pa n
      if Tab.get? s.resvs s.cur.thr = some (pa, n) then
        (s.hostStore va n ((s.reg rs2).toNat % 2 ^ (8 * n))).andThen fun _ s =>
          ({ s with resvs := Tab.del s.resvs s.cur.thr }.breakResvs pa n).put 4 rd 0
      else { s with resvs := Tab.del s.resvs s.cur.thr }.put 4 rd 1

/-- The value that a read-modify-write leaves. -/
def amoNew (op : AmoOp) (n old x : Nat) : Nat :=
  match op with
  | .swap => atomResult 6 n false old x 0
  | .add => atomResult 0 n false old x 0
  | .xor => atomResult 5 n false old x 0
  | .and => atomResult 3 n false old x 0
  | .or => atomResult 4 n false old x 0
  | .min => atomResult 1 n true old x 0
  | .max => atomResult 2 n true old x 0
  | .minu => atomResult 1 n false old x 0
  | .maxu => atomResult 2 n false old x 0

/-- The A extension's read-modify-writes. -/
def rvAmo (op : AmoOp) (n : Nat) (rl : Bool) (rd rs1 rs2 : Reg) (s : State) : Result :=
  let s := s.rlFlush rl
  (s.hostAtomic (s.reg rs1).toNat n
    fun old => some (amoNew op (8 * n) old ((s.reg rs2).toNat % 2 ^ (8 * n)))).andThen fun v s =>
      s.put 4 rd (BitVec.ofInt 64 (sx v (8 * n)))

/-- `fence`: a predecessor set that includes W or O waits for the thread's posted operations and
drains its write-combining buffer (13 R356). -/
def rvFence (pred : BitVec 4) (s : State) : Result :=
  let s := if pred &&& 5#4 ≠ 0 then s.flushMine else s
  .next s.retire

/-! ### Float instructions -/

/-- A float load. -/
def rvFload (f : FFmt) (rd rs1 : Reg) (imm : BitVec 12) (len : Nat) (s : State) : Result :=
  (s.hostLoad (s.ea rs1 imm) (match f with | .s => 4 | .d => 8)).andThen fun v s =>
    s.putF len f rd (v, 0)

/-- A float store. -/
def rvFstore (f : FFmt) (rs1 rs2 : Reg) (imm : BitVec 12) (len : Nat) (s : State) : Result :=
  let n := match f with | .s => 4 | .d => 8
  (s.hostStore (s.ea rs1 imm) n (s.me.f[rs2.toNat].toNat % 2 ^ (8 * n))).andThen fun _ s =>
    .next (s.retireN len)

/-- The move of a float register's bits to an integer register. -/
def fmvBits (f : FFmt) (v : Word) : Word := match f with | .d => v | .s => sext32 v

/-! ### The meaning -/

/-- A base host instruction (00 R3). -/
def execHostInstruction (r : Rv) (compressed : Bool) (s : State) : Result :=
  let len := instrLen compressed
  let pc := s.me.pc
  let x (a : Reg) : Word := s.reg a
  let fv (f : FFmt) (a : Reg) : Nat := s.me.fval f a
  match r with
  | .lui rd imm => s.put len rd ((imm ++ 0#12 : BitVec 32).signExtend 64)
  | .auipc rd imm => s.put len rd (pc + (imm ++ 0#12 : BitVec 32).signExtend 64)
  | .jal rd imm =>
    .next (s.modMe fun t => { t.setReg rd (pc + Word.of len) with pc := pc + imm.signExtend 64 })
  | .jalr rd rs1 imm =>
    let target := (x rs1 + imm.signExtend 64) &&& ~~~1#64
    .next (s.modMe fun t => { t.setReg rd (pc + Word.of len) with pc := target })
  | .branch op rs1 rs2 imm =>
    if branchTaken op (x rs1) (x rs2) then
      .next (s.modMe fun t => { t with pc := pc + imm.signExtend 64 })
    else .next (s.retireN len)
  | .load op rd rs1 imm => rvLoad op rd rs1 imm len s
  | .store op rs1 rs2 imm => rvStore op rs1 rs2 imm len s
  | .immOp op rd rs1 imm => s.put len rd (immResult op (x rs1) (imm.signExtend 64))
  | .shift op rd rs1 sh => s.put len rd (shiftResult op (x rs1) sh.toNat)
  | .alu op rd rs1 rs2 => s.put len rd (aluResult op (x rs1) (x rs2))
  | .unary op rd rs1 => s.put len rd (unaryResult op (x rs1))
  | .fence _ pred _ _ _ => rvFence pred s
  | .fenceI _ _ _ => .next s.flushMine.retire
  | .ecall => .next (s.trap 0x0513#16 (x 17))
  | .ebreak => .next (s.trap 0x0512#16 pc)
  | .csr op rd rs1 addr => rvCsr r op rd rs1 addr s
  | .lr dbl _ rl rd rs1 => rvLr (if dbl then 8 else 4) rl rd rs1 s
  | .sc dbl _ rl rd rs1 rs2 => rvSc (if dbl then 8 else 4) rl rd rs1 rs2 s
  | .amo op dbl _ rl rd rs1 rs2 => rvAmo op (if dbl then 8 else 4) rl rd rs1 rs2 s
  | .fload f rd rs1 imm => rvFload f rd rs1 imm len s
  | .fstore f rs1 rs2 imm => rvFstore f rs1 rs2 imm len s
  | .fma op f rm rd rs1 rs2 rs3 =>
    s.withRm r rm fun m => s.putF len f rd (fmaResult op (fmtOf f) m (fv f rs1) (fv f rs2) (fv f rs3))
  | .farith op f rm rd rs1 rs2 =>
    s.withRm r rm fun m => s.putF len f rd (farithResult op (fmtOf f) m (fv f rs1) (fv f rs2))
  | .fsqrt f rm rd rs1 => s.withRm r rm fun m => s.putF len f rd (fsqrtResult (fmtOf f) m (fv f rs1))
  | .fmisc op f rd rs1 rs2 => s.putF len f rd (fmiscResult op (fmtOf f) (fv f rs1) (fv f rs2))
  | .fcmp op f rd rs1 rs2 =>
    let c := fcmpResult op (fmtOf f) (fv f rs1) (fv f rs2)
    s.putX len rd (Word.of c.1) c.2
  | .fclass f rd rs1 => s.put len rd (Word.of (fclassResult (fmtOf f) (fv f rs1)))
  | .fcvtToInt t f rm rd rs1 =>
    s.withRm r rm fun m =>
      let c := fcvtToIntResult t (fmtOf f) m (fv f rs1)
      s.putX len rd c.1 c.2
  | .fcvtFromInt f t rm rd rs1 =>
    s.withRm r rm fun m => s.putF len f rd (fcvtFromIntResult (fmtOf f) t m (x rs1))
  | .fcvtFF dst rm rd rs1 =>
    let src := match dst with | .s => FFmt.d | .d => FFmt.s
    s.withRm r rm fun m => s.putF len dst rd (fcvtFFResult (fmtOf dst) (fmtOf src) m (fv src rs1))
  | .fmvToInt f rd rs1 => s.put len rd (fmvBits f s.me.f[rs1.toNat])
  | .fmvFromInt f rd rs1 => s.putF len f rd ((x rs1).toNat, 0)

end Sys2Proof.Machine
end

