-- ==== Sys2Proof/Machine/HostX.lean ====
section
/-! DEFINITION. Host instructions of ordering, pool-bank operations and replicas (13 R367 to R375),
`mwait` (15 R399), trap return, `yield`, hints and `poolmk` (16 R423 to R425, 19 R466, 11 R334), and
the events of a host thread (16 R420, 08 R245, 15 R399). -/
namespace Sys2Proof.Machine

/-! ### Ordering (13 R367, R368) -/

/-- `lda` (13 R368). -/
def execLda (_sc : Scope) (rd rs1 : Reg) (s : State) : Result :=
  (s.hostLoad (s.reg rs1).toNat 8).andThen fun v s => .next (s.retireWith rd (Word.of v))

/-- `stl` (13 R368). -/
def execStl (_sc : Scope) (rs1 rs2 : Reg) (s : State) : Result :=
  (s.flushMine.hostStore (s.reg rs1).toNat 8 (s.reg rs2).toNat).andThen fun _ s =>
    .next s.flushMine.retire

/-- `pfence` (13 R368). -/
def execPfence (_sc : Scope) (s : State) : Result := .next s.flushMine.retire

/-- `pfence.sc` (13 R364, R368). -/
def execPfenceSc (s : State) : Result := .next s.flushMine.retire

/-! ### Pool-bank operations (13 R369, R370) -/

/-- Bytes and signedness of a `patom` type. -/
def atomShape : AtomType → Nat × Bool
  | .s64 => (8, true) | .n64 => (8, false) | .s32 => (4, true) | .n32 => (4, false)

/-- The value that a `patom` writes, or none for a `cas` that fails. -/
def patomNew (op : AtomOp) (ty : AtomType) (v c old : Nat) : Option Nat :=
  let n := 8 * (atomShape ty).1
  let x := v % 2 ^ n
  let cmp := c % 2 ^ n
  if op = .cas ∧ old ≠ cmp then none
  else some (atomResult op.code n (atomShape ty).2 old x cmp)

/-- `patom` (13 R369). -/
def execPatom (op : AtomOp) (ty : AtomType) (rd rs1 rs2 : Reg) (s : State) : Result :=
  let (n, sgn) := atomShape ty
  (s.hostAtomic (s.reg rs1).toNat n (patomNew op ty (s.reg rs2).toNat (s.reg rd).toNat)).andThen
    fun old s => .next (s.retireWith rd (BitVec.ofInt 64 (readInt sgn old (8 * n))))

/-- `pred.f32` (13 R370): the addition is on its way to the bank. -/
def execPredF32 (rs1 rs2 : Reg) (s : State) : Result :=
  (s.hostAtomPlace (s.reg rs1).toNat 4).andThen fun pa s =>
    let op : BankOp := .fadd (srcOf s.myCtx s.cur.thr) pa ((s.reg rs2).setWidth 32)
    .next ({ s with banks := s.banks ++ [op] }).retire

/-- `pred.fx` (13 R370). -/
def execPredFx (rs1 rs2 : Reg) (s : State) : Result :=
  (s.hostAtomPlace (s.reg rs1).toNat 8).andThen fun pa s =>
    let op : BankOp := .fx (srcOf s.myCtx s.cur.thr) pa (s.reg rs2)
    .next ({ s with banks := s.banks ++ [op] }).retire

/-! ### Replicated pages (13 R374, R375) -/

/-- The addresses of the copies of a place that a cached translation of a replicated page reaches, lowest die first. -/
def State.copies (s : State) (va pa : Nat) : Replicas × List (Nat × Nat) :=
  let asid := (s.ctx s.myCtx).xl.asid
  let r := ((s.tlb.find? fun t => t.covers s.myClu asid va).map TlbEnt.reps).getD {}
  let p0 := ((pa : Int) - nth r.deltas (r.pick (s.myClu / 2)) 0).toNat
  (r, r.dies.map fun d => (d, r.at_ p0 d))

/-- `stmc` (13 R374). -/
def execStmc (rs1 rs2 : Reg) (s : State) : Result :=
  let va := (s.reg rs1).toNat
  let v := (s.reg rs2).toNat
  if va % 8 ≠ 0 then .next (s.trap 0x0511#16 (Word.of va))
  else
    match s.hostXlate s.myCtx s.myClu va .write true with
    | .miss c a => .next (s.raise c a .write)
    | .hit pa leaf t =>
      if leafRepl leaf then
        let src := srcOf s.myCtx s.cur.thr
        let cs := (t.copies va pa).2
        if cs.any fun c => !t.paOk t.myCtx c.2 Acc.write.rights then .next (t.trap 0x0306#16 (Word.of va))
        else match cs.findSome? fun c => t.failedAt c.2 8 with
        | some ch => .next (t.trap 0x0405#16 (Word.of ch))
        | none =>
          let t := cs.foldl (fun t c => t.ownRead t.cur.thr c.2 8) t
          let put (t : State) (c : Nat × Nat) : State :=
            (t.store src c.2 (bytesOf v 8) (List.replicate 8 1)).countAccess t.myCtx t.myClu c.2 (leafAcnt leaf) (cachedPol leaf)
          .next (cs.foldl put t).retire
      else (s.hostStore va 8 v true).andThen fun _ s => .next s.retire

/-- Copies that differ from the one on the lowest die. -/
def disagree (s : State) (cs : List (Nat × Nat)) : Nat :=
  match cs with
  | [] => 0
  | (_, a) :: t =>
    let line (p : Nat) : Nat := (s.load (p / 128 * 128) 128).1
    t.foldl (fun m c => if line c.2 ≠ line a then m + 2 ^ c.1 else m) 0

/-- `rchk` (13 R375). -/
def execRchk (rd rs1 : Reg) (s : State) : Result :=
  let va := (s.reg rs1).toNat
  match s.hostXlate s.myCtx s.myClu va .read with
  | .miss c a => .next (s.raise c a .read)
  | .hit pa leaf s =>
    if leafRepl leaf then
      let (r, cs) := s.copies va pa
      let s := cs.foldl (fun s c => s.ownRead s.cur.thr (c.2 / 128 * 128) 128) s
      if cs.any fun c => !s.paOk s.myCtx c.2 Acc.read.rights then .next (s.trap 0x0306#16 (Word.of va))
      else match cs.findSome? fun c => s.readError (c.2 / 128 * 128) 128 with
      | some (c, i) => .next (s.trap c (Word.of i))
      | none => .next (s.retireWith rd (Word.of (r.dmask.toNat + 16 * disagree s cs)))
    else
      match s.readError (pa / 128 * 128) 128 with
      | some (c, i) => .next (s.trap c (Word.of i))
      | none => .next (s.retireWith rd 0)

/-! ### Monitor wait (15 R399) -/

/-- The condition of `mwait` on a value and the comparand. -/
def mwaitHolds (c : MwaitCond) (v x : Word) : Bool :=
  match c with
  | .eq => v == x | .ne => v != x | .geu => !v.ult x | .ltu => v.ult x

/-- An acquire load of the thread on the move on a page that can be watched: POL 2 and 3 and regions
0x2 and 0x3 trap with 0x0302 (15 R399, 10 R308). -/
def State.watchLoad (s : State) (va : Nat) : HAcc (Word × Nat) :=
  if va % 8 ≠ 0 then .stop (s.trap 0x0511#16 (Word.of va))
  else
    match s.hostXlate s.myCtx s.myClu va .read with
    | .miss c a => .stop (s.raise c a .read)
    | .hit pa leaf s =>
      if !cachedPol leaf ∨ regionOf pa = 2 ∨ regionOf pa = 3 then
        .stop (s.trap 0x0302#16 (Word.of va))
      else
        match s.readError pa 8 with
        | some (c, i) => .stop (s.trap c (Word.of i))
        | none => let (v, s) := s.load pa 8; .ok (Word.of v, pa) s

/-- The thread sleeps on the line of an address. -/
def State.sleep (s : State) (st : ThrSt) (va pa : Nat) (cmp : Word) (cond : Nat) : State :=
  s.modMe fun t => { t with st := st, watch := ⟨va, cmp, BitVec.ofNat 3 cond, true, pa⟩, again := false }

/-- The watch of the thread ends. -/
def State.disarm (s : State) : State := s.modMe fun t => { t with watch := {}, again := false }

/-- `mwait` (15 R399). -/
def execMwait (c : MwaitCond) (rd rs1 rs2 : Reg) (s : State) : Result :=
  let va := (s.reg rs1).toNat
  let x := s.reg rs2
  (s.watchLoad va).andThen fun v s =>
    if mwaitHolds c v.1 x then .next (s.disarm.retireWith rd v.1)
    else .next (s.sleep .mwait va v.2 x c.code)

/-! ### Traps, yield, hints -/

/-- `hret` (16 R424); a thread held by a group abort stays at it (14 R384). -/
def execHret (s : State) : Result :=
  let t := s.me
  if t.holds ≠ [] then .next s
  else if !t.act then .next (s.illegal 0x0000400B#32)
  else
    let s := s.modMe fun t => { t with hcause := t.hcause &&& ~~~0x40000000#64, pc := t.hepc }
    match t.pend with
    | [] => .next s
    | e :: rest => .next ((s.modMe fun t => { t with pend := rest }).deliver s.cur.thr e t.hepc)

/-- `yield` (16 R425): the turn passes to the next thread of the host core. -/
def execYield (s : State) : Result :=
  .next (s.retire.giveTurn s.myClu (s.cur.thr % 16 + 1))

/-- `hint.c` (19 R466): advice that changes no architectural state. -/
def execHintC (s : State) : Result := .next s.retire
/-- `hint.m` (19 R466). -/
def execHintM (s : State) : Result := .next s.retire
/-- `hint.w` (19 R466). -/
def execHintW (s : State) : Result := .next s.retire

/-- `poolmk` (11 R334): executed, it traps. -/
def execPoolmk (s : State) : Result := .next (s.trap 0x0A03#16 s.me.pc)

/-! ### Events of a host thread -/

/-- A thread leaves the wait that its instruction is held in: its watch, and the fault record it waits on (16 R420). -/
def State.leaveWait (s : State) (t : Nat) : State :=
  let s := s.modThr t fun h => { h with watch := {}, again := false }
  let ctx := (s.thr t).ctx
  let c := s.ctx ctx
  let out (f : FaultRec) : FaultRec := { f with waiters := f.waiters.filter (· ≠ .host t) }
  if (s.thr t).st = .faultWait then s.putCtx ctx { c with faults := c.faults.map out } else s

/-- The oldest asynchronous cause is delivered before the next instruction, or queued while a handler
runs; a full queue drops it (16 R420, R422). A memory-integrity cause aborts the groups of the thread as it arrives
(14 R383). -/
def execAsyncTrapDeliver (s : State) : Result :=
  let t := s.me
  match t.inbox with
  | [] => .next s
  | e :: rest =>
    let s := s.modMe fun t => { t with inbox := rest }
    let s :=
      if t.act then
        if t.pend.length < 4 then s.modMe fun t => { t with pend := t.pend ++ [e] } else s
      else (s.leaveWait s.cur.thr).deliver s.cur.thr e t.pc
    .next (if fatalCause e.cause ∧ !e.kt then s.fatal t.ctx (s.groupsOf t.ctx s.cur.thr) e.cause else s)

/-- Lines that the L1 of a host core holds: 64 KiB of 64-byte lines (08 R245). -/
def l1Lines : Nat := 1024

/-- A missing line arrives: it stands in the L1 and the thread re-issues its access (08 R245); the
request is counted at its home (11 R330). -/
def execHostMissReturn (s : State) : Result :=
  match s.me.st with
  | .miss line acnt =>
    let s := s.countAccess s.myCtx s.myClu line acnt true
    let k := s.clu s.myClu
    let s := s.putClu s.myClu { k with lines := (line / 64 :: k.lines).take l1Lines }
    .next (s.modMe fun t => { t with st := .ready })
  | _ => .next s

/-- A watch fires and the sleeping thread re-checks (15 R399); a watch may fire spuriously. -/
def execWatchFire (s : State) : Result :=
  if s.me.st = .mwait ∨ s.me.st = .cwait ∨ s.me.st = .bwait then
    .next (s.modMe fun t => { t with st := .ready, again := t.st = .bwait })
  else .next s

end Sys2Proof.Machine
end

