-- ==== Sys2Proof/Machine/Barrier.lean ====
section
/-! DEFINITION. The host's barrier instructions (15 R392 to R398) over the barrier words of
Kernel.lean. -/
namespace Sys2Proof.Machine

/-- The kernel and barrier that a host identifier names: handle, index 96·core + number, word
(15 R392). -/
def State.hostBar (s : State) (ctx : Nat) (id : Word) : Option (Nat × Nat × Word) :=
  let kh := (id.extractLsb' 14 8).toNat
  let core := (id.extractLsb' 7 7).toNat
  let num := (id.extractLsb' 0 7).toNat
  match s.kernel? ctx kh with
  | none => none
  | some k =>
    if id.extractLsb' 22 42 ≠ 0#42 ∨ core ≥ k.desc.cores ∨ num > 95 then none
    else some (kh, 96 * core + num, k.bar (96 * core + num))

/-- Threads of a context asleep in `bwait` are woken: a barrier changed (15 R394). -/
def State.wakeBwait (s : State) (ctx : Nat) : State :=
  { s with thrs := Tab.mapVal s.thrs fun _ t =>
      if t.ctx = ctx ∧ t.st = .bwait then { t with st := .ready, again := true } else t }

/-- A barrier word replaced, where the set is held; waiters of the context re-check. -/
def State.putBar (s : State) (ctx kh i : Nat) (b : Word) : State :=
  ((s.modKernel ctx kh fun k => k.putBar i b).showBar ctx kh i).wakeBwait ctx

/-- A barrier instruction on a valid identifier, or 0x0701 (15 R392). -/
def State.withBar (s : State) (id : Word) (k : Nat → Nat → Word → Result) : Result :=
  match s.hostBar s.myCtx id with
  | none => .next (s.trap 0x0701#16 id)
  | some (kh, i, b) => k kh i b

/-- The domain of a kernel has issued a part of its virtual cycle: what a host thread does to its barriers comes behind
the arrivals of that cycle (15 R395). -/
def State.midCycle (s : State) (ctx kh : Nat) : Bool :=
  (s.kernel? ctx kh).any fun k => k.state = .running && k.run.phase = .issue

/-- Virtual cycles of a kernel go by: what threads do between two of them falls into one cycle. -/
def Kernel.ticks (k : Kernel) : Bool := k.state = .running && !k.run.paused

/-- A host event at a barrier comes too late in its cycle: one that the order puts behind it has been there. Arrivals go
by thread number, `binit` behind them, then `bpois` (15 R395). -/
def State.outOfTurn (s : State) (ctx kh i rank : Nat) : Bool :=
  (s.kernel? ctx kh).any fun k => k.ticks && rank < Tab.getD k.hostEvs i 0

/-- A change of a barrier by a host thread; in the middle of a cycle of the domain, or out of its turn, it waits for the
cycle's end. -/
def State.withBarEvent (s : State) (id : Word) (rank : Nat) (k : Nat → Nat → Word → Result) : Result :=
  s.withBar id fun kh i b => if s.midCycle s.myCtx kh ∨ s.outOfTurn s.myCtx kh i rank then .next s else k kh i b

/-- A barrier changed by the thread on the move, behind what it has posted. -/
def State.hostPutBar (s : State) (kh i rank : Nat) (b : Word) : State :=
  let note (k : Kernel) : Kernel := if k.ticks then { k with hostEvs := Tab.put k.hostEvs i rank } else k
  (s.flushMine.putBar s.myCtx kh i b).modKernel s.myCtx kh note

/-- `binit` (15 R397, R398). -/
def execBinit (rs1 rs2 : Reg) (s : State) : Result :=
  let id := s.reg rs1
  let v := s.reg rs2
  s.withBarEvent id 128 fun kh i b =>
    if v.extractLsb' 13 51 ≠ 0#51 ∨ v.extractLsb' 0 12 = 0#12 then .next (s.trap 0x0701#16 id)
    else
      let b := barInit b (v.extractLsb' 0 12).toNat (v.getLsbD 12)
      .next (s.hostPutBar kh i 128 b).retire

/-- `barr` (15 R398). -/
def execBarr (rs1 : Reg) (s : State) : Result :=
  let id := s.reg rs1
  s.withBarEvent id s.cur.thr fun kh i b =>
    if barState b = 2 then .next (s.trap 0x0703#16 id)
    else
      let tok := if barState b = 1 then some (id, BitVec.ofNat 16 (barGen b)) else none
      let s := s.hostPutBar kh i s.cur.thr (barArrive b false)
      .next (s.modMe fun t => { t with token := tok }).retire

/-- `bwait` (15 R398). -/
def execBwait (rd rs1 : Reg) (s : State) : Result :=
  let id := s.reg rs1
  s.withBar id fun _ _ b =>
    let gen := Word.of (barGen b)
    match s.me.token with
    | some (i, g) =>
      if i ≠ id then .next (s.disarm.retireWith rd gen)
      else if barState b = 3 then .next (s.disarm.trap 0x0702#16 id)
      else if barGen b ≠ g.toNat then .next (s.disarm.retireWith rd gen)
      else .next (s.sleep .bwait 0 0 0 0)
    | none => .next (s.disarm.retireWith rd gen)

/-- `bpois` (15 R398). -/
def execBpois (rs1 : Reg) (s : State) : Result :=
  let id := s.reg rs1
  s.withBarEvent id 129 fun kh i b => .next (s.hostPutBar kh i 129 (barPoison b)).retire

end Sys2Proof.Machine
end

