-- ==== Sys2Proof/Machine/Group.lean ====
section
/-! DEFINITION. Groups: `gstep`, `gabort`, `gtab` (14 R387 to R390), abort tokens (R384), and the
agreement on a step (R385, R386). -/
namespace Sys2Proof.Machine

/-- A group instruction on an entry that is not FREE, or 0x0706 with the index (14 R387). -/
def State.withGroup (s : State) (v : Word) (k : Nat → Group → Result) : Result :=
  let x := s.group s.myCtx v.toNat
  if v.toNat > 255 ∨ x.st = .free then .next (s.trap 0x0706#16 v) else k v.toNat x

/-- The entry after a step is committed (14 R388). -/
def Group.commit (x : Group) (v : Word) : Group :=
  match x.st with
  | .filled => { x with st := .active, cstep := v }
  | .active => { x with cstep := if x.cstep.ult v then v else x.cstep }
  | .unwound => if v = x.astep then { x with st := .active } else x
  | .free | .aborting => x

/-- `gstep` (14 R388): a release of the thread's earlier accesses. -/
def execGstep (rs1 rs2 : Reg) (s : State) : Result :=
  s.withGroup (s.reg rs1) fun g x =>
    .next (s.flushMine.putGroup s.myCtx g (x.commit (s.reg rs2))).retire

/-- `gabort` (14 R389). -/
def execGabort (rs1 rs2 : Reg) (s : State) : Result :=
  s.withGroup (s.reg rs1) fun g _ =>
    .next (s.retire.abortGroup s.myCtx g ((s.reg rs2).setWidth 16) s.pkgid)

/-- The value that `gtab` returns for a selector (14 R390). -/
def Group.read (x : Group) (sel : Nat) : Word :=
  match sel with
  | 0 => Word.of (x.st.code * 2 ^ 60 + x.nexcl * 2 ^ 32 + x.reason.toNat)
  | 1 => x.cstep
  | 2 => x.astep
  | _ => BitVec.allOnes 64

/-- `gtab` (14 R390). -/
def execGtab (rd rs1 : Reg) (s : State) : Result :=
  let v := s.reg rs1
  let x := s.group s.myCtx (v.extractLsb' 0 8).toNat
  let x := if x.st = .free then ({} : Group) else x
  .next (s.retireWith rd (x.read (v.extractLsb' 8 2).toNat))

/-! ### Tokens and agreement -/

/-- An abort token arrives (14 R384). Of packages that entered ABORTING at once, the one with the
lowest identity collects the reports (R385). None comes from another system (18 R450). -/
def execAbortToken (ctx g : Nat) (origin : Word) (reason : BitVec 16) (s : State) : Result :=
  let x := s.group ctx g
  if !sameSystem origin s.pkgid then .next s
  else if x.st = .aborting then
    .next (if origin.ult x.collector then s.putGroup ctx g { x with collector := origin, reported := false, reports := [] } else s)
  else .next (s.abortGroup ctx g reason origin)

/-- A thread with a handler running stands at its `hret` (14 R384). -/
def State.atHret (s : State) (t : Nat) : Bool :=
  match ({ s with cur := { s.cur with thr := t } }).fetch with
  | .instr i _ => i = .hret
  | .stop _ _ => false

/-- Every local member of a group is frozen; the members of a saved context are, and a thread whose message is not yet
acknowledged stands inside an instruction (14 R382, R384, R385). -/
def State.allFrozen (s : State) (ctx g : Nat) : Bool :=
  let x := s.group ctx g
  (s.ctx ctx).st = .saved || ((s.ctx ctx).kernels.all fun e =>
      !(e.2.desc.groups.contains g) || (e.2.state ≠ .running && e.2.state ≠ .moving))
    && (s.engs.all fun e => e.2.own ≠ some ctx || !(e.2.groups.contains g) || !e.2.halted)
    && (s.lanes.all fun l => l.2.own ≠ some ctx || !(l.2.groups.contains g) || !l.2.halted)
    && (s.thrs.all fun e => e.2.ctx ≠ ctx || e.2.st = .off || !x.threads.getLsbD e.1
        || (e.2.st ≠ .sigst && (!e.2.act || s.atHret e.1)))

/-- The packages of a group: this one and those of its records. -/
def State.groupPackages (s : State) (x : Group) : List Word := s.pkgid :: x.remotes.map Prod.fst

/-- 40 ms of GTC (01 R25). -/
def reportTime : Nat := 40000000

/-- A report of a committed step. This package's own counts, and leaves for the collector, when
every local member is frozen; another's counts when this package collects, within 40 ms of the first token (14 R385). -/
def execCstepReport (ctx g : Nat) (pkg step : Word) (s : State) : Result :=
  let x := s.group ctx g
  if x.st ≠ .aborting ∨ (x.collector = s.pkgid ∧ x.since + reportTime ≤ s.gtc.toNat) then .next s
  else if pkg = s.pkgid then
    if x.reported ∨ !s.allFrozen ctx g ∨ step ≠ x.cstep then .next s
    else if x.collector = s.pkgid then
      let y := { x with reported := true }
      .next (s.putGroup ctx g
        (if pkg ∈ x.excluded then y else { y with reports := x.reports ++ [(pkg, step)] }))
    else
      let s := s.putGroup ctx g { x with reported := true }
      let there := (x.remotes.find? fun r => r.1 = x.collector).elim g Prod.snd
      .next (if sameSystem x.collector s.pkgid then { s with sent := s.sent ++ [.report x.collector there step] } else s)
  else if x.collector = s.pkgid ∧ sameSystem pkg s.pkgid ∧ pkg ∈ x.remotes.map Prod.fst ∧ pkg ∉ x.excluded
      ∧ pkg ∉ x.reports.map Prod.fst then
    .next (s.putGroup ctx g { x with reports := x.reports ++ [(pkg, step)] })
  else .next s

/-- Packages that have not reported in time are excluded (14 R385). -/
def execAgreementTimeout (ctx g : Nat) (s : State) : Result :=
  let x := s.group ctx g
  if x.st = .aborting ∧ x.collector = s.pkgid ∧ x.since + reportTime ≤ s.gtc.toNat then
    let out := (s.groupPackages x).filter fun p =>
      !(x.reports.map Prod.fst).contains p && !x.excluded.contains p
    .next (s.putGroup ctx g { x with excluded := x.excluded ++ out })
  else .next s

/-- The least of some reported steps. -/
def leastStep : List (Word × Word) → Option Word
  | [] => none
  | e :: t =>
    match leastStep t with
    | none => some e.2
    | some m => some (if e.2.ult m then e.2 else m)

/-- The trap information of 0x0704 (14 R386). -/
def agreeInfo (g : Nat) (step : Word) : Word := Word.of (g * 2 ^ 56 + step.toNat % 2 ^ 56)

/-- A frozen kernel of the group announces the agreed step through `krdv` (14 R386). -/
def Kernel.agree (k : Kernel) (g : Nat) (info : Word) : Kernel :=
  let mine (c : BitVec 16) (i : Word) : Bool := c = 0x0704#16 && i.toNat / 2 ^ 56 = g
  let ev := k.run.events.map fun e => if mine e.cause e.info then { e with info := info } else e
  { k with info := (if mine k.cause k.info then info else k.info), run := { k.run with events := ev } }

/-- A member thread takes the agreement trap at its instruction; one at the `hret` of its handler
takes it as that `hret` returns (14 R386, 16 R424; log entry 77), one inside a `sigst` behind it. -/
def State.agreeThr (s : State) (t g : Nat) (c : AsyncCause) : State :=
  let s := s.modThr t fun h => { h with holds := h.holds.filter (· ≠ g) }
  if (s.thr t).act then s.modThr t fun h => { h with pend := c :: h.pend }
  else if (s.thr t).st = .sigst then s.modThr t fun h => { h with inbox := c :: h.inbox }
  else (s.leaveWait t).deliver t c (s.thr t).pc

/-- The agreed step arrives (14 R386). The collector decides it when every package has reported or is
excluded, and sends it to every package. -/
def execAgreementResult (ctx g : Nat) (step : Word) (nexcl : Nat) (s : State) : Result :=
  let x := s.group ctx g
  let mine := x.collector = s.pkgid
  let known := x.reports.map Prod.fst ++ x.excluded
  if x.st ≠ .aborting ∨ (mine ∧ ((s.groupPackages x).any fun p => !known.contains p)) then .next s
  else
    let step := if mine then (leastStep x.reports).getD step else step
    let nexcl := if mine then x.excluded.length else nexcl
    let out : List Sent :=
      if mine then (x.remotes.filter fun r => sameSystem r.1 s.pkgid).map fun r => .result r.1 r.2 step nexcl else []
    let y := { x with st := .unwound, cstep := step, astep := step, nexcl := min nexcl 65535 }
    let s := { s.putGroup ctx g y with sent := s.sent ++ out }
    let info := agreeInfo g step
    let cause : AsyncCause := ⟨0x0704#16, false, info⟩
    let c := s.ctx ctx
    let ks := Tab.mapVal c.kernels fun _ k => k.agree g info
    let s := s.putCtx ctx { c with kernels := ks }
    .next (((threadsOf x.threads).filter fun t => (s.thr t).ctx = ctx && (s.thr t).st ≠ .off).foldl
      (fun s t => s.agreeThr t g cause) s)

end Sys2Proof.Machine
end

