-- ==== Sys2Proof/Machine/Lease.lean ====
section
/-! DEFINITION. Leases (19 R468 to R471), accounting intervals (R463, R464, R480), the Pewter store
(R467), operating points (R465, 01 R26, R27) and the energy registers of the power page (R482). -/
namespace Sys2Proof.Machine

/-! ### Leases -/

/-- Why a lease is refused, if it is (19 R469). -/
def State.leaseWhy (s : State) (d l : Nat) : Option Nat :=
  if l < 1 ∨ l > 4 ∨ d = 0 ∨ d ≥ 2 ^ 32 then some 4
  else if s.pow.store = .locked then some 3
  else if s.pow.store = .refreeze then some 2
  else if s.pow.melt.toNat ≥ 0xC000 then some 1
  else none

/-- The duration granted, in µs (19 R469). -/
def State.leaseTime (s : State) (d : Nat) : Nat := min d s.pow.lmax.toNat

/-- `lease` (19 R469). -/
def execLease (rd rs1 rs2 : Reg) (s : State) : Result :=
  let d := (s.reg rs1).toNat
  let l := (s.reg rs2).toNat
  match s.leaseWhy d l with
  | some r => .next (s.retireWith rd (Word.of (2 ^ 63 + r * 2 ^ 36)))
  | none =>
    let g := s.leaseTime d
    let s := s.modMe fun t => { t with lease := some (l, s.gtc.toNat + 1000 * g) }
    .next (s.retireWith rd (Word.of (l * 2 ^ 32 + g)))

/-- `lrel` (19 R470). -/
def execLrel (s : State) : Result := .next (s.modMe fun t => { t with lease := none }).retire

/-- The cause of an ended lease (19 R471). -/
def leaseEnd (l : Nat) : AsyncCause := ⟨0x0901#16, false, Word.of l⟩

/-- The lease of the thread on the move runs out (19 R471). -/
def execLeaseExpiry (s : State) : Result :=
  match s.me.lease with
  | none => .next s
  | some (l, stop) =>
    if s.gtc.toNat < stop then .next s
    else .next ((s.modMe fun t => { t with lease := none }).post s.cur.thr (leaseEnd l))

/-- A thread's lease ends; by exhaustion the holder receives 0x0901. -/
def Thr.endLease (t : Thr) (trap : Bool) : Thr :=
  match t.lease with
  | none => t
  | some (l, _) =>
    let t := { t with lease := none }
    if trap then { t with inbox := t.inbox ++ [leaseEnd l] } else t

/-- Every lease ends. -/
def State.endLeases (s : State) (trap : Bool) : State :=
  { s with thrs := Tab.mapVal s.thrs fun _ t => t.endLease trap }

/-! ### Accounting intervals -/

/-- The contexts with a kernel resident on a core, by rising handle (19 R480). -/
def State.residents (s : State) (clu core : Nat) : List Nat :=
  s.ctxs.filterMap fun c => if c.2.holdsCore clu core then some c.1 else none

/-- The static charge of a core (19 R480). -/
def State.staticCharge (s : State) (core : Nat) : State :=
  let z := s.residents (core / 128) (core % 128)
  let w := s.pow.swt.toNat
  let s := z.foldl (fun s c => s.charge c core (w / z.length)) s
  match z with
  | [] => s
  | c :: _ => s.charge c core (w % z.length)

/-- The lease level of a cluster: the highest of its threads' leases (19 R468). -/
def State.leaseLevel (s : State) (clu : Nat) : Nat :=
  s.thrs.foldl (fun m t => if cluOf t.1 = clu then max m ((t.2.lease.map Prod.fst).getD 0) else m) 0

/-- A request that waits is charged at the start of an interval, or waits on (19 R464). -/
def Cluster.serve (k : Cluster) (w : Payer × Nat) : Cluster :=
  if w.2 ≤ k.meter then { k with meter := k.meter - w.2, paid := k.paid ++ [w] } else { k with waits := k.waits ++ [w] }

/-- A cluster at the start of an interval: the meter is set, and what waits is charged first, in the order of refusal
(19 R463, R464, R468). -/
def State.newInterval (s : State) (clu : Nat) : State :=
  let l := s.leaseLevel clu
  let b := (nth s.pow.lvbud l 0#32).toNat
  let k := s.clu clu
  s.putClu clu (k.waits.foldl Cluster.serve { k with lvl := l, bud := b, meter := b, waits := [], paid := [] })

/-- A host thread whose request the meter of its cluster has charged issues again (19 R464). -/
def State.threadServed (s : State) (t : Nat) (h : Thr) : Thr :=
  if h.st = .budget ∧ !((s.clu (cluOf t)).waits.any fun w => w.1 = .thread t) then { h with st := .ready } else h

/-- An accounting interval ends (19 R463, R464, R480): the cores charge static energy, the meters are
set anew, and the host threads that waited for them issue again. -/
def execIntervalEnd (s : State) : Result :=
  if s.gtc.toNat < 1000 * (s.ival + 1) then .next s
  else
    let s := (List.range 1024).foldl State.staticCharge s
    let s := (List.range 8).foldl State.newInterval s
    .next { s with ival := s.ival + 1, thrs := Tab.mapVal s.thrs s.threadServed }

/-! ### The Pewter store -/

/-- The state of the store after an update of MELT (19 R467). -/
def StoreSt.update (m : Nat) : StoreSt → StoreSt
  | .solid => if m ≥ 0xF000 then .refreeze else if m > 0 then .melting else .solid
  | .melting => if m ≥ 0xF000 then .refreeze else if m = 0 then .solid else .melting
  | .refreeze => if m ≤ 0x4000 then (if m = 0 then .solid else .melting) else .refreeze
  | .locked => .locked

/-- MELT is updated and the store follows; entering REFREEZE exhausts every lease (19 R467, R471). No firmware runs
in the recovery state to update it (01 R37). -/
def execMeltUpdate (m : BitVec 16) (s : State) : Result :=
  if s.boot = .recovery then .next s else
  let old := s.pow.store
  let new := old.update m.toNat
  let s := { s with pow := { s.pow with melt := m, store := new, sensorOk := true } }
  .next (if new = .refreeze ∧ old ≠ .refreeze then s.endLeases true else s)

/-! ### Operating points and the energy page -/

/-- A rail's place in OPCUR (19 R462). -/
def railIndex : Rail → Nat
  | .matrix => 0 | .vector => 1 | .sram => 2 | .fabric => 3

/-- The operating point of a rail. -/
def opOf (op : Byte) (r : Rail) : Nat := op.toNat / 4 ^ railIndex r % 4

/-- OPCUR with the point of a rail replaced. -/
def putOp (op : Byte) (r : Rail) (v : BitVec 2) : Byte := setLane op (railIndex r) v

/-- The SRAM rail's point is not above that of the arithmetic clock (01 R26). -/
def clockRule (op : Byte) : Bool := opOf op .sram ≤ max (opOf op .matrix) (opOf op .vector)

/-- 100 ms of GTC. -/
def railTime : Nat := 100000000

/-- The module runs its firmware (17 R444, 01 R37). -/
def State.fwRuns (s : State) : Bool := s.boot = .ready || s.boot = .training

/-- The global scheduler changes a rail's operating point, within OPMIN, the clock rule and one change
in 100 ms (19 R465, 01 R26, R27). -/
def execOpChange (rail : Rail) (op : BitVec 2) (s : State) : Result :=
  let new := putOp s.pow.opcur rail op
  let last := nth s.pow.changed (railIndex rail) 0
  let least := (s.limits.opmin.extractLsb' (8 * railIndex rail) 8).toNat
  if !s.fwRuns ∨ op.toNat < least ∨ !clockRule new ∨ (last ≠ 0 ∧ s.gtc.toNat < last + railTime) then .next s
  else
    let changed := s.pow.changed.set (railIndex rail) (max 1 s.gtc.toNat)
    .next { s with pow := { s.pow with opcur := new, changed := changed } }

/-- The fixed logic answers a power draw above PSPRINT, or above PSUST where it is sustained, by lowering the
operating point of a rail and the budgets in force, and by nothing else (01 R36, 19 R465; log entry 69). Such a lowering
neither waits for the 100 ms of its rail nor counts towards them: R27 leaves that open (DESIGN CHOICE, log entry 86). -/
def State.overPower (s : State) (watts : Nat) (sustained : Bool) (rail : Rail) (op : BitVec 2) (buds : List Nat) :
    State :=
  let new := putOp s.pow.opcur rail op
  if !s.fwRuns ∨ watts ≤ (if sustained then s.limits.psust else s.limits.psprint).toNat
      ∨ op.toNat < opOf s.pow.opcur rail ∨ !clockRule new then s
  else
    let low (clu : Nat) (k : Cluster) : Cluster :=
      let b := min k.bud (nth buds clu k.bud)
      { k with bud := b, meter := min k.meter b }
    { s with pow := { s.pow with opcur := new }, clus := Tab.mapVal s.clus low }

/-- The bytes of OPMIN, one to a rail, none of them lower than before (01 R35, R36). -/
def pointsTighter (old new : BitVec 32) : Bool :=
  (List.range 4).all fun i => (old.extractLsb' (8 * i) 8).toNat ≤ (new.extractLsb' (8 * i) 8).toNat

/-- Limits that firmware may put in place of those in force: it may tighten the current, power and thermal limits and
relax none, and the repair maps are not its own (01 R36, 17 R443). -/
def Limits.tighter (old new : Limits) : Bool :=
  new.psust ≤ old.psust && new.psprint ≤ old.psprint && new.tcrit ≤ old.tcrit && new.trel ≤ old.trel
    && new.trel < new.tcrit && pointsTighter old.opmin new.opmin
    && new.coreret = old.coreret && new.copydis = old.copydis && new.lanedis = old.lanedis && new.vetdis = old.vetdis

/-- CTX and CORE are written and the latches cleared (19 R482). -/
def execEnergySelect (_bar : Bool) (v : Word) (s : State) : Result :=
  let p := { s.pow with ctx := v.extractLsb' 0 6, core := v.extractLsb' 16 10 }
  .next (if s.boot = .recovery then s else { s with pow := { p with latchBar := 0, latchDev := 0 } })

/-- A read of ELO: one of 32 bits latches the high half for its path (19 R482). -/
def execEloRead (bar : Bool) (bytes : Nat) (s : State) : Result :=
  .next (if bytes = 4 ∧ s.boot ≠ .recovery then s.eloLatch bar else s)

end Sys2Proof.Machine
end

