-- ==== Sys2Proof/Machine/Registers.lean ====
section
/-! DEFINITION. Writes to the device registers (17 R427, R428, R433, R443; 18 R447, R448; 19 R462;
12 R336, R337; 01 R37), kicks (17 R433 to R435) and MSI-X (17 R429). -/
namespace Sys2Proof.Machine

/-! ### Queues -/

/-- A queue replaced; the device writes the read-only fields of its descriptor (17 R431). -/
def State.putQueue (s : State) (ctx q : Nat) (x : Queue) : State :=
  let c := s.ctx ctx
  let s := s.putCtx ctx { c with queues := Tab.put c.queues q x }
  let a := c.obj.qtab + 64 * q
  let s := (s.sysPoke (a + 0xB) 5 0).sysPoke (a + 0x2E) 2 0
  let s := s.sysPoke (a + 0x10) 8 x.kick
  let s := s.sysPoke (a + 0x18) 8 x.cons
  let s := s.sysPoke (a + 0x20) 8 x.done
  let s := s.sysPoke (a + 0x28) 1 x.st.code
  let s := s.sysPoke (a + 0x29) 1 x.err
  let s := s.sysPoke (a + 0x2A) 2 x.errcause.toNat
  let s := s.sysPoke (a + 0x2C) 2 (x.pqn.getD 0)
  let s := s.sysPoke (a + 0x30) 8 x.erridx
  s.sysPoke (a + 0x38) 8 x.errinfo.toNat

/-- The queue dispatches or drains. -/
def Queue.live (x : Queue) : Bool := x.st = .idle || x.st = .active || x.st = .draining

/-- A queue enters ERROR (17 R435, R437). -/
def State.queueError (s : State) (ctx q err : Nat) (cause : BitVec 16) (idx : Nat) (info : Word) :
    State :=
  let x := s.queue ctx q
  if x.live then
    let y := { x with st := .error, err := err, errcause := cause, head := none }
    s.putQueue ctx q { y with erridx := idx, errinfo := info }
  else s

/-- A kick of v reaches a queue (17 R433 to R435). -/
def State.kick (s : State) (ctx q v : Nat) : State :=
  let x := s.queue ctx q
  let k := max x.kick v
  let s := s.putQueue ctx q { x with kick := k }
  let y := s.queue ctx q
  if x.live ∧ k - x.cons > 2 ^ x.log then
    let idx := (Config.freeWord s.draws).toNat
    { s with draws := s.draws + 1 }.queueError ctx q 2 0 idx 0
  else if x.st = .idle ∧ k > x.cons then
    s.putQueue ctx q { y with st := .active, since := s.gtc.toNat }
  else s

/-- A write to a kick register: one aligned write of 64 bits, ignored for a TSUB queue (17 R433,
R439). -/
def execKickWrite (pqn : Nat) (v : Word) (bytes : Nat) (s : State) : Result :=
  match s.queueOf pqn with
  | none => .next s
  | some (ctx, q) =>
    if bytes ≠ 8 ∨ (s.queue ctx q).tsub then .next s else .next (s.kick ctx q v.toNat)

/-! ### MSI-X -/

/-- Vector 0 is signalled, or pends while it is masked (17 R429). -/
def State.signalMsix (s : State) : State :=
  if !s.sys.msixOn then s
  else if s.sys.msixMask then { s with sys := { s.sys with msixPend := true } }
  else { s with sent := s.sent ++ [.msix] }

/-- Vector 0 is unmasked: a pending interrupt is signalled once (17 R429). -/
def execMsixUnmask (s : State) : Result :=
  let pend := s.sys.msixPend
  let s := { s with sys := { s.sys with msixMask := false, msixPend := false } }
  .next (if pend then s.signalMsix else s)

/-! ### Registers without behaviour of their own -/

/-- Regions that rings and images may lie in (17 R428, R431, R440). -/
def ringRegion (pa : Nat) : Bool := regionOf pa = 0 || (8 ≤ regionOf pa && regionOf pa ≤ 15)

/-- A write of the command interface (17 R428). -/
def State.writeSys (s : State) (off n : Nat) (v m : Word) : State :=
  if off / 8 * 8 = 0x1000 then
    if m.toNat % 4096 = 0 ∧ ringRegion m.toNat then { s with sys := { s.sys with base := m } } else s
  else if off / 8 * 8 = 0x1008 then
    let l := m.toNat % 16
    if 6 ≤ l ∧ l ≤ 12 then { s with sys := { s.sys with log := l } } else s
  else if off = 0x1010 ∧ n = 8 then
    { s with sys := { s.sys with kick := if s.sys.kick.ult v then v else s.sys.kick } }
  else s

/-- Energy weights change only at a reset or a firmware switch (19 R479). -/
def State.weightsOpen (s : State) : Bool := s.fw.trial || s.ctxs.all fun c => c.2.st = .empty

/-- TJMAX as it was 1 ms before a time: the last value taken by then (log entry 18). -/
def Power.tjBefore (p : Power) (now : Nat) : Byte :=
  (((p.tjs.filter fun x => x.1 + 1000000 ≤ now).getLast?).map Prod.snd).getD 0#8

/-- TJMAX takes a value, and the values of the last 1 ms are kept. -/
def Power.sample (p : Power) (now : Nat) (tj : Byte) : Power :=
  let old := (p.tjs.filter fun x => x.1 + 1000000 ≤ now).getLast?.toList
  { p with tjmax := tj, tjs := old ++ p.tjs.filter (fun x => now < x.1 + 1000000) ++ [(now, tj)] }

/-- Firmware writes a field of the power page (19 R462). -/
def State.writePower (s : State) (off : Nat) (m : Word) : State :=
  let p := s.pow
  let q :=
    if off = 0x3800 then (if s.weightsOpen then { p with ewt0 := m } else p)
    else if off = 0x3808 then (if s.weightsOpen then { p with ewt1 := m } else p)
    else if off = 0x3810 then { p with swt := m.setWidth 16 }
    else if off = 0x3818 then { p with awt := m.setWidth 40 }
    else if 0x3868 ≤ off ∧ off < 0x3890 then
      { p with lvbud := p.lvbud.set ((off - 0x3868) / 8) (m.setWidth 32) }
    else if off = 0x3890 then { p with lmax := m.setWidth 32 }
    else if off = 0x38A8 then p.sample s.gtc.toNat (m.setWidth 8)
    else p
  { s with pow := q }

/-- A write of the outbound window table (17 R443, 18 R461). -/
def State.writeWindow (s : State) (src : RegSrc) (off : Nat) (m : Word) : State :=
  if s.winLock ∧ src ≠ .bar then s
  else
    let i := (off - 0x4000) / 16
    let w := Tab.getD s.windows i (0, 0)
    let w := if off % 16 = 0 then (m &&& ~~~0xFFF#64, w.2) else (w.1, m &&& ~~~0xFFC#64)
    { s with windows := Tab.put s.windows i w }

/-- Ports are masked: streams pinned to them choose anew (18 R457). -/
def State.setMask (s : State) (m : Word) : State :=
  { s with portMask := m,
           ctxs := Tab.mapVal s.ctxs fun _ c => { c with pins := c.pins.filter fun x => !m.getLsbD x.2.2 } }

/-- A write of the Vetar controls (17 R443, 18 R447, R448). -/
def State.writeVetar (s : State) (src : RegSrc) (off : Nat) (m : Word) : State :=
  if off = 0x4108 then (if src = .bar then s.setMask m else s)
  else if off = 0x4110 then
    (if src ≠ .firmware ∧ (s.ports.all fun p => p.2.st = .down) then { s with pkgid := m &&& 0xFFFF00000001FFFF#64 } else s)
  else if 0x4400 ≤ off ∧ off < 0x4600 then
    let p := (off - 0x4400) / 8
    let x := s.port p
    let r := m.toNat % 1024
    if r = 0 ∨ r > 896 ∨ (src = .firmware ∧ r > x.rate) then s else s.putPort p { x with rate := r }
  else if 0x4800 ≤ off ∧ off < 0x4A00 then
    (if src ≠ .firmware then { s with epbase := Tab.put s.epbase ((off - 0x4800) / 8) m } else s)
  else s

/-- Some frame carries CODEC with an index (12 R337). -/
def State.codecUsed (s : State) (cri : Nat) : Bool :=
  s.frames.any fun f => f.2.codec && f.2.cri = cri

/-- The reserved bits of CFG (12 R336): they read zero, and a write to them is ignored (00 R7). -/
def codecReserved : Word := 0x0000F000000FFF0E#64

/-- A write of the codec region table by system software (12 R336, R337, R352). -/
def State.writeCodec (s : State) (off : Nat) (m : Word) : State :=
  let i := (off - 0x2000000) / 64
  let c := Tab.getD s.codec i {}
  let free := !s.codecUsed i
  let c := match off % 64 with
    | 0 => if free then { c with cfg := m &&& ~~~codecReserved } else c
    | 8 => if free then { c with dbase := m } else c
    | 0x10 => if free then { c with nfr := m } else c
    | 0x18 => if free then { c with estore := m } else c
    | 0x20 => { c with acc := m }
    | _ => c
  { s with codec := Tab.put s.codec i c }

/-- A write in the recovery state (01 R37). -/
def State.writeRecovery (s : State) (off n : Nat) (v : Word) : State :=
  if off / 8 * 8 = 8 then
    { s with recov := { s.recov with floff := s.devMerged off n v &&& ~~~0xFFF#64 } }
  else if 0x1000 ≤ off ∧ off + n ≤ 0x2000 then
    let w := Memory.writeEn s.recov.window (off - 0x1000) (bytesOf v.toNat n) (List.replicate n 1)
    { s with recov := { s.recov with window := w } }
  else s

/-- A write of n bytes to a device register without behaviour of its own (17 R427). -/
def execRegisterWrite (src : RegSrc) (off bytes : Nat) (v : Word) (s : State) : Result :=
  let m := s.devMerged off bytes v
  let b := off / 8 * 8
  .next
    (if s.boot = .recovery then (if src = .bar then s.writeRecovery off bytes v else s)
     else if 0x1000 ≤ off ∧ off < 0x2000 then s.writeSys off bytes v m
     else if 0x3800 ≤ off ∧ off < 0x3900 then (if src = .firmware then s.writePower b m else s)
     else if 0x4000 ≤ off ∧ off < 0x4100 then s.writeWindow src b m
     else if 0x4100 ≤ off ∧ off < 0x5000 then s.writeVetar src b m
     else if 0x2000000 ≤ off ∧ off < 0x2400000 then
       (if src = .firmware then s else s.writeCodec b m)
     else s)

/-- The host sets LOCK through BAR 0 (17 R443). -/
def execOutboundLock (s : State) : Result := .next (if s.boot = .recovery then s else { s with winLock := true })

end Sys2Proof.Machine
end

