-- ==== Sys2Proof/Machine/Loader.lean ====
section
/-! DEFINITION. The configuration loader: parsing the kernel descriptor, configuration block, stream
table and drain images (04 R110, R111; 08 R226; 04 R109), and the checks of 04 R112 in their order. -/
namespace Sys2Proof.Machine

/-- Why a load fails, with the items of 04 R112. -/
structure LoadErr where
  cause : Nat
  core : Nat := 0
  slot : Nat := 0
  ring : Nat := 0
  info : Nat := 0

/-- The failure word of `kld` (05 R153). -/
def LoadErr.word (e : LoadErr) : Word :=
  Word.of (2 ^ 63 + e.core % 128 * 2 ^ 56 + e.slot % 16 * 2 ^ 52 + e.ring % 4 * 2 ^ 50
    + e.info % 65536 * 2 ^ 32 + e.cause)

/-! ### The descriptor -/

/-- The fields of a kernel descriptor (04 R110). -/
def parseDesc (r : List Byte) : KDesc :=
  { ii := field r 6 1, stages := field r 7 1, rows := field r 8 1, cols := field r 9 1,
    flags := BitVec.ofNat 8 (field r 0xA 1), prio := field r 0xB 1, restart := field r 0xC 4,
    lc := field r 0x10 8, cfgptr := field r 0x18 8, strmptr := field r 0x20 8,
    drnptr := field r 0x28 8, copyptr := field r 0x30 8, nstrm := field r 0x38 2,
    ncopy := field r 0x3A 1, gslot := (List.range 4).map fun i => BitVec.ofNat 8 (field r (0x3C + i) 1) }

/-- The offset of the first defect of a descriptor (04 R112, first row); a set bit of FLAGS[7:3], which the spec only
calls reserved, is a defect at 0x0A (04 R110; log entry 83). -/
def descDefect (r : List Byte) : Option Nat :=
  let d := parseDesc r
  let within (v lo hi : Nat) : Bool := lo ≤ v && v ≤ hi
  let checks : List (Nat × Bool) :=
    [(0x00, field r 0 4 == 0x4C454E4B), (0x04, field r 4 2 == 1), (0x0A, decide (d.flags.toNat < 8)),
     (0x3B, field r 0x3B 1 == 0)]
    ++ ((List.range 64).map fun i => (0x40 + i, field r (0x40 + i) 1 == 0))
    ++ [(0x06, within d.ii 1 64), (0x07, within d.stages 1 8), (0x08, within d.rows 1 8),
        (0x09, within d.cols 1 16), (0x0B, decide (d.prio ≤ 7)), (0x3A, decide (d.ncopy ≤ 16)),
        (0x18, d.cfgptr % 64 == 0), (0x38, d.nstrm == 0 || d.strmptr != 0),
        (0x3A, d.ncopy == 0 || d.copyptr != 0)]
  (checks.find? fun c => !c.2).map Prod.fst

/-! ### The configuration block -/

/-- The bytes of a slot image (04 R111). -/
def slotImage (cfg : List Byte) (core slot : Nat) : List Byte :=
  (cfg.drop (2048 * core + 128 * slot)).take 128

/-- A slot image with its rings cut to their lengths. -/
def parseSlot (b : List Byte) : SlotCfg :=
  { ops := (List.range (field b 0x78 1)).map fun e => BitVec.ofNat 24 (field b (3 * e) 3),
    routes := (List.range (field b 0x79 1)).map fun e => BitVec.ofNat 16 (field b (0x30 + 2 * e) 2),
    addrs := (List.range (field b 0x7A 1)).map fun e => BitVec.ofNat 16 (field b (0x50 + 2 * e) 2),
    k := fieldW b 0x70, live := BitVec.ofNat 32 (field b 0x7C 4) }

/-- Every slot of a region, cores row-major, slots in page order. -/
def KDesc.sites (d : KDesc) : List (Nat × Nat) :=
  (List.range d.cores).flatMap fun c => (List.range 16).map fun s => (c, s)

/-- A ring length that is out of range or does not divide II, or the reserved byte behind the lengths
(04 R112). -/
def lenDefect (ii : Nat) (b : List Byte) : Option Nat :=
  (List.range 3).find? fun r =>
    let n := field b (0x78 + r) 1
    n = 0 || n > 16 || ii % n ≠ 0

/-- The opcode and the fields of a ring position in cycle t of the schedule (05 R135). -/
def SlotCfg.at_ (c : SlotCfg) (t : Nat) : Nat × OpF :=
  let w := nth c.ops (t % c.ops.length) 0#24
  ((w.extractLsb' 18 6).toNat,
   { pi := w.extractLsb' 14 4, ps := w.getLsbD 13, typ := w.extractLsb' 9 4,
     mod := w.extractLsb' 0 9, route := nth c.routes (t % c.routes.length) 0#16,
     addr := nth c.addrs (t % c.addrs.length) 0#16 })

/-- An op word that its slot may hold (04 R95, R108). -/
def opWordOk (kind : PeKind) (w : BitVec 24) : Bool :=
  let f : OpF :=
    { pi := w.extractLsb' 14 4, ps := w.getLsbD 13, typ := w.extractLsb' 9 4,
      mod := w.extractLsb' 0 9, route := 0, addr := 0 }
  let opc := (w.extractLsb' 18 6).toNat
  (opInstr kind opc f).isSome && opLegal kind opc f

/-- The first defective word of a slot: its ring and entry (04 R95, R99, R100, R108). -/
def wordDefect (ii : Nat) (kind : PeKind) (c : SlotCfg) : Option (Nat × Nat) :=
  let none_ (t : Nat) : Bool := let o := c.at_ t; opResults kind o.1 o.2 = 0
  let uses (n e : Nat) (p : Nat → Bool) : Bool :=
    (List.range ii).any fun t => t % n = e && none_ t && p t
  let op := (List.range c.ops.length).find? fun e => !opWordOk kind (nth c.ops e 0#24)
  let rt := (List.range c.routes.length).find? fun e =>
    uses c.routes.length e fun t => (c.at_ t).2.l0c = 1 || (c.at_ t).2.l1c = 1
  let ad := (List.range c.addrs.length).find? fun e =>
    (kind = .dpe && nth c.addrs e 0#16 ≠ 0#16) || uses c.addrs.length e fun t => (c.at_ t).2.we
  match op, rt, ad with
  | some e, _, _ => some (0, e)
  | none, some e, _ => some (1, e)
  | none, none, some e => some (2, e)
  | none, none, none => none

/-- The first route word that names a neighbour outside the region (01 R20). -/
def edgeDefect (k : Kernel) (core slot : Nat) : Option Nat :=
  let c := k.slotCfg core slot
  (List.range c.routes.length).find? fun e =>
    let w := nth c.routes e 0#16
    [(w.extractLsb' 12 4).toNat, (w.extractLsb' 8 4).toNat, (w.extractLsb' 4 4).toNat].any fun s =>
      isNeighbour s && (k.neighbour core slot (sourceDir s).1 (sourceDir s).2).isNone

/-- The writes of a cycle of the schedule: port (0 and 1 the latches, 2 the RRF) and landing cycle
modulo II (04 R101). -/
def portWrites (ii : Nat) (kind : PeKind) (c : SlotCfg) (t : Nat) : List (Nat × Nat) :=
  let (opc, f) := c.at_ t
  let land := (t + opLatency kind opc f - 1) % ii
  let latch (p code : Nat) : List (Nat × Nat) :=
    if code = 0 then [] else if code = 1 then [(p, land)] else [(p, t)]
  (if f.we then [(2, land)] else []) ++ latch 0 f.l0c ++ latch 1 f.l1c

/-- The first colliding cycle of a slot (04 R101). -/
def collision (ii : Nat) (kind : PeKind) (c : SlotCfg) : Option Nat :=
  let ws := (List.range ii).flatMap (portWrites ii kind c)
  (List.range ii).find? fun t =>
    (List.range 3).any fun p => (ws.filter (· = (p, t))).length > 1

/-- The first op whose latency exceeds 24 (04 R102). -/
def slowOp (ii : Nat) (kind : PeKind) (c : SlotCfg) : Option Nat :=
  ((List.range ii).find? fun t => let o := c.at_ t; opLatency kind o.1 o.2 > 24).map
    (· % c.ops.length)

/-! ### The stream table -/

/-- Bit i of SWZM's pair fields (08 R233). -/
def swzPairs (m : Word) : List (Nat × Nat) :=
  (List.range 4).filterMap fun q =>
    if m.getLsbD (16 * q + 15) then
      some ((m.extractLsb' (16 * q + 8) 6).toNat, (m.extractLsb' (16 * q) 6).toNat)
    else none

/-- A swizzle mask is valid (08 R233). -/
def swzOk (m : Word) : Bool :=
  let ps := swzPairs m
  (m &&& 0x40C040C040C040C0#64) == 0#64
    && (ps.all fun p => 6 ≤ p.1 && p.1 ≤ 56 && p.2 ≤ 56)
    && (ps.map Prod.fst).eraseDups.length = ps.length
    && ps.all fun p => !(ps.map Prod.fst).contains p.2

/-- The map of a logical byte offset (08 R233). -/
def swizzle (m : Word) (o : Nat) : Nat :=
  (swzPairs m).foldl (fun v p => if o.testBit p.2 then v ^^^ 2 ^ p.1 else v) o

/-- The fields of a stream descriptor (08 R226). -/
def parseStream (r : List Byte) : StreamDesc :=
  { core := field r 0 1, mpe := (BitVec.ofNat 8 (field r 1 1)).getLsbD 0, strm := field r 2 1,
    kind := (if field r 3 1 = 2 then .indexed else if field r 3 1 = 3 then .unfold else .affine),
    store := field r 4 1 = 2, wlog := field r 5 1,
    deliv := (match field r 6 1 with | 1 => .bq8 | 2 => .bq16 | 3 => .f32 | 4 => .i32 | _ => .raw),
    swz := field r 7 1 % 2 = 1, vmask := field r 7 1 / 2 % 2 = 1, base := field r 8 8,
    pref := field r 0x10 4, ret := field r 0x14 4, esz := field r 0x18 1, mdiv := field r 0x1A 2,
    swzm := fieldW r 0x20, mbase := field r 0x28 8,
    bounds := (List.range 4).map fun i => field r (0x30 + 4 * i) 4,
    strides := (List.range 4).map fun i => sx (field r (0x40 + 8 * i) 8) 64,
    ih := field r 0x60 2, iw := field r 0x62 2, ch := field r 0x64 2, kh := field r 0x66 1,
    kw := field r 0x67 1, sh := field r 0x68 1, sw := field r 0x69 1, ph := field r 0x6A 1,
    pw := field r 0x6B 1, oh := field r 0x6C 2, ow := field r 0x6E 2 }

/-- Bytes of a fold group of a delivered form (08 R228, R254). -/
def groupBytes : Deliv → Nat
  | .bq8 => 2048 | .bq16 => 1024 | _ => 64

/-- A stream descriptor is valid on its own (08 R226, R228, R233). R234 allows an INDEXED stream element sizes 4 and 8
only and names no cause for others: they are rejected here (DESIGN CHOICE, log entry 92). -/
def streamOk (r : List Byte) : Bool :=
  let d := parseStream r
  let kind := field r 3 1
  field r 1 1 ≤ 1 && d.strm ≤ 11 && 1 ≤ kind && kind ≤ 3 && 1 ≤ field r 4 1 && field r 4 1 ≤ 2
    && 12 ≤ d.wlog && d.wlog ≤ 19 && field r 6 1 ≤ 4 && field r 7 1 ≤ 3
    && field r 0x19 1 = 0 && field r 0x1C 4 = 0 && zeroBytes r 0x70 0x80
    && d.base % 64 = 0 && [0, 1, 2, 4, 8].contains d.esz && !(kind = 3 && d.store)
    && d.pref ≠ 0 && d.pref % groupBytes d.deliv = 0 && d.pref + d.ret ≤ 2 ^ d.wlog
    && (if d.swz then swzOk d.swzm else d.swzm == 0#64)
    && (if d.vmask then d.mdiv ≠ 0 && d.mbase % 8 = 0 else d.mdiv = 0 && d.mbase = 0)
    && (match d.kind with
      | .affine => d.bounds.all (· ≠ 0) && zeroBytes r 0x60 0x70
      | .indexed =>
        nth d.bounds 0 0 ≠ 0 && zeroBytes r 0x34 0x70 && [0, 4, 8].contains d.esz
      | .unfold =>
        zeroBytes r 0x30 0x60 && [d.ih, d.iw, d.ch, d.kh, d.kw, d.sh, d.sw, d.oh, d.ow].all (· ≠ 0))

/-- The direction, if any, and the kinds of stream that an MPE op needs, and whether its TYP follows
the delivery (08 R246). -/
def mpeNeeds (opc : Nat) : Option (Option Bool × List StreamKind × Bool) :=
  match opc with
  | 0x01 => some (some false, [.affine], true)
  | 0x02 => some (some false, [.affine, .unfold], true)
  | 0x03 | 0x04 => some (some true, [.affine], true)
  | 0x05 => some (some false, [.indexed], true)
  | 0x06 => some (some true, [.indexed], true)
  | 0x09 => some (some false, [.unfold], true)
  | 0x0C => some (none, [.affine, .unfold], false)
  | 0x0D => some (some false, [.affine, .indexed, .unfold], false)
  | 0x0A | 0x0E | 0x0F => some (none, [.affine, .indexed, .unfold], false)
  | _ => none

/-- A type selector suits a delivered form (08 R246). -/
def delivType (d : StreamDesc) (ty : Nat) : Bool :=
  match d.deliv with
  | .raw => ty = 0 || (typeWidth ty ≠ 0 && (d.esz = 0 || typeWidth ty = 8 * d.esz))
  | .bq8 | .bq16 => ty = 0xB
  | .f32 => ty = 9
  | .i32 => ty = 5 || ty = 6

/-- PART of an `ld` suits a delivered form (08 R247). -/
def partOk (d : StreamDesc) (f : OpF) : Bool :=
  f.modBits 1 0 = 0 || d.deliv = .bq8 || (d.deliv = .bq16 && f.modBits 1 0 = 1)

/-- The stream that an op of a slot names: MPE and index (08 R246, 09 R279). -/
def namedStream (slot opc : Nat) (f : OpF) : Option (Bool × Nat) :=
  match slotKind slot with
  | .mpe => (mpeNeeds opc).map fun _ => (slot = 3, f.stream)
  | .dpe => if opc = 0x12 ∧ 5 ≤ f.modBits 2 0 then some (f.mod.getLsbD 4, f.stream) else none
  | _ => none

/-- A stream suits the op that names it (08 R228, R246, R247; 09 R280). -/
def streamSuits (d : StreamDesc) (slot opc : Nat) (f : OpF) : Bool :=
  match slotKind slot with
  | .dpe => !d.store && d.kind = .affine && d.deliv = .raw && d.esz = 1
  | _ =>
    match mpeNeeds opc with
    | some (dir, kinds, typed) =>
      dir.all (· = d.store) && kinds.contains d.kind && (!typed || delivType d f.ty)
        && (opc ≠ 1 || partOk d f)
    | none => true

/-- Ops of a slot, one for each entry of its op ring. -/
def SlotCfg.ringOps (c : SlotCfg) : List (Nat × OpF) := (List.range c.ops.length).map c.at_

/-- Entries of the stream table that are invalid, as core, slot and stream (08 R228). No rule gives the cause of a
STRMPTR that is not 64-byte aligned: it makes the first entry invalid (DESIGN CHOICE, log entry 92). -/
def tableDefects (d : KDesc) (rs : List (List Byte)) : List (Nat × Nat × Nat) :=
  let ds := rs.map parseStream
  (List.range rs.length).filterMap fun i =>
    let x := parseStream (nth rs i [])
    let before := ds.take i
    let same : Bool := before.any fun y => y.core = x.core && y.mpe = x.mpe && y.strm = x.strm
    let win : Nat := ((ds.take (i + 1)).filter fun y => y.core = x.core).foldl (fun n y => n + 2 ^ y.wlog) 0
    if d.strmptr % 64 ≠ 0 ∨ x.core ≥ d.cores ∨ same ∨ !streamOk (nth rs i []) ∨ win > 2 ^ 20 then
      some (x.core, (if x.mpe then 3 else 0), x.strm)
    else none

/-- Ops that name a stream which does not suit them, as core, slot and stream (08 R228). -/
def opDefects (k : Kernel) : List (Nat × Nat × Nat) :=
  k.desc.sites.flatMap fun (c, s) =>
    (k.slotCfg c s).ringOps.filterMap fun (opc, f) =>
      match namedStream s opc f with
      | none => none
      | some (m, st) =>
        if (k.strm? (streamKey c m st)).any fun d => streamSuits d s opc f then none
        else some (c, s, st)

/-- The least of some defects: cores row-major, slots in page order, then the stream. -/
def leastDefect (xs : List (Nat × Nat × Nat)) : Option (Nat × Nat × Nat) :=
  let key (x : Nat × Nat × Nat) : Nat := x.1 * 65536 + x.2.1 * 256 + x.2.2
  xs.foldl (fun o x => match o with
    | none => some x
    | some y => if key x < key y then some x else some y) none

/-! ### Conversions routed through `d` (09 R281) -/

/-- The latch that a source code reads: core, slot and latch. -/
def Kernel.latchOf (k : Kernel) (core slot code : Nat) : Option (Nat × Nat × Bool) :=
  if code = 12 then some (core, slot, false)
  else if code = 13 then some (core, slot, true)
  else if isNeighbour code then
    (k.neighbour core slot (sourceDir code).1 (sourceDir code).2).map fun p => (p.1, p.2, 8 ≤ code)
  else none

/-- The write of a latch that a reader in cycle t sees, as issue cycle, latch control and landing:
the latest that lands before t, cyclically (09 R281). -/
def Kernel.latchWrite (k : Kernel) (core slot : Nat) (l1 : Bool) (t : Nat) : Option (Nat × Nat) :=
  let c := k.slotCfg core slot
  let ii := k.desc.ii
  let control (u : Nat) : Nat := let f := (c.at_ u).2; if l1 then f.l1c else f.l0c
  let land (u : Nat) : Nat :=
    let o := c.at_ u
    if control u = 1 then (u + opLatency (slotKind slot) o.1 o.2 - 1) % ii else u
  let age (u : Nat) : Nat := (t + 2 * ii - 1 - land u) % ii
  let us := (List.range ii).filter fun u => control u ≠ 0
  (us.foldl (fun o u => match o with
    | none => some u
    | some v => if age u < age v then some u else some v) none).map fun u => (u, control u)

/-- An operand read in cycle t comes from a `dcvs` of `d` with TGT 0 to 4, through relays (09 R281): the
target of the conversion. A trace longer than the number of latch writes has come back on itself. -/
def Kernel.traceCvt (k : Kernel) : Nat → Nat → Nat → Nat → Nat → Option Nat
  | 0, _, _, _, _ => none
  | fuel + 1, core, slot, code, t =>
    match k.latchOf core slot code with
    | none => none
    | some (c, s, l1) =>
      match k.latchWrite c s l1 t with
      | none => none
      | some (u, ctl) =>
        let (opc, f) := (k.slotCfg c s).at_ u
        if s = 15 ∧ ctl = 1 ∧ opc = 0x12 ∧ f.modBits 2 0 ≤ 4 then some (f.modBits 2 0)
        else if ctl = 2 ∧ opc = 0 then k.traceCvt fuel c s (if l1 then f.sb else f.sa) u
        else none

/-- Steps that a trace may take: one for each latch write of the schedule. -/
def Kernel.traceFuel (k : Kernel) : Nat := 32 * k.desc.cores * k.desc.ii + 1

/-- The source code of the data operand of a store op: B for `stx`, else A. -/
def dataSource (opc : Nat) (f : OpF) : Nat := if opc = 0x06 then f.sb else f.sa

/-- The first `st`, `stk` or `stx` on a stream of ESZ 0 whose data does not come from `d`: its core and
stream (09 R281). -/
def cvtDefect (k : Kernel) : Option (Nat × Nat) :=
  (k.desc.sites.flatMap fun (c, s) => (List.range k.desc.ii).map fun t => (c, s, t)).findSome?
    fun (c, s, t) =>
      let (opc, f) := (k.slotCfg c s).at_ t
      if slotKind s = .mpe ∧ (opc = 3 ∨ opc = 4 ∨ opc = 6)
          ∧ ((k.strm? (streamKey c (s = 3) f.stream)).any fun d => d.store && d.esz = 0)
          ∧ (k.traceCvt k.traceFuel c s (dataSource opc f) t).isNone then some (c, f.stream)
      else none

/-! ### Drain programs (04 R109, 09 R262) -/

/-- The words of a drain image. -/
def parseDrain (b : List Byte) : List (BitVec 32) :=
  (List.range 32).map fun i => BitVec.ofNat 32 (field b (4 * i) 4)

/-- Streams named by the op rings of a core. -/
def Kernel.namedByOps (k : Kernel) (core : Nat) (m : Bool) (st : Nat) : Bool :=
  (List.range 16).any fun s => (k.slotCfg core s).ringOps.any fun (opc, f) =>
    namedStream s opc f = some (m, st)

/-- The stream of a drain word has the kind and direction that it needs, and no op names it
(09 R262, R267, R269). -/
def Kernel.drainStream (k : Kernel) (core : Nat) (m : Bool) (st : Nat) (store : Bool) : Bool :=
  (k.strm? (streamKey core m st)).any (fun d =>
      d.kind = .affine && d.store = store && (!store || d.deliv = .raw))
    && !k.namedByOps core m st

/-- A word of a drain program may stand there (09 R262). -/
def Kernel.drainWordOk (k : Kernel) (core : Nat) (w : BitVec 32) : Bool :=
  match decodeDrain? w with
  | some (.dldStream _ m st) => k.drainStream core m st.toNat false
  | some (.dst _ _ m st) => k.drainStream core m st.toNat true
  | some _ => true
  | none => false

/-- The opcode of a drain word is assigned (04 R107). -/
def drainOpc (w : BitVec 32) : Bool :=
  let o := (w.extractLsb' 26 6).toNat
  1 ≤ o && o ≤ 0x13

/-- The check of a program's words in order: the place of `dloop`, whether the beat `dld` and `dmax.grp` have been met.
An unassigned opcode is reported ahead of the other defects of its word, at slot 15, ring 0 and the index of the word, a
place that the spec does not give (04 R107; log entry 82). -/
def Kernel.drainScan (k : Kernel) (core : Nat) : Nat → Option Nat → Bool → Bool → List (BitVec 32) →
    Option LoadErr
  | _, _, _, _, [] => none
  | i, loop, beat, grp, w :: ws =>
    let bad : Option LoadErr := some { cause := 0x0508, core := core, info := i }
    if !drainOpc w then some { cause := 0x0501, core := core, slot := 15, info := i }
    else if !k.drainWordOk core w then bad
    else
      match decodeDrain? w with
      | some .dend => if loop.isNone ∨ !beat then bad else none
      | some (.dloop _) =>
        if loop.isSome then bad else k.drainScan core (i + 1) (some i) beat grp ws
      | some (.dld _) =>
        if loop.isNone ∨ beat ∨ i - 1 > 15 then bad else k.drainScan core (i + 1) loop true grp ws
      | some (.dmaxGrp ..) =>
        if !beat ∨ grp then bad else k.drainScan core (i + 1) loop beat true ws
      | _ => k.drainScan core (i + 1) loop beat grp ws

/-- A drain program's first defect (04 R109, 09 R262). -/
def Kernel.drainDefect (k : Kernel) (core : Nat) (ws : List (BitVec 32)) : Option LoadErr :=
  if ws.any fun w => (w.extractLsb' 26 6) = 0x0D#6 then k.drainScan core 0 none false false ws
  else some { cause := 0x0508, core := core, info := 0xFFFF }

/-! ### LIVE -/

/-- A LIVE bit that may not be set (04 R112). -/
def liveDefect (slot : Nat) (c : SlotCfg) : Bool :=
  if slot = 15 then c.live ≠ 0#32
  else
    let wr := (c.addrs.filter (·.getLsbD 0)).map fun a => (a.extractLsb' 1 5).toNat
    let rot := wr.any (8 ≤ ·)
    (List.range 32).any fun n => c.live.getLsbD n && !(if n < 8 then wr.contains n else rot)

/-! ### The load -/

/-- The first site of a region at which a check finds a defect. -/
def Kernel.firstAt (k : Kernel) (f : Nat → Nat → Option LoadErr) : Option LoadErr :=
  k.desc.sites.findSome? fun (c, s) => f c s

/-- The checks of rings, routes and schedule (04 R112, rows 3 to 6). -/
def Kernel.ringDefect (k : Kernel) : Option LoadErr :=
  let ii := k.desc.ii
  (k.firstAt fun c s => (wordDefect ii (slotKind s) (k.slotCfg c s)).map fun (r, e) =>
      { cause := 0x0501, core := c, slot := s, ring := r, info := e })
  <|> (k.firstAt fun c s => (edgeDefect k c s).map fun e =>
      { cause := 0x0502, core := c, slot := s, info := e })
  <|> (k.firstAt fun c s => (collision ii (slotKind s) (k.slotCfg c s)).map fun t =>
      { cause := 0x0503, core := c, slot := s, info := t })
  <|> (k.firstAt fun c s => (slowOp ii (slotKind s) (k.slotCfg c s)).map fun e =>
      { cause := 0x0504, core := c, slot := s, info := e })

/-- The checks of streams, conversions, drain programs and LIVE (04 R112, rows 7 to 10). -/
def Kernel.tableDefect (k : Kernel) (rs : List (List Byte)) (drains : List (List (BitVec 32))) :
    Option LoadErr :=
  ((leastDefect (tableDefects k.desc rs ++ opDefects k)).map fun (c, s, st) =>
      { cause := 0x0509, core := c, slot := s, info := st })
  <|> ((cvtDefect k).map fun (c, st) => { cause := 0x0507, core := c, info := st })
  <|> ((List.range drains.length).findSome? fun c => k.drainDefect c (nth drains c []))
  <|> (k.firstAt fun c s => if liveDefect s (k.slotCfg c s) then
      some { cause := 0x050A, core := c, slot := s } else none)

/-- Records of a size at consecutive addresses. -/
def records (b : List Byte) (size : Nat) : Nat → List (List Byte)
  | 0 => []
  | n + 1 => b.take size :: records (b.drop size) size n

/-- A kernel read and checked from its descriptor's address, or why the load fails (04 R112,
05 R153). -/
def State.readKernel (s : State) (ctx clu a : Nat) (own : Option Nat := none) : Rd (Except LoadErr Kernel) :=
  if a % 64 ≠ 0 then .ok (.error { cause := 0x0506 }) s
  else (s.readRecord ctx clu a 128 own).bind fun r s =>
    match descDefect r with
    | some o => .ok (.error { cause := 0x0506, info := o }) s
    | none =>
      let d := parseDesc r
      (s.readRecord ctx clu d.cfgptr (2048 * d.cores) own).bind fun cfg s =>
        match d.sites.findSome? fun (c, sl) => (lenDefect d.ii (slotImage cfg c sl)).map fun r =>
            ({ cause := 0x0505, core := c, slot := sl, ring := r } : LoadErr) with
        | some e => .ok (.error e) s
        | none =>
          let cs := d.sites.map fun (c, sl) => parseSlot (slotImage cfg c sl)
          let k : Kernel := { desc := d, cfg := cs, lc := d.lc, cluster := clu }
          match k.ringDefect with
          | some e => .ok (.error e) s
          | none =>
            (s.readRecord ctx clu d.strmptr (128 * d.nstrm) own).bind fun sb s =>
              let rs := records sb 128 d.nstrm
              let k := { k with strms := rs.map parseStream }
              let nd := if d.drnptr = 0 then 0 else d.cores
              (s.readRecord ctx clu d.drnptr (128 * nd) own).bind fun db s =>
                match k.tableDefect rs ((records db 128 nd).map parseDrain) with
                | some e => .ok (.error e) s
                | none => .ok (.ok k) s

end Sys2Proof.Machine
end

