-- ==== Sys2Proof/Machine/Format.lean ====
section
/-! DEFINITION. Element formats on engine paths: format descriptors (02 R55 to R58), the bytes and
the scale of an element (R56, R57, 08 R233), decoding (R60 to R62), block alignment (R64) and the
delivered forms (R67), shared by streams (08) and copy engines (10). -/
namespace Sys2Proof.Machine

/-! ### Reads one after another -/

/-- A list of reads, one after another. -/
def Rd.mapM {α β : Type} (f : State → α → Rd β) : List α → State → Rd (List β)
  | [], s => .ok [] s
  | a :: as, s => (f s a).bind fun b s => (Rd.mapM f as s).bind fun bs s => .ok (b :: bs) s

/-! ### Descriptors -/

/-- A format descriptor (02 R55). -/
structure FmtDesc where
  efmt : Nat := 0
  geom : Nat := 0
  splace : Nat := 0
  pitch : Nat := 0
  tbase : Nat := 0
  sbase : Nat := 0
deriving DecidableEq, Repr

/-- The descriptor that 256 bits hold. -/
def FmtDesc.parse (v : Nat) : FmtDesc :=
  { efmt := bitsOf v 35 32, geom := bitsOf v 43 40, splace := bitsOf v 47 44,
    pitch := bitsOf v 103 80, tbase := bitsOf v 184 128, sbase := bitsOf v 248 192 }

/-- The descriptor of a format index in a context's table; descriptor 0 is RAW (02 R55). -/
def State.fmtDesc (s : State) (ctx idx : Nat) : FmtDesc :=
  if idx = 0 then {} else FmtDesc.parse (s.peek ((s.ctx ctx).obj.fmttab + 32 * idx) 32)

/-- A descriptor in memory that a poisoned or failed place spoils: the cause with its information (13 R378). -/
def State.fmtError (s : State) (ctx idx : Nat) : Option (BitVec 16 × Nat) :=
  if idx = 0 then none else s.readError ((s.ctx ctx).obj.fmttab + 32 * idx) 32

/-- The width of a scale block (02 R57). -/
def FmtDesc.block (d : FmtDesc) : Nat := if d.geom = 1 then 32 else if d.geom = 3 then 1 else 16

/-- A descriptor is valid (02 R58). -/
def FmtDesc.ok (d : FmtDesc) : Bool :=
  d.efmt ≤ 0xC && d.splace ≤ 1
    && (d.splace = 0 || (5 ≤ d.efmt && d.efmt ≤ 0xA && d.geom ≤ 3 && d.tbase % 64 = 0
      && d.sbase % 4 = 0 && d.pitch ≠ 0 && d.pitch % d.block = 0 && (d.efmt ≠ 6 || d.pitch % 4 = 0)))

/-- The page format that a leaf names (08 R227). -/
def State.pageFmt (s : State) (ctx : Nat) (leaf : Word) : PageFmt :=
  if leafCodec leaf then { idx := leafFmt leaf, codec := true, efmt := 0 }
  else { idx := leafFmt leaf, codec := false, efmt := (s.fmtDesc ctx (leafFmt leaf)).efmt }

/-- Bits of an element of a page format, with the element size in bytes of a RAW page. -/
def PageFmt.bits (f : PageFmt) (esz : Nat) : Nat :=
  if f.codec then 64 else if f.efmt = 0 then 8 * esz else efmtBits f.efmt

/-- An element size suits a page (08 R229, 10 R284). -/
def PageFmt.eszOk (f : PageFmt) (esz : Nat) : Bool :=
  if f.codec then esz = 0 || esz = 8 else if f.efmt = 0 then esz ≠ 0 else esz = 0

/-- The element format that decoding follows: FP64 on a codec page. -/
def PageFmt.code (f : PageFmt) : Nat := if f.codec then 0xC else f.efmt

/-- The float format of an element format (02 R56). -/
def efmtFloat : Nat → Option Fmt
  | 5 => some .t8 | 6 => some .t6 | 7 => some .e4m3 | 8 => some .e5m2 | 9 => some .bf16
  | 0xA => some .f16 | 0xB => some .f32 | 0xC => some .f64 | _ => none

/-- An integer element format is signed. -/
def efmtSigned (f : Nat) : Bool := f = 1 || f = 3

/-- The value of an element (02 R60). -/
def decodeElem (f c : Nat) : Val :=
  match efmtFloat f with
  | some g => g.dec c
  | none => Val.ofInt (readInt (efmtSigned f) c (efmtBits f))

/-- A decoded value under a scale (02 R61, R62). -/
def valScaled (v sc : Val) : Val := if sc.isNan || sc.isInf then .nan else v.mul sc

/-! ### Where an element lies -/

/-- The bytes of an element of some bits at an element offset, as virtual addresses, and the bit at
which it begins (02 R56, 08 R231, R233). -/
def elemBytes (base bits : Nat) (sw : Option Word) (o : Int) : List Nat × Nat :=
  let at_ (b : Int) : Nat :=
    let off := lowBits b 64
    (base + (match sw with | some m => swizzle m off | none => off)) % 2 ^ 64
  if bits = 6 then
    let bit := 6 * o
    ((List.range ((bit % 8 + 5) / 8 + 1).toNat).map fun (i : Nat) => at_ (bit / 8 + (i : Nat)), (bit % 8).toNat)
  else
    let n := bits / 8
    ((List.range n).map fun i => (at_ (n * o) + i) % 2 ^ 64, 0)

/-- The address of an element before the swizzle, for its scale (02 R57; log entry 40). -/
def elemAddr (base bits : Nat) (o : Int) : Int := base + bits * o / 8

/-- The address of the scale of an element at an address; none when its offset is negative
(02 R57, R58). -/
def FmtDesc.scaleAddr (d : FmtDesc) (a : Int) : Option Nat :=
  let t := (a - d.tbase) * 8 / efmtBits d.efmt
  if t < 0 then none
  else
    let row := t.toNat / d.pitch
    let col := t.toNat % d.pitch
    let idx :=
      if d.geom = 0 then row * (d.pitch / 16) + col / 16
      else if d.geom = 1 then row * (d.pitch / 32) + col / 32
      else if d.geom = 2 then row / 16 * (d.pitch / 16) + col / 16
      else 0
    some (d.sbase + 4 * idx)

/-! ### Reading bytes through translation -/

/-- An engine's translation; a window onto another package refuses it (18 R452). With a page format,
the page must carry its index (08 R240, 10 R284). -/
def State.engXlate (s : State) (ctx clu va : Nat) (a : Acc) (fmt : Option PageFmt) : Rd (Nat × Word) :=
  match s.hostXlate ctx clu va a with
  | .miss c v => .bad c v
  | .hit pa leaf t =>
    if fmt.any fun f => f.idx ≠ leafFmt leaf || f.codec ≠ leafCodec leaf then
      .bad 0x0120#16 (leafFmt leaf)
    else .ok (pa, leaf) t

/-- One byte of a context; bytes already taken by virtual address prevail (08 R236). -/
def State.engByte (s : State) (ctx clu : Nat) (fmt : Option PageFmt) (near : List (Nat × Nat))
    (va : Nat) : Rd Nat :=
  (s.engXlate ctx clu va .read fmt).bind fun p s =>
    match near.find? fun e => e.1 = va with
    | some e => .ok e.2 s
    | none =>
      match s.readError p.1 1 with
      | some (c, i) => .bad c i
      | none => let (v, s) := s.loadAny p.1 1; .ok v s

/-- A little-endian value of some bytes; a device register is read by one access (17 R427, 19 R482). -/
def State.engRead (s : State) (ctx clu : Nat) (fmt : Option PageFmt) (near : List (Nat × Nat))
    (vas : List Nat) : Rd Nat :=
  let bytes := (Rd.mapM (fun s va => s.engByte ctx clu fmt near va) vas s).bind fun bs s => .ok (ofBytes bs) s
  match s.engXlate ctx clu (vas.headD 0) .read fmt with
  | .ok p t => if vas ≠ [] ∧ regionOf p.1 = 3 then let (v, t) := t.loadAny p.1 vas.length; .ok v t else bytes
  | .bad _ _ => bytes

/-- The format of the page that holds an address (08 R227, 10 R284). -/
def State.baseFmt (s : State) (ctx clu va : Nat) (a : Acc) : Rd (PageFmt × Nat) :=
  (s.engXlate ctx clu va a none).bind fun p s =>
    match (if leafCodec p.2 then none else s.fmtError ctx (leafFmt p.2)) with
    | some (c, i) => .bad c i
    | none => .ok (s.pageFmt ctx p.2, p.1) s

/-- The bits of the element at an offset. -/
def State.elemRaw (s : State) (ctx clu : Nat) (fmt : PageFmt) (near : List (Nat × Nat))
    (base bits : Nat) (sw : Option Word) (o : Int) : Rd Nat :=
  let (vas, sh) := elemBytes base bits sw o
  (s.engRead ctx clu (some fmt) near vas).bind fun v s => .ok (v / 2 ^ sh % 2 ^ bits) s

/-- The decoded and scaled value of the element at an offset (02 R57 to R62). -/
def State.elemVal (s : State) (ctx clu : Nat) (fmt : PageFmt) (near : List (Nat × Nat))
    (base bits : Nat) (sw : Option Word) (o : Int) : Rd Val :=
  let d := s.fmtDesc ctx fmt.idx
  match (if fmt.codec then none else s.fmtError ctx fmt.idx) with
  | some (c, i) => .bad c i
  | none =>
  if !fmt.codec && !d.ok then .bad 0x0120#16 fmt.idx
  else (s.elemRaw ctx clu fmt near base bits sw o).bind fun c s =>
    if fmt.codec ∨ d.splace = 0 then .ok (decodeElem fmt.code c) s
    else
      let a := elemAddr base bits o
      match d.scaleAddr a with
      | none => .bad 0x0121#16 (lowBits a 64)
      | some sa =>
        (s.engRead ctx clu none near ((List.range 4).map fun i => sa + i)).bind fun sc s =>
          .ok (valScaled (decodeElem fmt.code c) (Fmt.f32.dec sc)) s

/-- The virtual addresses that reading an element touches, its scale among them. -/
def State.elemVas (s : State) (ctx : Nat) (fmt : PageFmt) (decode : Bool) (base bits : Nat)
    (sw : Option Word) (o : Int) : List Nat :=
  let d := s.fmtDesc ctx fmt.idx
  (elemBytes base bits sw o).1 ++
    (if !decode ∨ fmt.codec ∨ d.splace = 0 ∨ !d.ok then []
     else match d.scaleAddr (elemAddr base bits o) with
       | some sa => (List.range 4).map fun i => sa + i
       | none => [])

/-! ### Block alignment (02 R64) -/

/-- The binade of a finite non-zero value. -/
def valBinade : Val → Int
  | .fin _ m e => m.log2 + e
  | _ => 0

/-- A value divided by 2^E and rounded to the nearest integer, ties to even. -/
def valOver (v : Val) (e : Int) : Int :=
  match v with
  | .fin neg m x => roundInt .rne neg m (x - e)
  | _ => 0

/-- A block aligned: its exponent and its integers (02 R64). -/
def alignBlock (vs : List Val) (p : Nat) : Int × List Int :=
  if vs.any fun v => v.isNan || v.isInf then (-32768, vs.map fun _ => 0)
  else
    let nz := vs.filter fun v => !v.isZero
    match nz with
    | [] => (0, vs.map fun _ => 0)
    | v :: _ =>
      let emax := nz.foldl (fun m w => max m (valBinade w)) (valBinade v)
      let e := emax - (p - 1)
      let q := vs.map (valOver · e)
      if q.any fun x => x.natAbs ≥ 2 ^ p then (e + 1, vs.map (valOver · (e + 1))) else (e, q)

end Sys2Proof.Machine
end

