-- ==== Sys2Proof/Machine/Launch.lean ====
section
/-! DEFINITION. Copy launch records (10 R283 to R285): parsing, validity, the beats of timed entries
(R300), and taking an engine (R306). -/
namespace Sys2Proof.Machine

/-! ### Fields -/

/-- A buffer descriptor (10 R284). -/
def parseBuf (r : List Byte) : Buf :=
  let fl := BitVec.ofNat 8 (field r 9 1)
  { base := field r 0 8, esz := field r 8 1, swz := fl.getLsbD 0, shadow := fl.getLsbD 1,
    bounded := fl.getLsbD 2, index := fl.getLsbD 3, ixb := field r 0xA 1, nrow := field r 0xC 4,
    pitch := field r 0x10 4, ncol := field r 0x14 4, swzm := fieldW r 0x18, mbase := field r 0x20 8,
    shandle := field r 0x28 8 }

/-- The bytes of a buffer descriptor of a record. -/
def bufBytes (r : List Byte) (i : Nat) : List Byte := (r.drop (0x40 + 64 * i)).take 64

/-- A launch record (10 R283). -/
def parseLaunch (r : List Byte) : Launch :=
  { nent := field r 6 2, entptr := field r 8 8, timed := field r 0x10 1 % 2 = 1,
    repeat_ := field r 0x14 4, tperiod := field r 0x20 4, statptr := field r 0x28 8,
    bufs := (List.range 16).map fun i => parseBuf (bufBytes r i),
    ctrs := (List.range 16).map fun i => field r (0x440 + 8 * i) 8 }

/-- A buffer of a launch record. -/
def Launch.buf (l : Launch) (i : Nat) : Buf := nth l.bufs i {}

/-! ### Validity (10 R285) -/

/-- The checks of a buffer, each with the offset of its field (10 R285). -/
def bufChecks (bs : List Buf) (i : Nat) (r : List Byte) : List (Nat × Bool) :=
  let b := parseBuf r
  let named : Bool := bs.any fun c => c.index && c.ixb = i
  [(0x00, b.base % 64 == 0), (0x08, [0, 1, 2, 4, 8].contains b.esz), (0x09, decide (field r 9 1 < 16)),
   (0x0A, if b.index then b.ixb != i && !(nth bs b.ixb {}).index else b.ixb == 0),
   (0x0B, field r 0xB 1 == 0), (0x10, !(b.bounded || named) || b.pitch != 0),
   (0x14, decide (b.ncol ≤ b.pitch)),
   (0x18, if b.swz then swzOk b.swzm else b.swzm == 0#64), (0x20, b.mbase % 8 == 0),
   (0x28, b.shadow || b.shandle == 0), (0x30, zeroBytes r 0x30 0x40)]

/-- The checks of the record's own fields, in order of their offsets. -/
def launchChecks (r : List Byte) : List (Nat × Bool) :=
  let l := parseLaunch r
  let within (v lo hi : Nat) : Bool := lo ≤ v && v ≤ hi
  [(0x000, field r 0 4 == 0x4C435043), (0x004, field r 4 2 == 1), (0x006, within l.nent 1 1024),
   (0x008, l.entptr % 64 == 0), (0x010, decide (field r 0x10 1 < 2)), (0x011, field r 0x11 3 == 0),
   (0x014, l.repeat_ != 0),
   (0x018, if l.timed then field r 0x18 8 % 4 == 0 else field r 0x18 8 == 0),
   (0x020, l.timed || l.tperiod == 0), (0x024, field r 0x24 4 == 0), (0x028, l.statptr % 64 == 0),
   (0x030, zeroBytes r 0x30 0x40)]
  ++ ((List.range 16).flatMap fun i =>
      (bufChecks l.bufs i (bufBytes r i)).map fun c => (0x40 + 64 * i + c.1, c.2))
  ++ ((List.range 16).map fun i => (0x440 + 8 * i, nth l.ctrs i 0 % 8 == 0))
  ++ [(0x4C0, zeroBytes r 0x4C0 0x500)]

/-- The offset of the first defect of a record's own fields; TIMED is a defect in a record that
`cstart` launches. -/
def launchDefect (r : List Byte) (forked : Bool) : Option Nat :=
  let c := (launchChecks r).find? fun c => !c.2 || (!forked && c.1 = 0x10 && field r 0x10 1 ≠ 0)
  c.map Prod.fst

/-! ### Timed entries (10 R300) -/

/-- Elements of an entry. -/
def entElems (e : CopyEnt) : Nat := e.bounds.foldl (fun n b => n * b.toNat) 1

/-- An entry that moves elements. -/
def dataKind (kind : Nat) : Bool := 1 ≤ kind && kind ≤ 6

/-- The buffer whose elements an entry reads: the data buffer behind an INDEX buffer. -/
def Launch.srcBuf (l : Launch) (kind : Nat) (e : CopyEnt) : Buf :=
  let b := l.buf e.sbuf.toNat
  if kind = 3 ∧ b.index then l.buf b.ixb else b

/-- The buffer whose elements an entry writes. -/
def Launch.dstBuf (l : Launch) (kind : Nat) (e : CopyEnt) : Buf :=
  let b := l.buf e.dbuf.toNat
  if kind = 4 ∧ b.index then l.buf b.ixb else b

/-- The element format of a page of a peer: known where the peer is this package itself (18 R452; log entry 76). -/
def State.peerBits (s : State) (e : Endpoint) (va : Nat) : Nat :=
  match (if e.pkgid = s.pkgid then s.baseFmt e.rctx 0 va .read else .bad 0 0) with
  | .ok f _ => f.1.bits 1
  | .bad _ _ => efmtBits (Config.peerEfmt e.pkgid va)

/-- The element size in bits of a buffer as a launch finds it: that of ESZ, else of the page that
holds BASE, 8 when that page is RAW; the page of a peer decides for a window (10 R284, 18 R452; log entry 76). -/
def State.bufBits (s : State) (ctx clu : Nat) (b : Buf) : Rd Nat :=
  if b.esz ≠ 0 then .ok (8 * b.esz) s
  else match (s.ctx ctx).eps.find? fun e => e.2.valid && e.2.vbase ≤ b.base && b.base < e.2.vbase + e.2.npg * 65536 with
  | some (_, e) => .ok (max 6 (s.peerBits e (e.rbase + (b.base - e.vbase)))) s
  | none => (s.baseFmt ctx clu b.base .read).bind fun f s => .ok (max 6 (f.1.bits 1)) s

/-- Elements in a beat, from the two element sizes in bits (10 R300). -/
def beatElems (a b : Nat) : Nat := 1024 / max 1 (max a b)

/-- Beats of an entry (10 R300). -/
def beatsOf (kind : Nat) (e : CopyEnt) (a b : Nat) : Nat :=
  if dataKind kind then (entElems e + beatElems a b - 1) / max 1 (beatElems a b) else 1

/-- A data entry names buffers of the record. -/
def Launch.names (l : Launch) (kind : Nat) (e : CopyEnt) : Bool :=
  let ok (i : Nat) (via : Bool) : Bool := i < 16 && (!via || !(l.buf i).index || (l.buf i).ixb < 16)
  ok e.sbuf.toNat (kind = 3) && ok e.dbuf.toNat (kind = 4)

/-- Beats of an entry of 64 bytes in the record. One that names no buffer of the record fails when it is reached, not at
launch (04 R113); it is given the beats of elements of 8 bits (log entry 76). -/
def State.entryBeats (s : State) (ctx clu : Nat) (l : Launch) (r : List Byte) : Rd Nat :=
  let kind := field r 0 1
  let e := copyEnt r
  if dataKind kind ∧ !l.names kind e then .ok (beatsOf kind e 8 8) s
  else if dataKind kind then
    (s.bufBits ctx clu (l.srcBuf kind e)).bind fun a s =>
      (s.bufBits ctx clu (l.dstBuf kind e)).bind fun b s => .ok (beatsOf kind e a b) s
  else .ok 1 s

/-- The start offsets leave room for each entry's beats, and the period for all (10 R300). -/
def spacingOk : List Nat → List Nat → Nat → Nat → Bool
  | t :: u :: ts, b :: bs, rep, per => t + b ≤ u && spacingOk (u :: ts) bs rep per
  | [t], [b], rep, per => rep ≤ 1 || t + b ≤ per
  | _, _, _, _ => true

/-- A WAITS on the stage counter (10 R285). -/
def isStgWait (r : List Byte) : Bool := field r 0 1 = 9 && field r 0x1A 1 = 0xFE

/-- The entries and start offsets of a record forked with a kernel, checked (10 R285): the launch, or
the offset of the defect. -/
def State.forkedTables (s : State) (ctx clu : Nat) (r : List Byte) (own : Option Nat := none) : Rd (Except Nat Launch) :=
  let l := parseLaunch r
  (s.readRecord ctx clu l.entptr (64 * l.nent) own).bind fun eb s =>
    let es := records eb 64 l.nent
    if es.any isStgWait then .ok (.error 0x008) s
    else if !l.timed then .ok (.ok l) s
    else (s.readRecord ctx clu (field r 0x18 8) (4 * l.nent) own).bind fun tb s =>
      let ts := (List.range l.nent).map fun i => field tb (4 * i) 4
      (Rd.mapM (fun s e => s.entryBeats ctx clu l e) es s).bind fun bs s =>
        .ok (if spacingOk ts bs l.repeat_ l.tperiod then .ok { l with tstart := ts } else .error 0x018) s

/-- A launch record read and checked: the launch, or the offset of its first defect (10 R285). -/
def State.readLaunch (s : State) (ctx clu a : Nat) (forked : Bool) (own : Option Nat := none) : Rd (Except Nat Launch) :=
  if a % 64 ≠ 0 then .ok (.error 0) s
  else (s.readRecord ctx clu a 1280 own).bind fun r s =>
    match launchDefect r forked with
    | some o => .ok (.error o) s
    | none => if forked then s.forkedTables ctx clu r own else .ok (.ok (parseLaunch r)) s

/-! ### Taking an engine (10 R306) -/

/-- A copy engine by 16·cluster + index. -/
def State.eng (s : State) (e : Nat) : Engine := Tab.getD s.engs e {}
/-- An engine replaced. -/
def State.putEng (s : State) (e : Nat) (x : Engine) : State := { s with engs := Tab.put s.engs e x }

/-- The engines of a cluster that a context may launch on: FREE ones by index, then DONE ones, the one
that finished first leading (10 R306; log entry 41). -/
def State.freeEngines (s : State) (ctx clu : Nat) : List Nat :=
  let mine := ((List.range 16).map (16 * clu + ·)).filter fun e => (s.eng e).own = some ctx
  let done := mine.filter fun e => (s.eng e).st = .done && !(s.eng e).held
  let first (e : Nat) : Nat := (done.filter fun x => (s.eng x).fin < (s.eng e).fin).length
  mine.filter (fun e => (s.eng e).st = .free && !(s.eng e).held)
    ++ (List.range done.length).filterMap fun i => done.find? fun e => first e = i

/-- A copy engine that never runs (01 R33). -/
def State.engineOff (s : State) (e : Nat) : Bool := e ≥ 128 || s.limits.copydis.getLsbD e

/-- The handle of an engine (10 R306): a launch that a restore has put on another engine keeps its own (log entry 12).
-/
def State.engHandle (s : State) (e : Nat) : Word :=
  Word.of ((s.eng e).name.getD (e % 16) + 2 ^ 16 * (s.eng e).serial)

/-- A record launched on an engine: what stays is its owner, its last context and the serial. -/
def Engine.launched (e : Engine) (l : Launch) (a ctx : Nat) (gs : List Nat) : Engine :=
  { own := e.own, last := some ctx, st := if l.timed then .armed else .running, launch := l,
    recva := a, groups := gs, serial := (e.serial + 1) % 2 ^ 16 }

end Sys2Proof.Machine
end

