-- ==== Sys2Proof/Machine/Regions.lean ====
section
/-! DEFINITION. Regions and the allocator (05 R141 to R143, 16 R402, R409): rectangles of cores,
eviction, placement, moves, and the scratchpads of a region. -/
namespace Sys2Proof.Machine

/-! ### Rectangles -/

/-- The cores of a rectangle, row-major, by logical core index (05 R141). -/
def rectCores (o rows cols : Nat) : List Nat :=
  (List.range rows).flatMap fun r => (List.range cols).map fun c => o + 16 * r + c

/-- The origins at which a rectangle fits into the 8 × 16 cores of a cluster, row-major. -/
def origins (rows cols : Nat) : List Nat :=
  (List.range 8).flatMap fun r => (List.range 16).filterMap fun c =>
    if r + rows ≤ 8 ∧ c + cols ≤ 16 then some (16 * r + c) else none

/-- The cores of a kernel's rectangle at an origin. -/
def KDesc.rect (d : KDesc) (o : Nat) : List Nat := rectCores o d.rows d.cols

/-- No core of the rectangle is retired (01 R31). -/
def State.rectOk (s : State) (clu : Nat) (d : KDesc) (o : Nat) : Bool :=
  (d.rect o).all fun n => !s.limits.coreret.getLsbD (128 * clu + n)

/-- Some rectangle of non-retired cores of the cluster can hold a kernel (05 R142). -/
def State.fits (s : State) (clu : Nat) (d : KDesc) : Bool :=
  (origins d.rows d.cols).any (s.rectOk clu d)

/-- Every kernel with its context and handle. -/
def State.allKernels (s : State) : List (Nat × Nat × Kernel) :=
  s.ctxs.flatMap fun c => c.2.kernels.map fun e => (c.1, e.1, e.2)

/-- The kernel keeps its cores from others: RUNNING, STOPPED, FROZEN, MOVING or SAVED on them
(05 R142). -/
def Kernel.occupies (k : Kernel) : Bool :=
  !k.away && (k.state = .running || k.state = .stopped || k.state = .frozen || k.state = .moving
    || k.state = .saved || k.armed)

/-- The kernel keeps a core, its own or one that it is moving to. -/
def Kernel.keeps (k : Kernel) (clu n : Nat) : Bool :=
  (k.occupies && k.holdsCore clu n)
    || (k.state = .moving && k.cluster = clu && (k.desc.rect k.target).contains n)

/-- The kernels that hold a context slot of a core (05 R134). -/
def State.holders (s : State) (clu n : Nat) : List (Nat × Nat × Kernel) :=
  s.allKernels.filter fun x => x.2.2.holdsCore clu n

/-- The package cores that the regions of a context hold. -/
def State.coresOf (s : State) (ctx : Nat) : List Nat :=
  ((s.ctx ctx).kernels.flatMap fun e =>
    if e.2.state = .waiting ∨ e.2.away then []
    else (e.2.desc.rect e.2.origin).map (128 * e.2.cluster + ·)).eraseDups

/-! ### Scratchpads of a region -/

/-- The bytes of a scratchpad that memory lists, by offset. -/
def State.spmCells (s : State) (base : Nat) : List Host.Cell :=
  s.mem.filterMap fun c => if base ≤ c.1 ∧ c.1 < base + 2 ^ 21 then some (c.1 - base, c.2) else none

/-- A scratchpad zeroed. -/
def State.clearSpm (s : State) (base : Nat) : State :=
  { s with mem := s.mem.filter (fun c => !(base ≤ c.1 && c.1 < base + 2 ^ 21)) }.unpoison base (2 ^ 21)

/-- A scratchpad filled with bytes by offset. -/
def State.fillSpm (s : State) (base : Nat) (cells : List Host.Cell) : State :=
  let s := s.clearSpm base
  { s with mem := cells.foldl (fun m c => Memory.write m (base + c.1) c.2) s.mem }

/-- Cores given to a context: a scratchpad that another context held last is zeroed (16 R402). -/
def State.giveCores (s : State) (ctx clu : Nat) (cores : List Nat) : State :=
  cores.foldl (fun s n =>
    let k := s.clu clu
    if Tab.get? k.lastCtx n = some ctx then s
    else (s.clearSpm (spmAddr clu n)).putClu clu { k with lastCtx := Tab.put k.lastCtx n ctx }) s

/-- The leaves of a page table, from a level down, whose page a map renames: the address of each and its new value. -/
def remapTable (f : Nat → Option Nat) (m : List Host.Cell) : Nat → Nat → List (Nat × Nat)
  | 0, _ => []
  | lvl + 1, table => (List.range 512).flatMap fun i =>
      let a := table + 8 * i
      let e := Word.of (Memory.readLE m a 8)
      if !leafV e then []
      else if leafLeaf e then
        match (if leafOk (lvl + 1) e then f (leafPfn e * 4096) else none) with
        | some pa => [(a, e.toNat - leafPfn e * 4096 + pa)]
        | none => []
      else if lvl ≠ 0 ∧ pointerOk e then remapTable f m lvl (leafPfn e * 4096)
      else []

/-- What is on its way to the scratchpads of a region arrives. -/
def State.arriveRegion (s : State) (k : Kernel) : State :=
  (List.range k.desc.cores).foldl (fun s c => s.arriveAt (k.spm c) (2 ^ 21)) s

/-- The context's scratchpad mappings follow a region to a new origin, and so do the buffered stores of its kernels to
it; watches on the entries that change and on both places fire (05 R143, 15 R399). -/
def State.remapSpm (s : State) (ctx : Nat) (k : Kernel) (o : Nat) : State :=
  if k.origin = o then s
  else
    let c := s.ctx ctx
    let m (pa : Nat) : Nat := (k.movedPage o pa).getD pa
    let ks := Tab.mapVal c.kernels fun _ x => { x with buffer := x.buffer.map (BufEnt.move m) }
    let s := s.putCtx ctx { c with kernels := ks }
    let s := (remapTable (k.movedPage o) s.mem 5 c.xl.ptroot).foldl (fun s u => s.pokeLE u.1 8 u.2) s
    let s := (List.range k.desc.cores).foldl (fun s i =>
      (s.wakeRange (k.spm i) (2 ^ 21)).wakeRange ({ k with origin := o }.spm i) (2 ^ 21)) s
    { s with tlb := s.tlb.filter fun t => t.asid ≠ c.xl.asid || (k.movedPage o t.pa).isNone }

/-- The scratchpads of a region, by region-relative core. -/
def State.spads (s : State) (k : Kernel) : List (List Host.Cell) :=
  (List.range k.desc.cores).map fun c => s.spmCells (k.spm c)

/-- A kernel's region brought to an origin with its scratchpads: mappings follow, the contents land in
the same relative places. -/
def State.settleRegion (s : State) (ctx : Nat) (k : Kernel) (o : Nat) (pads : List (List Host.Cell)) :
    State :=
  let s := (s.remapSpm ctx k o).giveCores ctx k.cluster (k.desc.rect o)
  let n := { k with origin := o }
  (List.range k.desc.cores).foldl (fun s c => s.fillSpm (n.spm c) (nth pads c [])) s

/-! ### Placement (05 R142) -/

/-- A `kfork` waits on a kernel. -/
def State.forkWaits (s : State) (ctx kh : Nat) : Bool :=
  (s.thrs.any fun t => t.2.ctx = ctx && t.2.st = .kfork kh)
    || ((s.kernel? ctx kh).any fun k => k.owner.isSome)

/-- A kernel that a pass may evict: `placed` were placed in it. -/
def State.evictable (s : State) (placed : List (Nat × Nat)) (x : Nat × Nat × Kernel) : Bool :=
  (x.2.2.state = .loaded || x.2.2.state = .retired) && !placed.contains (x.1, x.2.1)
    && !s.forkWaits x.1 x.2.1

/-- The kernel least recently forked or placed. -/
def leastUsed : List (Nat × Nat × Kernel) → Option (Nat × Nat × Kernel)
  | [] => none
  | x :: t =>
    match leastUsed t with
    | none => some x
    | some y => if y.2.2.used < x.2.2.used then some y else some x

/-- One core with a free context slot: none when it is kept or every slot is held by kernels that may
not be evicted. -/
def State.freeSlot (s : State) (placed : List (Nat × Nat)) (clu n : Nat) : Option State :=
  let hs := s.holders clu n
  if s.allKernels.any fun x => x.2.2.keeps clu n then none
  else if hs.length < 4 then some s
  else (leastUsed (hs.filter (s.evictable placed))).map fun x =>
    s.modKernel x.1 x.2.1 fun k => { k with state := .waiting }

/-- A free slot in each of some cores. -/
def State.freeSlots (s : State) (placed : List (Nat × Nat)) (clu : Nat) : List Nat → Option State
  | [] => some s
  | n :: t => (s.freeSlot placed clu n).bind fun s => s.freeSlots placed clu t

/-- Domain controllers in use in a cluster (05 R144). -/
def State.controllers (s : State) (clu : Nat) : Nat :=
  (s.allKernels.filter fun x => x.2.2.cluster = clu && !x.2.2.away
    && (x.2.2.state = .running || x.2.2.state = .moving || x.2.2.state = .stopped
      || x.2.2.state = .frozen || x.2.2.armed)).length

/-- A kernel goes to an origin: LOADED; or, saved, back to its state before (05 R142, 16 R409, R416). -/
def State.settleKernel (s : State) (ctx kh : Nat) (k : Kernel) (o : Nat) : State :=
  if k.away then
    let s := s.settleRegion ctx k o k.spads
    let st := if k.state = .saved then k.savedFrom else k.state
    let k : Kernel := { k.relocate o with state := st, away := false, alone := false, spads := [] }
    let k : Kernel := { k with saveReq := false }
    let go (e : Engine) : Engine := if k.state = .running then e.resume ctx kh else e
    { s.putKernel ctx kh k.applyLive.refillAll with engs := Tab.mapVal s.engs fun _ e => go e }
  else
    let s := s.giveCores ctx k.cluster (k.desc.rect o)
    let used := if k.forked then k.used else s.orders
    { s.putKernel ctx kh { k with state := .loaded, origin := o, used := used } with orders := s.orders + 1 }

/-- A kernel that comes back from SAVED holds a domain controller again (05 R144). -/
def Kernel.takesController (k : Kernel) : Bool :=
  k.state = .saved && (k.savedFrom = .running || k.savedFrom = .stopped || k.savedFrom = .frozen)

/-- The state with a kernel placed at an origin, if it may go there. -/
def State.placeAt (s : State) (placed : List (Nat × Nat)) (ctx kh : Nat) (k : Kernel) (o : Nat) :
    Option State :=
  if !s.rectOk k.cluster k.desc o ∨ (k.takesController ∧ s.controllers k.cluster ≥ 16) then none
  else
    match s.freeSlots placed k.cluster (k.desc.rect o) with
    | none => none
    | some s =>
      let all := (s.coresOf ctx ++ (k.desc.rect o).map (128 * k.cluster + ·)).eraseDups
      if all.length > (s.ctx ctx).obj.maxcores then none else some (s.settleKernel ctx kh k o)

/-- A kernel that asks for a region: WAITING, or saved alone with no page pending and a controller
free (05 R144, 16 R409, 11 R329). -/
def State.asks (s : State) (ctx : Nat) (k : Kernel) : Bool :=
  (s.ctx ctx).st = .running
    && (k.state = .waiting
      || (k.state = .saved && k.alone && s.controllers k.cluster < 16
        && k.run.streams.all fun x => x.2.pending.isEmpty))

/-- A request goes before another: PRIO, then order of `kld`. -/
def requestBefore (a b : Nat × Nat × Kernel) : Bool :=
  a.2.2.desc.prio < b.2.2.desc.prio
    || (a.2.2.desc.prio = b.2.2.desc.prio && a.2.2.order ≤ b.2.2.order)

/-- A request inserted in order. -/
def insertRequest (x : Nat × Nat × Kernel) : List (Nat × Nat × Kernel) → List (Nat × Nat × Kernel)
  | [] => [x]
  | y :: t => if requestBefore x y then x :: y :: t else y :: insertRequest x t

/-- The requests of a cluster in the order of a pass. -/
def State.requests (s : State) (clu : Nat) : List (Nat × Nat × Kernel) :=
  (s.allKernels.filter fun x => x.2.2.cluster = clu && s.asks x.1 x.2.2).foldr insertRequest []

/-- The requests placed one after another; whether one was left over. -/
def State.placeAll (s : State) (placed : List (Nat × Nat)) (left : Bool) :
    List (Nat × Nat × Kernel) → State × Bool
  | [] => (s, left)
  | (ctx, kh, k) :: t =>
    match (origins k.desc.rows k.desc.cols).findSome? (s.placeAt placed ctx kh k) with
    | some s => s.placeAll ((ctx, kh) :: placed) left t
    | none => s.placeAll placed true t

/-- A region may move to an origin: no other kernel keeps its cores and a slot is free in each. -/
def State.moveFits (s : State) (ctx kh : Nat) (k : Kernel) (o : Nat) : Bool :=
  (origins k.desc.rows k.desc.cols).contains o && s.rectOk k.cluster k.desc o
    && (k.desc.rect o).all fun n =>
      let others := s.allKernels.filter fun x => x.1 ≠ ctx || x.2.1 ≠ kh
      (others.all fun x => !x.2.2.keeps k.cluster n)
        && (others.filter fun x => x.2.2.holdsCore k.cluster n).length < 4

/-- No region moves more than once in 1 ms (05 R143). -/
def State.mayMove (s : State) (k : Kernel) : Bool :=
  k.state = .running && !k.desc.pinned && k.lastMove.all fun g => g + 1000000 ≤ s.gtc.toNat

/-- The allocator compacts for a request that it could not place: which region it moves and where to,
or which kernel it saves alone, is left open (05 R143, 16 R409; log entry 43). -/
def State.compact (s : State) (clu : Nat) : State :=
  let w := (Config.freeWord s.draws).toNat
  let s := { s with draws := s.draws + 1 }
  let ctx := w / 4 % 64
  let kh := w / 256 % 256
  let o := w / 65536 % 128
  match s.kernel? ctx kh with
  | none => s
  | some k =>
    if k.cluster ≠ clu ∨ k.state ≠ .running then s
    else if w % 4 = 1 ∧ s.mayMove k ∧ s.moveFits ctx kh k o then
      s.putKernel ctx kh { k with moveReq := true, target := o }
    else if w % 4 = 2 then s.putKernel ctx kh { k with saveReq := true }
    else s

/-- A kernel that stood on a region has been evicted: it waits again. -/
def State.evicted (s t : State) : Bool :=
  s.allKernels.any fun x => (x.2.2.state = .loaded || x.2.2.state = .retired)
    && (t.kernel? x.1 x.2.1).any fun k => k.state = .waiting

/-- A placement pass that comes once some other agent has moved. -/
def State.laterPass (s : State) (clu : Nat) : State :=
  { s with sched := s.sched ++ [Config.freeAgent s.draws, .event (.placementPass clu) s.cur], draws := s.draws + 1 }

/-- PLACEMENT_PASS (05 R142): an eviction queues a request again, and a pass begins for it (log entry 43). -/
def execPlacementPass (cluster : Nat) (s : State) : Result :=
  let (t, left) := s.placeAll [] false (s.requests cluster)
  let t := if left then t.compact cluster else t
  .next (if s.evicted t then t.laterPass cluster else t)

/-- A placement pass is due: it is the next to run (05 R142). -/
def State.requestPass (s : State) (clu : Nat) : State :=
  { s with sched := .event (.placementPass clu) s.cur :: s.sched }

end Sys2Proof.Machine
end

