-- ==== Sys2Proof/Machine/Stream.lean ====
section
/-! DEFINITION. Streams (08): patterns (R231 to R234), issue of fills (R236), the format of a stream
(R227, R229), the return of a fill (R236 to R241), window reads (R237, R247), stores and write-back
(R244), failures (R241) and `sbar` (R253). -/
namespace Sys2Proof.Machine

/-! ### Patterns -/

/-- What a lane of a word stands for: no element, padding, or the element at an offset. -/
inductive LaneAt where
  | none_ | pad | at_ (o : Int)
deriving DecidableEq, Repr

/-- The offset of element e of an AFFINE pattern (08 R231). -/
def affineOffset : List Nat → List Int → Nat → Int
  | b :: bs, st :: ss, e => (e % max 1 b : Nat) * st + affineOffset bs ss (e / max 1 b)
  | _, _, _ => 0

/-- Lane i of word u of a pattern (08 R231, R232). R232 gives NL of an UNFOLD stream for element sizes 1 and 2 only; for
others, and for F32 and I32, it is here the lanes of the delivered form (DESIGN CHOICE, log entry 92). -/
def StreamDesc.laneAt (d : StreamDesc) (x : StreamSt) (u i : Nat) : LaneAt :=
  let n := d.lanes x
  match d.kind with
  | .unfold =>
    let taps := d.kh * d.kw * d.ch
    let p := u / taps * n + i
    let tap := u % taps
    let iy : Int := p / d.ow * d.sh + tap / (d.ch * d.kw) - d.ph
    let ix : Int := p % d.ow * d.sw + tap / d.ch % d.kw - d.pw
    if i ≥ n ∨ p ≥ d.oh * d.ow then .none_
    else if iy < 0 ∨ iy ≥ d.ih ∨ ix < 0 ∨ ix ≥ d.iw then .pad
    else .at_ ((iy * d.iw + ix) * d.ch + (tap % d.ch : Nat))
  | _ =>
    let e := u * n + i
    if i ≥ n ∨ e ≥ d.elems then .none_ else .at_ (affineOffset d.bounds d.strides e)

/-- The swizzle of a stream. -/
def StreamDesc.swizzleMask (d : StreamDesc) : Option Word := if d.swz then some d.swzm else none

/-- The elements are decoded on their way in. -/
def StreamDesc.decodes (d : StreamDesc) : Bool := d.deliv ≠ .raw

/-- The size of the words is known before the page format is. -/
def StreamDesc.sized (d : StreamDesc) (x : StreamSt) : Bool := x.fmt.isSome || d.decodes || d.esz ≠ 0

/-! ### Windows -/

/-- The tail T, in words (08 R236); where RET is no multiple of 64, T is rounded down to a word (DESIGN CHOICE, log
entry 92). -/
def StreamDesc.tail (d : StreamDesc) (x : StreamSt) : Nat := (x.u - d.ret) / 64

/-- The words that can hold an element in some format: at 8 lanes to a word, the fewest that a format gives (08 R231).
-/
def StreamDesc.mostWords (d : StreamDesc) : Nat :=
  match d.kind with
  | .unfold => (d.oh * d.ow + 7) / 8 * (d.kh * d.kw * d.ch)
  | _ => (d.elems + 7) / 8

/-- Words whose fills have issued once every word below U + PREF has; none without an element (08 R231, R236). -/
def StreamDesc.reach (d : StreamDesc) (x : StreamSt) (pref : Nat) : Nat :=
  let g := groupWords d.deliv
  let n := ((x.u + pref + 63) / 64 + g - 1) / g * g
  min n (if d.sized x then d.words x else d.mostWords)

/-- Fills issue up to the reach of a prefetch depth (08 R236). -/
def StreamDesc.topUp (d : StreamDesc) (cyc pref : Nat) (x : StreamSt) : StreamSt :=
  if d.store ∨ d.kind = .indexed ∨ x.failed then x
  else
    let n := d.reach x pref
    let new (i : Nat) : Fill := { word := x.issued + i, cyc := cyc }
    { x with issued := max x.issued n, fills := x.fills ++ (List.range (n - x.issued)).map new }

/-- The bytes of lane i of a word. -/
def laneBytes (bits : Nat) (v : Wide) (i : Nat) : List Nat :=
  bytesOf (v.toNat / 2 ^ (bits * i) % 2 ^ bits) (bits / 8)

/-- The virtual address of an element of a byte-sized stream. -/
def StreamDesc.elemVa (d : StreamDesc) (x : StreamSt) (o : Int) : Nat :=
  ((elemBytes d.base (d.bits x) d.swizzleMask o).1.head?).getD 0

/-- The write-backs of a word: its lanes that are not in the region's scratchpads (08 R244). -/
def StreamDesc.backs (d : StreamDesc) (x : StreamSt) (cyc : Nat) (w : Nat × WinWord) : List FarStore :=
  (List.range (d.lanes x)).filterMap fun i =>
    if w.2.mask.getLsbD i then
      match d.laneAt x w.1 i with
      | .at_ o => some ⟨d.elemVa x o, laneBytes (d.bits x) w.2.data i, cyc, cyc, true, w.2.bad, w.2.path⟩
      | _ => none
    else none

/-- Write-back of the words that satisfy a test (08 R244). -/
def StreamDesc.writeBack (d : StreamDesc) (cyc : Nat) (p : Nat → Bool) (x : StreamSt) : StreamSt :=
  if !d.store then x
  else
    let done (w : Nat) (y : WinWord) : WinWord := if p w then { y with mask := 0 } else y
    let out := (x.win.filter fun w => p w.1).flatMap (d.backs x cyc)
    { x with far := x.far ++ out, win := Tab.mapVal x.win done }

/-- Words below the tail leave the window: unused ones count as evicted, STORE words are written back
(08 R238, R243, R244). -/
def StreamDesc.settle (d : StreamDesc) (cyc : Nat) (x : StreamSt) : StreamSt :=
  let t := d.tail x
  let x := d.writeBack cyc (· < t) x
  let out := (x.win.filter fun w => w.1 < t && !w.2.used).length
  let g := groupWords d.deliv
  { x with win := x.win.filter (fun w => t ≤ w.1), exps := x.exps.filter (fun e => t < (e.1 + 1) * g),
           evict := if d.store then x.evict else accAdd x.evict (64 * out) }

/-- U advances by words; the tail follows and fills issue (08 R236). -/
def StreamDesc.advance (d : StreamDesc) (cyc n : Nat) (x : StreamSt) : StreamSt :=
  d.topUp cyc x.pref (d.settle cyc { x with u := x.u + 64 * n })

/-! ### Reading the window -/

/-- What a read of a word finds: its data and mask, or a position below the tail (08 R237). -/
inductive WordRead where
  | under
  | data (v : Nat) (mask : Nat)

/-- The word at a position (08 R237, R247). -/
def StreamDesc.read (d : StreamDesc) (x : StreamSt) (w : Nat) : WordRead :=
  if w < d.tail x then .under
  else match Tab.get? x.win w with
    | some y => .data y.data.toNat y.mask.toNat
    | none => .data 0 0

/-- A word marked used; its first use counts (08 R243). -/
def StreamSt.use (x : StreamSt) (w : Nat) : StreamSt :=
  match Tab.get? x.win w with
  | some y =>
    if y.used then x
    else { x with win := Tab.put x.win w { y with used := true }, used := accAdd x.used 64 }
  | none => x

/-- The failure that covers a word, if any: of the whole stream, of the word, or of a page that it
touches. -/
def StreamSt.failOf (x : StreamSt) (w : Nat) (pages : List Nat) : Option SegFail :=
  x.fails.find? fun f =>
    f.word = some w || (f.word = none && f.page = none) || f.page.any pages.contains

/-- The failure of a word that an op reaches raises the event of its segment once (08 R241). -/
def Run.tellFail (r : Run) (pe ops key w : Nat) (pages : List Nat := []) : Run :=
  let x := r.stream key
  match x.failOf w pages with
  | some f =>
    if f.told then r
    else
      let fails := x.fails.map fun g => if g = f ∨ (g.page = f.page ∧ f.page.isSome) then { g with told := true } else g
      (r.putStream key { x with fails := fails }).addEvent pe ops 0 f.cause (Word.of f.info)
  | none => r

/-! ### The format of a stream -/

/-- Delivered forms and the element formats that they take (08 R229). -/
def delivTakes (d : StreamDesc) (f : PageFmt) : Bool :=
  match d.deliv with
  | .raw => f.codec || f.efmt ≠ 6
  | .bq8 => !f.codec && [1, 2, 5, 6, 7, 8].contains f.efmt
  | .bq16 => !f.codec && [3, 4, 9, 0xA].contains f.efmt
  | .f32 => !f.codec && 5 ≤ f.efmt && f.efmt ≤ 0xA
  | .i32 => !f.codec && 1 ≤ f.efmt && f.efmt ≤ 4

/-- The element format that a `dcvs` target writes (09 R278). -/
def cvtEfmt (tgt : Nat) : Nat := nth [9, 0xA, 7, 8, 5] tgt 0

/-- The targets of the conversions that feed a STORE stream of ESZ 0 (09 R281). -/
def Kernel.cvtTargets (k : Kernel) (d : StreamDesc) : List Nat :=
  (List.range k.desc.ii).filterMap fun t =>
    let slot := mpeSlot d.mpe
    let (opc, f) := (k.slotCfg d.core slot).at_ t
    if (opc = 3 ∨ opc = 4 ∨ opc = 6) ∧ f.stream = d.strm then
      k.traceCvt k.traceFuel d.core slot (dataSource opc f) t
    else none

/-- The type selectors of the ops of a RAW stream name lanes of its element size (08 R246; log entry 68). -/
def Kernel.typesOk (k : Kernel) (d : StreamDesc) (f : PageFmt) : Bool :=
  d.deliv ≠ .raw || (List.range k.desc.ii).all fun t =>
    let (opc, g) := (k.slotCfg d.core (mpeSlot d.mpe)).at_ t
    let data : Bool := (1 ≤ opc && opc ≤ 6) || opc = 9
    !data || g.stream ≠ d.strm || g.ty = 0 || typeWidth g.ty = f.bits d.esz

/-- The checks of a stream's format at its first translation of BASE (08 R229, R232, R234, R246; 09 R281). -/
def Kernel.formatOk (k : Kernel) (d : StreamDesc) (f : PageFmt) (pa : Nat) : Bool :=
  f.eszOk d.esz && delivTakes d f && (!d.store || d.deliv = .raw) && k.typesOk d f
    && (d.kind ≠ .unfold || (k.coreOfPa pa).isSome)
    && (d.kind ≠ .indexed || f.bits d.esz = 32 || f.bits d.esz = 64)
    && (!d.store || d.esz ≠ 0 || (k.cvtTargets d).all fun t => cvtEfmt t = f.efmt)

/-- The access class of a stream's translations. -/
def StreamDesc.acc (d : StreamDesc) : Acc := if d.store then .write else .read

/-- Every segment of a stream fails together (08 R241). -/
def StreamSt.failAll (x : StreamSt) (c : BitVec 16) (i : Nat) : StreamSt :=
  { x with failed := true, fills := [], far := [], fails := ⟨none, none, c, i, false⟩ :: x.fails }

/-- The unit of a stream in a fault record (11 R327). -/
def faultUnit (clu unit : Nat) : Nat := clu % 8 * 2 ^ 13 + unit % 2 ^ 13

/-- A replayable cause met by a stream: the fault is posted and its page held pending (08 R241). -/
def State.streamFault (s : State) (ctx kh key va : Nat) (c : BitVec 16) (a : Acc) (path : Nat := 1) :
    State :=
  match s.kernel? ctx kh with
  | none => s
  | some k =>
    let unit := faultUnit k.cluster (k.physCore (key / 32) * 16 + (if key % 32 ≥ 16 then 3 else 0))
    let s := s.raiseFault ctx va c path unit a.bit (.stream kh key)
    let put (x : StreamSt) : StreamSt :=
      if va / 4096 ∈ x.pending then x else { x with pending := x.pending ++ [va / 4096] }
    s.modRun ctx kh fun r => r.putStream key (put (r.stream key))

/-- A stream replaced. -/
def State.putStream (s : State) (ctx kh key : Nat) (x : StreamSt) : State :=
  s.modRun ctx kh (·.putStream key x)

/-- The state of a stream. -/
def State.stream (s : State) (ctx kh key : Nat) : StreamSt :=
  ((s.kernel? ctx kh).map fun k => k.run.stream key).getD {}

/-- The stream's format is fixed at its first translation of BASE (08 R227, R241): the state and
whether a fault is awaited. -/
def State.fixFmt (s : State) (ctx kh key : Nat) (k : Kernel) (d : StreamDesc) (path : Nat := 1) : State × Bool :=
  let x := k.run.stream key
  if x.fmt.isSome ∨ x.failed then (s, false)
  else if d.base / 4096 ∈ x.pending then (s, true)
  else
    match s.baseFmt ctx k.cluster d.base d.acc with
    | .bad c v =>
      if replayable c then (s.streamFault ctx kh key v c d.acc path, true)
      else (s.putStream ctx kh key (x.failAll c v), false)
    | .ok (f, pa) s =>
      if k.formatOk d f pa then
        let y := { x with fmt := some f }
        let keep (g : Fill) : Bool := d.store || g.word < d.words y
        let issued := if d.store then y.issued else min y.issued (d.words y)
        (s.putStream ctx kh key { y with fills := y.fills.filter keep, issued := issued }, false)
      else (s.putStream ctx kh key (x.failAll 0x0120#16 f.idx), false)

/-- A scratchpad of another cluster, which no load or store of a kernel reaches (01 R15; log entry 71). -/
def foreignPad (clu pa : Nat) : Bool := regionOf pa = 2 && (pa - spmBase) / 2 ^ 28 ≠ clu

/-- Translation of a kernel's own access. -/
def State.kernXlate (s : State) (ctx clu va : Nat) (a : Acc) (fmt : Option PageFmt) : Rd (Nat × Word) :=
  (s.engXlate ctx clu va a fmt).bind fun p s => if foreignPad clu p.1 then .bad 0x0306#16 va else .ok p s

/-- The first of some addresses that a kernel may not read, since it lies in another cluster's scratchpad. -/
def State.foreignVa (s : State) (ctx clu : Nat) (vas : List Nat) : Option Nat :=
  vas.find? fun va => match s.hostXlate ctx clu va .read with
    | .hit pa _ _ => foreignPad clu pa
    | .miss _ _ => false

/-! ### Order (08 R242, R253) -/

/-- The bit of a stream in HOLD and WAIT (08 R253). -/
def sbarBit (key : Nat) : Nat := (if key % 32 ≥ 16 then 12 else 0) + key % 16

/-- A landing is of an access of a stream that issued before a cycle. -/
def LandAct.isOf (key cyc : Nat) : LandAct → Bool
  | .bytes _ _ _ (some (k, c, _)) => k = key && c < cyc
  | _ => false

/-- A stream has an access, issued before a cycle, that is not yet performed. In a paused domain one that waits for its
virtual cycle, or behind such a one, does not count, since that cycle comes only behind the pause (log entry 72). -/
def Run.outstanding (r : Run) (key cyc : Nat) : Bool :=
  let x := r.stream key
  let due (f : FarStore) : Bool := !r.paused || f.ready ≤ r.vcc
  (x.fills.any fun f => f.cyc < cyc) || ((x.far.takeWhile due).any fun f => f.cyc < cyc)
    || (r.atms.any fun m => m.key = key && m.cyc < cyc && x.far.all fun f => m.cyc ≤ f.cyc || due f)
    || (!r.paused && r.land.any fun l => l.act.isOf key cyc)

/-- An access of a stream issued in a cycle is held by an `sbar` (08 R253). -/
def Run.held (r : Run) (key cyc : Nat) : Bool :=
  r.sbars.any fun b => b.core = key / 32 && b.hold.getLsbD (sbarBit key) && b.cyc ≤ cyc
    && (List.range 32).any fun j => j % 16 < 12 && b.wait.getLsbD (sbarBit j)
      && r.outstanding (key / 32 * 32 + j) b.cyc

/-- An access of a stream that issues now is held while the domain stands: accesses that wait for their virtual cycle
are ordered by it (08 R244, R253; log entry 72). -/
def Run.heldNow (r : Run) (key : Nat) : Bool := { r with paused := true }.held key r.vcc

/-! ### What a kernel reads (05 R147) -/

/-- What strict rounds have still to store to a backing goes to the other behind a publish (13 R373). -/
def Ctx.moveBacking (x : Ctx) (a b n : Nat) : Ctx :=
  let m (pa : Nat) : Nat := if a ≤ pa ∧ pa < a + n then b + (pa - a) else pa
  { x with kernels := Tab.mapVal x.kernels fun _ k => { k with buffer := k.buffer.map (BufEnt.move m) } }

/-- A publish performed: what is on its way to the published backing arrives, CUR is inverted, the table in memory shows
it, and watches of both backings fire (13 R371, R373; 15 R399). -/
def State.publish (s : State) (ctx h : Nat) : State :=
  match Tab.get? (s.ctx ctx).pubs h with
  | some p =>
    if p.valid then
      let old := if p.cur then p.p1 else p.p0
      let new := if p.cur then p.p0 else p.p1
      let s := s.arriveAt old (p.npg * 65536)
      let x := (s.ctx ctx).moveBacking old new (p.npg * 65536)
      let s := s.putCtx ctx { x with pubs := Tab.put x.pubs h { p with cur := !p.cur } }
      let s := s.sysPoke (x.obj.pubtab + 32 * h + 0xC) 1 (if p.cur then 1 else 3)
      (s.wakeRange p.p0 (p.npg * 65536)).wakeRange p.p1 (p.npg * 65536)
    else s
  | none => s

/-- What the kernel's own accesses see of an entry of its store buffer (05 R147). -/
def State.seeEnt (s : State) (ctx clu : Nat) : BufEnt → State
  | .store _ pa v en va =>
    let now : Nat :=
      match va with
      | some (a, true) => match s.kernXlate ctx clu a .write none with | .ok p _ => p.1 | .bad _ _ => pa
      | _ => pa
    s.poke now v en
  | .publish h => s.publish ctx h
  | _ => s

/-- Memory as the kernel's own accesses see it: with the stores and the publishes that its store buffer holds
(05 R147, 13 R373). -/
def State.asKernel (s : State) (ctx : Nat) (k : Kernel) : State :=
  if k.run.strict then k.buffer.foldl (fun s b => s.seeEnt ctx k.cluster b) s else s

/-- The state after such reads: what they did to memory stays only outside strict mode. -/
def State.after (s : State) (k : Kernel) (t : State) : State :=
  if k.run.strict then { s with tlb := t.tlb } else t

/-! ### The return of a fill -/

/-- Virtual addresses that the fill of a word reads: elements, scales and masks. -/
def State.fillVas (s : State) (ctx : Nat) (d : StreamDesc) (x : StreamSt) (w : Nat) : List Nat :=
  match x.fmt with
  | none => []
  | some f =>
    ((List.range (d.lanes x)).flatMap fun i =>
      match d.laneAt x w i with
      | .at_ o => s.elemVas ctx f d.decodes d.base (d.bits x) d.swizzleMask o
      | _ => [])
    ++ (if d.vmask then (List.range 8).map fun j => d.mbase + 8 * (w / max 1 d.mdiv) + j else [])

/-- The pages of some addresses. -/
def pagesOf (vas : List Nat) : List Nat := (vas.map (· / 4096)).eraseDups

/-- Bytes of the region's scratchpads at some virtual addresses, as they stand (08 R236). -/
def State.nearBytes (s : State) (ctx : Nat) (k : Kernel) (vas : List Nat) : List (Nat × Nat) :=
  vas.filterMap fun va =>
    match s.hostXlate ctx k.cluster va .read with
    | .miss _ _ => none
    | .hit pa _ s => if (k.coreOfPa pa).isSome then some (va, (s.load pa 1).1) else none

/-- The bytes of a scratchpad that memory lists, by offset. -/
def State.spmBytes (s : State) (base : Nat) : List Host.Cell :=
  s.mem.filterMap fun c => if base ≤ c.1 ∧ c.1 < base + 2 ^ 21 then some (c.1 - base, c.2) else none

/-- The bytes at some virtual addresses in kept scratchpads of the region (08 R236). -/
def State.padBytes (s : State) (ctx : Nat) (k : Kernel) (pads : List (List Host.Cell)) (vas : List Nat) :
    List (Nat × Nat) :=
  if pads = [] then []
  else vas.filterMap fun va =>
    match s.hostXlate ctx k.cluster va .read with
    | .miss _ _ => none
    | .hit pa _ _ => (k.coreOfPa pa).map fun c => (va, (Memory.read (nth pads c []) (pa - k.spm c)).toNat)

/-- A fill takes what it reads of the region's scratchpads: bytes by virtual address, or, while an address of it does
not translate, the scratchpads (08 R236, 13 R358). -/
def State.takeFill (s : State) (ctx : Nat) (k : Kernel) (d : StreamDesc) (x : StreamSt) (f : Fill) : Fill :=
  if f.taken then f
  else
    let t := s.asKernel ctx k
    let vas := s.fillVas ctx d x f.word
    let open_ : Bool := x.fmt.isNone || vas.any fun va =>
      match s.hostXlate ctx k.cluster va .read with | .miss _ _ => true | .hit _ _ _ => false
    { f with taken := true, near := t.nearBytes ctx k vas,
             pads := if open_ then (List.range k.desc.cores).map fun c => t.spmBytes (k.spm c) else [] }

/-- The validity mask of a word (08 R235). -/
def State.fillMask (s : State) (ctx clu : Nat) (d : StreamDesc) (x : StreamSt) (near : List (Nat × Nat))
    (w : Nat) : Rd Nat :=
  let base := joinLanes 1 ((List.range (d.lanes x)).map fun i =>
    if d.laneAt x w i = .none_ then 0 else 1)
  if d.vmask then
    let a := d.mbase + 8 * (w / max 1 d.mdiv)
    (s.engRead ctx clu none near ((List.range 8).map (a + ·))).bind fun v s => .ok (base &&& v) s
  else .ok base s

/-- The delivered pattern of a lane outside the BQ forms (08 R229, 02 R67). -/
def State.laneOut (s : State) (ctx clu : Nat) (d : StreamDesc) (x : StreamSt) (f : PageFmt)
    (near : List (Nat × Nat)) (w i : Nat) : Rd Nat :=
  match d.laneAt x w i with
  | .at_ o =>
    match d.deliv with
    | .f32 => (s.elemVal ctx clu f near d.base (d.bits x) d.swizzleMask o).bind fun v s =>
        .ok (Fmt.f32.enc v .rne) s
    | .i32 =>
      if !(s.fmtDesc ctx f.idx).ok then .bad 0x0120#16 f.idx
      else (s.elemRaw ctx clu f near d.base (d.bits x) d.swizzleMask o).bind fun c s =>
        .ok (lowBits (readInt (efmtSigned f.efmt) c (efmtBits f.efmt)) 32) s
    | _ => s.elemRaw ctx clu f near d.base (d.bits x) d.swizzleMask o
  | _ => .ok 0 s

/-- The value of a lane of a BQ form; a lane without an element is zero. -/
def State.laneBq (s : State) (ctx clu : Nat) (d : StreamDesc) (x : StreamSt) (f : PageFmt)
    (near : List (Nat × Nat)) (w i : Nat) : Rd Val :=
  match d.laneAt x w i with
  | .at_ o => s.elemVal ctx clu f near d.base (d.bits x) d.swizzleMask o
  | _ => .ok (.fin false 0 0) s

/-- A fold group aligned lane by lane: the words and the exponents (02 R63, R64; 08 R239). -/
def alignGroup (isInt : Bool) (bits n : Nat) (rows : List (List Val)) : List Nat × Nat :=
  let p := bits - 1
  let cols := (List.range n).map fun i =>
    let vs := rows.map fun r => nth r i .nan
    if isInt then (0, vs.map (valOver · 0)) else alignBlock vs p
  let word (j : Nat) : Nat := joinLanes bits (cols.map fun c => lowBits (nth c.2 j 0) bits)
  ((List.range rows.length).map word, joinLanes 16 (cols.map fun c => lowBits c.1 16))

/-- The data, masks and exponents that the fills of some words deliver. -/
def State.fillData (s : State) (ctx clu : Nat) (d : StreamDesc) (x : StreamSt) (f : PageFmt)
    (near : List (Nat × Nat)) (ws : List Nat) : Rd (List (Nat × Nat) × Nat) :=
  let n := d.lanes x
  (Rd.mapM (fun s w => s.fillMask ctx clu d x near w) ws s).bind fun ms s =>
    match d.deliv with
    | .bq8 | .bq16 =>
      let b := if d.deliv = .bq8 then 8 else 16
      (Rd.mapM (fun s w => Rd.mapM (fun s i => s.laneBq ctx clu d x f near w i) (List.range n) s)
        ws s).bind fun rows s =>
          let (vs, ex) := alignGroup (f.efmt ≤ 4) b n rows
          .ok (vs.zip ms, ex) s
    | _ =>
      let b := 512 / max 1 n
      (Rd.mapM (fun s w => (Rd.mapM (fun s i => s.laneOut ctx clu d x f near w i) (List.range n)
        s).bind fun ls s => .ok (joinLanes b ls) s) ws s).bind fun vs s => .ok (vs.zip ms, 0) s

/-- What the fills of some words deliver, or the cause that stops them. -/
def State.fillAll (s : State) (ctx clu : Nat) (d : StreamDesc) (x : StreamSt) (f : PageFmt)
    (near : List (Nat × Nat)) (ws vas : List Nat) : Rd (List (Nat × Nat) × Nat) :=
  match s.foreignVa ctx clu vas with
  | some va => .bad 0x0306#16 va
  | none => s.fillData ctx clu d x f near ws

/-- Words arrive in the window with the frames that they were read from; those already below the tail leave it at once
(08 R236, R243; 11 R320). -/
def StreamDesc.arrive (d : StreamDesc) (cyc : Nat) (x : StreamSt) (ws : List Nat)
    (data : List (Nat × Nat)) (ex : Nat) (frames : Nat → List Nat := fun _ => []) : StreamSt :=
  let put (w : Tab WinWord) (p : Nat × Nat × Nat) : Tab WinWord :=
    let used := x.fills.any fun f => f.word = p.1 && f.used
    Tab.put w p.1 { data := BitVec.ofNat 512 p.2.1, mask := Word.of p.2.2, used := used, frames := frames p.1 }
  let g := groupWords d.deliv
  let exps := if d.decodes && g > 1 then Tab.put x.exps (ws.headD 0 / g) (BitVec.ofNat 1024 ex) else x.exps
  d.settle cyc
    { x with win := (ws.zip data).foldl put x.win, exps := exps,
             filled := accAdd x.filled (64 * ws.length),
             fills := x.fills.filter fun f => !ws.contains f.word }

/-- The words that fail deliver zeros with clear masks; those of one segment share its event (08 R241). -/
def StreamDesc.arriveBad (d : StreamDesc) (cyc : Nat) (x : StreamSt) (ws : List Nat) (page : Option Nat) (c : BitVec 16)
    (i : Nat) : StreamSt :=
  let told : Bool := page.isSome && x.fails.any fun f => f.page = page && f.told
  let fails := ws.map fun w => ({ word := some w, page := page, cause := c, info := i, told := told } : SegFail)
  d.arrive cyc { x with fails := x.fails ++ fails } ws (ws.map fun _ => (0, 0)) 0

/-- The page of the first of some addresses that does not translate for a kernel's read. -/
def State.failPage (s : State) (ctx clu : Nat) (fmt : Option PageFmt) (vas : List Nat) : Option Nat :=
  (vas.find? fun va => match s.kernXlate ctx clu va .read fmt with
    | .bad _ _ => true
    | .ok _ _ => false).map (· / 4096)

/-- The failure of a page that a fill touches, once its fault was ended as not resolvable. -/
def StreamSt.badPage (x : StreamSt) (pages : List Nat) : Option SegFail :=
  x.fails.find? fun f => f.page.any pages.contains

/-- The words that return together with a word. -/
def StreamSt.together (x : StreamSt) (g w : Nat) : List Nat :=
  (x.fills.map Fill.word).filter fun v => v / g = w / g

/-- The line requests of a fill are counted where its pages carry ACNT (11 R330). -/
def State.countFill (s : State) (ctx clu : Nat) (vas : List Nat) : State :=
  ((vas.map (· / 128)).eraseDups).foldl (fun s l =>
    match s.hostXlate ctx clu (128 * l) .read with
    | .hit pa leaf s => if regionOf pa = 2 then s else s.countAccess ctx clu pa (leafAcnt leaf) (cachedPol leaf)
    | .miss _ _ => s) s

/-- The arbiter classes that a fill passes, by its first element (19 R463). -/
def State.fillClasses (s : State) (ctx clu : Nat) (vas : List Nat) : List Nat :=
  match vas with
  | [] => [1]
  | va :: _ =>
    match s.hostXlate ctx clu va .read with
    | .hit pa leaf _ => if regionOf pa = 2 then [0, 1] else 1 :: s.homeClasses clu pa (cachedPol leaf)
    | .miss _ _ => [1]

/-- The 4 KiB frames outside the region's scratchpads that lie behind some addresses (11 R320). -/
def State.framesOf (s : State) (ctx : Nat) (k : Kernel) (vas : List Nat) : List Nat :=
  (vas.filterMap fun va => match s.hostXlate ctx k.cluster va .read with
    | .hit pa _ _ => if (k.coreOfPa pa).isSome then none else some (pa / 4096)
    | .miss _ _ => none).eraseDups

/-- The fill of a word that translates is charged, and its line requests are counted, once; a refused one waits (19
R463, R464). The answer says whether the fill may go on. -/
def State.payFill (s : State) (ctx kh : Nat) (k : Kernel) (d : StreamDesc) (w : Nat) : State × Bool :=
  let key := streamKey d.core d.mpe d.strm
  let x := s.stream ctx kh key
  let vas := s.fillVas ctx d x w
  let open_ : Bool := x.fmt.isNone || vas.any fun va =>
    match s.hostXlate ctx k.cluster va .read with | .miss _ _ => true | .hit _ _ _ => false
  if open_ ∨ x.fills.all fun f => f.word ≠ w || f.paid then (s, true)
  else
    let c := s.cost (s.fillClasses ctx k.cluster vas) 64
    match s.spend k.cluster c (.fill ctx kh key) with
    | none => (s.refuse k.cluster c (.fill ctx kh key), false)
    | some s =>
      let paid (f : Fill) : Fill := if f.word = w then { f with paid := true } else f
      ((s.countFill ctx k.cluster vas).putStream ctx kh key { x with fills := x.fills.map paid }, true)

/-- The fills of some words are charged in order, up to the first that is refused. -/
def State.payFills (s : State) (ctx kh : Nat) (k : Kernel) (d : StreamDesc) (ws : List Nat) : State × Bool :=
  ws.foldl (fun p w => if p.2 then p.1.payFill ctx kh k d w else p) (s, true)

/-- An earlier atomic message of a stream, on a page that is not pending, is still to be sent (08 R242). -/
def Run.atmBefore (r : Run) (key cyc : Nat) : Bool :=
  r.atms.any fun m => m.key = key && m.cyc < cyc && !(r.stream key).pending.contains (m.va / 4096)

/-- The cycles that a fill of the region's scratchpads takes: 4 where every byte lies in the stream's own core, 24 with
bytes of another; none for a fill that touches other memory (13 R353). -/
def State.padTime (s : State) (ctx : Nat) (k : Kernel) (core : Nat) (vas : List Nat) : Option Nat :=
  let cores := vas.map fun va =>
    match s.hostXlate ctx k.cluster va .read with
    | .hit pa _ _ => k.coreOfPa pa
    | .miss _ _ => none
  if vas = [] ∨ cores.contains none then none else some (if cores.all (· = some core) then 4 else 24)

/-- The time of some fills has come by a virtual cycle. -/
def State.fillDue (s : State) (ctx : Nat) (k : Kernel) (d : StreamDesc) (x : StreamSt) (ws vas : List Nat) (by_ : Nat) :
    Bool :=
  match s.padTime ctx k d.core vas with
  | none => true
  | some n => x.fills.all fun f => !ws.contains f.word || f.cyc + n ≤ by_

/-- A fill may return: its issue cycle has ended, no `sbar` holds it, and earlier fills and messages of its stream
wait on a fault (08 R236, R242, R253). -/
def State.fillMayReturn (s : State) (ctx : Nat) (k : Kernel) (d : StreamDesc) (key : Nat)
    (ws : List Nat) : Bool :=
  let x := k.run.stream key
  let blocked (w : Nat) : Bool := (pagesOf (s.fillVas ctx d x w)).any x.pending.contains
  ws ≠ [] && ws.headD 0 % groupWords d.deliv = 0
    && (x.fills.all fun f => !ws.contains f.word || (f.taken && !k.run.held key f.cyc && !k.run.atmBefore key f.cyc))
    && !(ws.any blocked)
    && (x.fills.all fun f => ws.contains f.word || ws.headD 0 ≤ f.word || blocked f.word)

/-- The fills of a word's group return (08 R236 to R241): their data reaches the window, decoded and aligned; or their
fault is posted; or their segment fails. `may` says whether they may, from the words and the addresses they read. -/
def State.returnFills (s : State) (ctx kh : Nat) (d : StreamDesc) (pos : Nat)
    (may : State → Kernel → StreamSt → List Nat → List Nat → Bool) : State :=
  let key := streamKey d.core d.mpe d.strm
  match s.kernel? ctx kh with
  | none => s
  | some k =>
    let (s, wait) := s.fixFmt ctx kh key k d
    let x := s.stream ctx kh key
    match x.fmt with
    | none => s
    | some f =>
      let k := (s.kernel? ctx kh).getD k
      let ws := x.together (groupWords d.deliv) pos
      let vas := ws.flatMap (s.fillVas ctx d x)
      let near := x.fills.flatMap fun g =>
        if ws.contains g.word then g.near ++ s.padBytes ctx k g.pads vas else []
      if wait ∨ ws.headD pos ≠ pos ∨ !s.fillMayReturn ctx k d key ws ∨ !may s k x ws vas then s
      else
        match x.badPage (pagesOf vas) with
        | some b => s.putStream ctx kh key (d.arriveBad k.run.vcc x ws b.page b.cause b.info)
        | none =>
          let (s, paid) := s.payFills ctx kh k d ws
          let x := s.stream ctx kh key
          if !paid then s
          else match (s.asKernel ctx k).fillAll ctx k.cluster d x f near ws vas with
          | .bad c v =>
            if replayable c then s.streamFault ctx kh key v c .read
            else
              let page := if fatalCause c then none else s.failPage ctx k.cluster (some f) vas
              s.putStream ctx kh key (d.arriveBad k.run.vcc x ws page c v)
          | .ok (data, ex) u =>
            let frames (w : Nat) : List Nat := s.framesOf ctx k (s.fillVas ctx d x w)
            (s.after k u).putStream ctx kh key (d.arrive k.run.vcc x ws data ex frames)

/-- STREAM_FILL_RETURN: a fill returns; one of the region's scratchpads alone at its time, earlier only while the
domain is paused (08 R236, 13 R353; log entry 88). -/
def execStreamFillReturn (core : Nat) (m : Bool) (st pos : Nat) (s : State) : Result :=
  let ctx := s.cur.ctx
  let kh := s.cur.kern
  match (s.kernel? ctx kh).bind fun k => (k.strm? (streamKey core m st)).map fun d => (k, d) with
  | none => .next s
  | some (k, d) =>
    if k.state ≠ .running then .next s
    else .next (s.returnFills ctx kh d pos fun s k x ws vas => k.run.paused || s.fillDue ctx k d x ws vas k.run.vcc)

/-- The fills of a stream that read scratchpads of the region alone return in the cycle that their latency gives. -/
def State.padFills (s : State) (ctx kh : Nat) (d : StreamDesc) : Nat → State
  | 0 => s
  | n + 1 =>
    match (s.stream ctx kh (streamKey d.core d.mpe d.strm)).fills with
    | [] => s
    | f :: fs =>
      let pos := fs.foldl (fun m g => min m g.word) f.word
      let t := s.returnFills ctx kh d (pos / groupWords d.deliv * groupWords d.deliv) fun s k x ws vas =>
        (s.padTime ctx k d.core vas).isSome && s.fillDue ctx k d x ws vas (k.run.vcc + 1)
      t.padFills ctx kh d n

/-- Such fills of every stream of a kernel, at the end of a cycle. -/
def State.landFills (s : State) (ctx kh : Nat) : State :=
  match s.kernel? ctx kh with
  | none => s
  | some k => (k.strms.filter fun d => !d.store).foldl (fun s d =>
      s.padFills ctx kh d (s.stream ctx kh (streamKey d.core d.mpe d.strm)).fills.length) s

/-- Fills of a stream take what they read of the region's scratchpads, and are charged (08 R236, 19 R463). -/
def State.takeNow (s : State) (ctx kh key : Nat) (p : Nat → Bool := fun _ => true) : State :=
  match s.kernel? ctx kh with
  | none => s
  | some k =>
    match k.strm? key with
    | none => s
    | some d =>
      let (s, _) := s.fixFmt ctx kh key k d
      let x := s.stream ctx kh key
      let ws := (x.fills.map Fill.word).filter p
      let take (f : Fill) : Fill := if p f.word then s.takeFill ctx k d x f else f
      ((s.putStream ctx kh key { x with fills := x.fills.map take }).payFills ctx kh k d ws).1

/-- At the end of a cycle, the fills issued in it take what they read of the region's scratchpads
(08 R236). -/
def State.takeNear (s : State) (ctx kh : Nat) : State :=
  match s.kernel? ctx kh with
  | none => s
  | some k =>
    k.strms.foldl (fun s d =>
      let key := streamKey d.core d.mpe d.strm
      if (k.run.stream key).fills.any fun f => !f.taken then s.takeNow ctx kh key else s) s

/-! ### Stores -/

/-- The physical address that an access reaches through its leaf, whatever its rights; none without a leaf. -/
def State.aimOf (s : State) (ctx clu va : Nat) : Option Nat :=
  let x := (s.ctx ctx).xl
  match s.tlb.find? fun t => t.covers clu x.asid va with
  | some t => some (s.reach ctx clu t.leaf t.reps t.pa (va - t.va) va)
  | none =>
    match walkFrom s va 5 x.ptroot with
    | .error _ => none
    | .ok (leaf, size) =>
      let r : Replicas := if leafRepl leaf then replicasOf s x leaf else {}
      some (s.reach ctx clu leaf r (leafPfn leaf * 4096 / size * size) (va % size) va)

/-- An address has a cached translation. -/
def State.cached (s : State) (ctx clu va : Nat) : Bool := s.tlb.any fun t => t.covers clu (s.ctx ctx).xl.asid va

/-- Walks for some addresses: their translations are cached. -/
def State.walk (s : State) (ctx clu : Nat) (a : Acc) (vas : List Nat) : State :=
  vas.foldl (fun s va => match s.hostXlate ctx clu va a with | .hit _ _ t => t | .miss _ _ => s) s

/-- Where an element of a store goes: a scratchpad of the region; other memory, for which it translates when it is
written back (08 R240); nowhere since its page failed; or not yet, since its page has a fault, is pending or has not yet
translated. -/
inductive StoreAt where
  | near (core pa : Nat)
  | far
  | drop (cause : BitVec 16) (info : Nat)
  | wait (cause : BitVec 16) (va : Nat)
  | hold
  | walk

/-- Where the element at a virtual address goes (08 R241, R244). An address without a leaf may lie in the region's
scratchpads: it is waited for (log entry 73); an element of a `stx` is wherever it lies (08 R251). -/
def State.storeAt (s : State) (ctx : Nat) (k : Kernel) (x : StreamSt) (va : Nat) (all : Bool := false) : StoreAt :=
  let near : Bool := !(s.ctx ctx).inWindow va && (s.aimOf ctx k.cluster va).all fun pa => (k.coreOfPa pa).isSome
  if !near ∧ !all then .far
  else match x.badPage [va / 4096] with
  | some f => .drop f.cause f.info
  | none =>
    if va / 4096 ∈ x.pending then .hold
    else match s.kernXlate ctx k.cluster va .write x.fmt with
    | .bad c v => if replayable c then .wait c v else .drop c v
    | .ok p _ =>
      if !s.cached ctx k.cluster va then .walk
      else match k.coreOfPa p.1 with
      | some c => .near c p.1
      | none => .far

/-- Bytes gathered by lines of 64 bytes, later bytes prevailing: base, bytes and enables. -/
def byLine (bs : List (Nat × Nat)) : List (Nat × List Nat × List Nat) :=
  ((bs.map (·.1 / 64)).eraseDups).map fun l =>
    let at_ (i : Nat) : Option Nat := (bs.reverse.find? fun b => b.1 = 64 * l + i).map Prod.snd
    (64 * l, (List.range 64).map (fun i => (at_ i).getD 0),
      (List.range 64).map fun i => if (at_ i).isSome then 1 else 0)

/-- A byte of a store to a scratchpad of the region: its core, its physical and its virtual address, its value. -/
structure NearByte where
  core : Nat
  pa : Nat
  va : Nat
  v : Nat

/-- The landings of bytes in the region's scratchpads: at the end of t + `own` in the issuing core's,
t + `other` elsewhere (08 R244, R250, R251). -/
def nearLands (k : Kernel) (key core pe ops own other : Nat) (bs : List NearByte) : List Landing :=
  let vaOf (l : Nat) : Nat := ((bs.find? fun b => b.pa / 64 = l / 64).map fun b => b.va - b.pa % 64).getD 0
  let part (mine : Bool) (l : Nat) : List Landing :=
    (byLine ((bs.filter fun b => (b.core = core) = mine).map fun b => (b.pa, b.v))).map fun x =>
      ⟨k.run.vcc + l, pe, ops, .bytes x.1 x.2.1 x.2.2 (some (key, k.run.vcc, vaOf x.1))⟩
  part true own ++ part false other

/-- A store of some elements, virtual address and bytes each: bytes for the region's scratchpads with
their cores, elements for other memory by their index, failures met; the fault that the op waits
on, an element on a pending page, addresses to walk for. -/
structure StorePlan where
  near : List NearByte := []
  far : List Nat := []
  drops : List (BitVec 16 × Nat) := []
  wait : Option (BitVec 16 × Nat) := none
  held : Bool := false
  walks : List Nat := []

/-- The plan of a store. -/
def State.storePlan (s : State) (ctx : Nat) (k : Kernel) (x : StreamSt)
    (es : List (Nat × Nat × List Nat)) (all : Bool := false) : StorePlan :=
  es.foldl (fun p e =>
    match s.storeAt ctx k x e.2.1 all with
    | .near c pa => { p with near := p.near ++ (List.range e.2.2.length).map fun j =>
        ⟨c, pa + j, e.2.1 + j, nth e.2.2 j 0⟩ }
    | .far => { p with far := p.far ++ [e.1] }
    | .drop c i => { p with drops := p.drops ++ [(c, i)] }
    | .wait c v => { p with wait := p.wait <|> some (c, v) }
    | .hold => { p with held := true }
    | .walk => { p with walks := p.walks ++ [e.2.1] }) {}

/-- The state in which a store waits, if it must: its fault posted, its translations cached. -/
def State.planWait (s : State) (ctx kh key path : Nat) (k : Kernel) (p : StorePlan) : Option State :=
  match p.wait with
  | some (c, a) => some (s.streamFault ctx kh key a c .write path)
  | none =>
    if p.walks ≠ [] then some (s.walk ctx k.cluster .write p.walks)
    else if p.held then some s else none

/-- The elements of word w of a STORE stream with its data: lane, virtual address and bytes. -/
def StreamDesc.storeElems (d : StreamDesc) (x : StreamSt) (w : Nat) (v : Wide) :
    List (Nat × Nat × List Nat) :=
  (List.range (d.lanes x)).filterMap fun i =>
    match d.laneAt x w i with
    | .at_ o => some (i, d.elemVa x o, laneBytes (d.bits x) v i)
    | _ => none

/-- A mask with the bits of a list set. -/
def maskOf (is : List Nat) : Word := is.foldl (fun m i => m ||| (1#64 <<< i)) 0

/-- What writing a word comes to: a wait, or the state, the landings and the change of the round. -/
inductive StoreRes where
  | wait (s : State)
  | go (s : State) (lands : List Landing) (run : Run → Run)

/-- Word w of a STORE stream is written with some data by an op or drain word of a PE (08 R244, R249;
09 R269); `path` is that of its faults. -/
def State.storeWord (s : State) (ctx kh pe ops key w : Nat) (v : Wide) (path : Nat) : StoreRes :=
  match s.kernel? ctx kh with
  | none => .wait s
  | some k =>
    match k.strm? key with
    | none => .go s [] id
    | some d =>
      let (s, wait) := s.fixFmt ctx kh key k d path
      let x := s.stream ctx kh key
      if wait then .wait s
      else if x.failed then .go s [] fun r => r.tellFail pe ops key w
      else
        let p := s.storePlan ctx k x (d.storeElems x w v)
        match s.planWait ctx kh key path k p with
        | some s => .wait s
        | none =>
          let c := s.cost [0] p.near.length
          if p.near.length ≠ 0 ∧ k.run.heldNow key then .wait s
          else match s.spend k.cluster c (.op ctx kh pe) with
          | none => .wait (s.refuse k.cluster c (.op ctx kh pe))
          | some s =>
            let lands := nearLands k key (key / 32) pe ops 3 23 p.near
            let put (r : Run) : Run :=
              let y := r.stream key
              r.putStream key { y with win := Tab.put y.win w { data := v, mask := maskOf p.far, path := path } }
            let tell (r : Run) : Run :=
              match p.drops with
              | [] => r
              | (c, i) :: _ => r.addEvent pe ops 0 c (Word.of i)
            .go s lands fun r => tell (put r)

/-! ### Far stores and messages at the end of a cycle -/

/-- A store of a kernel at home, or into the store buffer in strict mode (05 R147); `va` is the virtual address of its
first byte. -/
def State.kernelStore (s : State) (ctx kh pe pa : Nat) (v en : List Nat) (va : Option Nat := none) : State :=
  match s.kernel? ctx kh with
  | none => s
  | some k =>
    if k.run.strict then s.putKernel ctx kh { k with buffer := k.buffer ++ [.store pe pa v en (va.map (·, false))] }
    else s.store (srcOf ctx (256 + kh)) pa v en

/-- A posted operation of a kernel, or of an engine of it, at a virtual address, or into the store buffer in strict mode
(05 R147; log entry 44). -/
def State.kernelPost (s : State) (ctx kh va : Nat) (b : BankOp) : State :=
  match s.kernel? ctx kh with
  | none => s
  | some k =>
    if k.run.strict then s.putKernel ctx kh { k with buffer := k.buffer ++ [.bank b (some (va, false))] }
    else { s with banks := s.banks ++ [b] }

/-- A failure of the segment of a page, its event raised. -/
def StreamSt.failPage (x : StreamSt) (page : Nat) (c : BitVec 16) (i : Nat) : StreamSt :=
  { x with fails := x.fails ++ [{ page := some page, cause := c, info := i, told := true }] }

/-- Two far stores are of one 64-byte word of one access: they are performed together (13 R361). -/
def FarStore.sameWord (f g : FarStore) : Bool :=
  g.va / 64 = f.va / 64 && g.cyc = f.cyc && g.ready = f.ready && g.back = f.back && g.bad = f.bad && g.path = f.path

/-- Far stores gathered by word, in order. -/
def farGroups : List FarStore → List (List FarStore)
  | [] => []
  | f :: t =>
    match farGroups t with
    | (g :: gs) :: rest => if f.sameWord g then (f :: g :: gs) :: rest else [f] :: (g :: gs) :: rest
    | r => [f] :: r

/-- A 64-byte word, with enables, that far stores write at a physical address; `a` is that of the first. -/
def farBytes (fs : List FarStore) (a : Nat) : List (Nat × List Nat × List Nat) :=
  byLine (fs.flatMap fun f => (List.range f.bytes.length).map fun j => (a / 64 * 64 + f.va % 64 + j, nth f.bytes j 0))

/-- The far stores of a stream whose time has come are performed in order, up to the first that an `sbar`, an earlier
message or the byte budget holds; those on a page with a fault stay, and other segments go on (08 R241, R242, R244). -/
def State.drainFar (s : State) (ctx kh key : Nat) (kept : List FarStore) : List (List FarStore) → State
  | [] => s.putStream ctx kh key { s.stream ctx kh key with far := kept, broke := false }
  | [] :: fs => s.drainFar ctx kh key kept fs
  | (f :: g) :: fs =>
    match s.kernel? ctx kh with
    | none => s
    | some k =>
      let x := k.run.stream key
      let pe := 16 * (key / 32) + (if key % 32 ≥ 16 then 3 else 0)
      let page := f.va / 4096
      let stop (s : State) (broke : Bool) : State :=
        s.putStream ctx kh key { s.stream ctx kh key with far := kept ++ ((f :: g) :: fs).flatten, broke := broke }
      let tell (s : State) (c : BitVec 16) (i : Nat) : State := s.modRun ctx kh (·.addEvent pe 0 0 c (Word.of i))
      if f.ready > k.run.vcc ∨ k.run.held key f.cyc ∨ k.run.atmBefore key f.cyc then stop s false
      else if page ∈ x.pending then s.drainFar ctx kh key (kept ++ f :: g) fs
      else if f.bad.isSome then (tell s 0x0402#16 (f.bad.getD 0)).drainFar ctx kh key kept fs
      else
        match x.badPage [page] with
        | some b =>
          let s := if b.told then s else
            let heard := x.fails.map fun g => if g.page = some page then { g with told := true } else g
            tell (s.putStream ctx kh key { x with fails := heard }) b.cause b.info
          s.drainFar ctx kh key kept fs
        | none =>
          match s.kernXlate ctx k.cluster f.va .write x.fmt with
          | .bad c v =>
            if replayable c then (s.streamFault ctx kh key v c .write f.path).drainFar ctx kh key (kept ++ f :: g) fs
            else (tell (s.putStream ctx kh key (x.failPage page c v)) c v).drainFar ctx kh key kept fs
          | .ok p t =>
            match t.failedAt p.1 f.bytes.length with
            | some ch => (tell t 0x0405#16 ch).drainFar ctx kh key kept fs
            | none =>
              let c := t.cost (t.homeClasses k.cluster p.1 (cachedPol p.2)) ((f :: g).flatMap FarStore.bytes).length
              match t.spend k.cluster c (.far ctx kh key) with
              | none => stop (t.refuse k.cluster c (.far ctx kh key)) true
              | some t =>
                let t := t.countAccess ctx k.cluster p.1 (leafAcnt p.2) (cachedPol p.2)
                let t := (farBytes (f :: g) p.1).foldl (fun t x =>
                  t.kernelStore ctx kh pe x.1 x.2.1 x.2.2 (some (f.va / 64 * 64))) t
                t.drainFar ctx kh key kept fs

/-- The type and operation of an `atm` as its bank performs it (08 R252). -/
def atmBytes (ty : Nat) : Nat := if ty = 7 ∨ ty = 8 then 8 else 4

/-- An earlier far store of a stream, on a page that is not pending, is still to be performed (08 R242). -/
def StreamSt.farBefore (x : StreamSt) (cyc : Nat) : Bool :=
  x.far.any fun f => f.cyc < cyc && !x.pending.contains (f.va / 4096)

/-- An earlier fill of a stream, on no page that is pending, has not returned (08 R242). -/
def State.fillBefore (s : State) (ctx : Nat) (k : Kernel) (key cyc : Nat) : Bool :=
  let x := k.run.stream key
  let open_ (d : StreamDesc) (w : Nat) : Bool := !(pagesOf (s.fillVas ctx d x w)).any x.pending.contains
  x.fills.any fun f => f.cyc < cyc && (k.strm? key).any fun d => open_ d f.word

/-- The atomic messages of a round leave in issue order, each stream's held behind one that waits and behind its earlier
stores and fills (08 R242, R252). The page need not carry the format of the stream's BASE: the data of a message is of
its own type (log entry 92). -/
def State.drainAtms (s : State) (ctx kh : Nat) (stuck : List Nat) : List AtmMsg → State
  | [] => s
  | m :: ms =>
    match s.kernel? ctx kh with
    | none => s
    | some k =>
      let x := k.run.stream m.key
      let drop (s : State) : State :=
        s.modRun ctx kh fun r => { r with atms := r.atms.filter (· ≠ m) }
      let lost (s : State) (c : BitVec 16) (i : Nat) : State :=
        (drop s).modRun ctx kh (·.addEvent m.pe m.ops 0 c (Word.of i))
      if m.key ∈ stuck ∨ k.run.held m.key m.cyc ∨ m.va / 4096 ∈ x.pending ∨ x.farBefore m.cyc ∨
          s.fillBefore ctx k m.key m.cyc then
        s.drainAtms ctx kh (m.key :: stuck) ms
      else
        match s.kernXlate ctx k.cluster m.va .write none with
        | .bad c v =>
          if replayable c then
            (s.streamFault ctx kh m.key v c .atomic).drainAtms ctx kh (m.key :: stuck) ms
          else (lost s c v).drainAtms ctx kh stuck ms
        | .ok p t =>
          if !cachedPol p.2 then (lost t 0x0302#16 m.va).drainAtms ctx kh stuck ms
          else
            let t := t.countAtomic ctx k.cluster p.1 (leafAcnt p.2)
            let op : BankOp := .atm (srcOf ctx (256 + kh)) p.1 m.op m.ty m.value m.pe m.ops
            ((drop t).kernelPost ctx kh m.va op).drainAtms ctx kh stuck ms

/-- Everything that leaves the streams of a kernel at the end of a cycle. -/
def State.drainStreams (s : State) (ctx kh : Nat) : State :=
  match s.kernel? ctx kh with
  | none => s
  | some k =>
    let fars (s : State) : State :=
      (k.run.streams.map Prod.fst).foldl (fun s key => s.drainFar ctx kh key [] (farGroups (s.stream ctx kh key).far)) s
    let s := fars s
    let s := fars (s.drainAtms ctx kh [] ((s.kernel? ctx kh).map fun k => k.run.atms).toList.flatten)
    s.modRun ctx kh fun r =>
      let live (b : SbarHold) : Bool := (List.range 32).any fun j =>
        j % 16 < 12 && b.wait.getLsbD (sbarBit j) && r.outstanding (32 * b.core + j) b.cyc
      { r with sbars := r.sbars.filter live }

/-- Every unwritten word below U is written back: at a boundary and before the kernel retires
(08 R244, R257). -/
def Kernel.flushStores (k : Kernel) : Kernel :=
  let go (key : Nat) (x : StreamSt) : StreamSt :=
    match k.strm? key with
    | some d => d.writeBack k.run.vcc (· < x.u / 64) x
    | none => x
  { k with run := { k.run with streams := Tab.mapVal k.run.streams go } }

/-- No store or message of a round is still to be performed. -/
def Run.quiet (r : Run) : Bool := r.atms.isEmpty && r.streams.all fun e => e.2.far.isEmpty

end Sys2Proof.Machine
end

