-- ==== Sys2Proof/Machine/Kctl.lean ====
section
/-! DEFINITION. Kernel control: `kld`, `kfork`, `krdv`, `karg`, `kstop`, `kres`, `kstat` (05 R152 to
R159), the start of a round (R151, R154) and the events of the waits. -/
namespace Sys2Proof.Machine

/-- The kernel that a register value names in the thread's context (05 R131). -/
def State.handle? (s : State) (v : Word) : Option (Nat × Kernel) :=
  if v.toNat > 255 then none else (s.kernel? s.myCtx v.toNat).map fun k => (v.toNat, k)

/-- The status word of a kernel (05 R159). -/
def Kernel.status (k : Kernel) : Word :=
  Word.of (k.state.code * 2 ^ 60 + (if k.state = .waiting then 0 else k.origin % 128 * 2 ^ 53)
    + (if k.strictRound then 2 ^ 52 else 0) + k.cause.toNat * 2 ^ 32 + k.run.iter % 2 ^ 32)

/-- The thread on the move waits in a state. -/
def State.wait (s : State) (st : ThrSt) : State := s.modMe fun t => { t with st := st }

/-- `kstat` (05 R159). Of a failed load there is no handle, so it answers all ones, where 04 R112 says that it returns
the information of the failure: the model follows 05 R153 and R159 (log entry 84). -/
def execKstat (rd rs1 : Reg) (s : State) : Result :=
  .next (s.retireWith rd (match s.handle? (s.reg rs1) with
    | some (_, k) => k.status
    | none => BitVec.allOnes 64))

/-! ### `kld` (05 R153) -/

/-- The lowest free index of a context's kernel table; which free one a `kld` takes the spec leaves open (05 R153; log
entry 87). -/
def State.freeHandle (s : State) (ctx : Nat) : Option Nat :=
  (List.range 256).find? fun h => (s.kernel? ctx h).isNone

/-- The last two checks of `kld`: a region that can exist, a free entry. -/
def State.acceptKernel (s : State) (ctx clu : Nat) (r : Except LoadErr Kernel) : Except LoadErr (Nat × Kernel) :=
  match r with
  | .error e => .error e
  | .ok k =>
    if !s.fits clu k.desc then .error { cause := 0x0506, info := 8 }
    else match s.freeHandle ctx with
      | none => .error { cause := 0x0506, info := 0xFFFF }
      | some h => .ok (h, { k with order := s.orders })

/-- A checked kernel takes its handle and asks for a region. -/
def State.enter (s : State) (ctx h : Nat) (k : Kernel) : State :=
  ({ s.putKernel ctx h k with orders := s.orders + 1 }.showBars ctx h).requestPass k.cluster

/-- `kld` (05 R153). -/
def execKld (rd rs1 : Reg) (s : State) : Result :=
  ((s.readKernel s.myCtx s.myClu (s.reg rs1).toNat (some s.cur.thr)).host s).andThen fun r s =>
    match s.acceptKernel s.myCtx s.myClu r with
    | .error e => .next (s.retireWith rd e.word)
    | .ok (h, k) => .next ((s.enter s.myCtx h k).retireWith rd (Word.of h))

/-! ### `kfork` (05 R154) -/

/-- The copy records of a fork, from the array of their addresses: launches with their addresses, or
the offset of the first defect. -/
def State.forkLaunches (s : State) (ctx clu : Nat) (own : Option Nat) : List Nat → Rd (Except Nat (List (Nat × Launch)))
  | [] => .ok (.ok []) s
  | a :: t =>
    (s.readLaunch ctx clu a true own).bind fun r s =>
      match r with
      | .error o => .ok (.error o) s
      | .ok l => (s.forkLaunches ctx clu own t).bind fun r s =>
          match r with
          | .error o => .ok (.error o) s
          | .ok ls => .ok (.ok ((a, l) :: ls)) s

/-- What a fork reads: its copy records and its drain images. -/
def State.forkReads (s : State) (ctx : Nat) (k : Kernel) (own : Option Nat := none) :
    Rd (Except Nat (List (Nat × Launch)) × List (List (BitVec 32))) :=
  let d := k.desc
  let nd := if d.drnptr = 0 then 0 else d.cores
  (s.readRecord ctx k.cluster d.copyptr (8 * d.ncopy) own).bind fun b s =>
    (s.forkLaunches ctx k.cluster own ((List.range d.ncopy).map fun i => field b (8 * i) 8)).bind fun r s =>
      (s.readRecord ctx k.cluster d.drnptr (128 * nd) own).bind fun db s =>
        .ok (r, (records db 128 nd).map parseDrain) s

/-- The groups that stop a fork, in the order of GSLOT (14 R381). -/
def State.forkGroup (s : State) (ctx : Nat) (k : Kernel) : Option Nat :=
  k.desc.groups.find? fun g =>
    let st := (s.group ctx g).st
    st ≠ .filled && st ≠ .active && st ≠ .unwound

/-- What a round needs is free: a controller, copy engines and the region's cores (05 R154). -/
def State.forkReady (s : State) (ctx kh : Nat) (k : Kernel) : Bool :=
  s.controllers k.cluster < 16 && k.desc.ncopy ≤ (s.freeEngines ctx k.cluster).length
    && (k.desc.rect k.origin).all fun n =>
      s.allKernels.all fun x => (x.1 = ctx && x.2.1 = kh) || !x.2.2.keeps k.cluster n

/-- The engine of a forked record (10 R286). -/
def State.forkEngine (s : State) (ctx kh : Nat) (k : Kernel) (start e : Nat) (l : Nat × Launch)
    (thr : Option Nat) : State :=
  let x := (s.eng e).launched l.2 l.1 ctx k.desc.groups
  s.putEng e { x with thr := thr, kern := some kh, start := start, queue := k.owner }

/-- The streams of a kernel as its round clears them; their first fills issue (05 R151, 08 R236). -/
def Kernel.freshStreams (k : Kernel) : Tab StreamSt :=
  k.strms.foldl (fun t d =>
    Tab.put t (streamKey d.core d.mpe d.strm) (d.topUp k.run.vcc d.pref { pref := d.pref })) []

/-- The cleared state of a round (05 R151, R154). -/
def Kernel.freshRun (k : Kernel) (drains : List (List (BitVec 32))) (strict : Bool) : Run :=
  { vcc := k.run.vcc, start := k.run.vcc + 24, lim := k.lc, strict := strict, phase := .check,
    streams := k.freshStreams,
    drains := (List.range drains.length).map fun c => (c, { image := nth drains c [] }) }

/-- A FILLED group that a forked kernel names becomes ACTIVE (14 R382). -/
def State.activate (s : State) (ctx : Nat) (gs : List Nat) : State :=
  gs.foldl (fun s g =>
    let x := s.group ctx g
    if x.st = .filled then s.putGroup ctx g { x with st := .active } else s) s

/-- A round starts (05 R154). -/
def State.startRound (s : State) (ctx kh : Nat) (k : Kernel) (ls : List (Nat × Launch))
    (drains : List (List (BitVec 32))) (strict : Bool) (thr : Option Nat) : State :=
  let start := k.run.vcc + 24
  let es := (s.freeEngines ctx k.cluster).take ls.length
  let s := (es.zip ls).foldl (fun s x => s.forkEngine ctx kh k start x.1 x.2 thr) s
  let strict := k.desc.strict || strict
  let run := k.freshRun drains strict
  let n := { k with state := .running, ec := k.desc.stages - 1, run := run, snap := none, buffer := [] }
  let n := { n with used := s.orders, forked := true, stopReq := false, moveReq := false, saveReq := false }
  let n := { n with cause := 0, info := 0, delivered := true, strictRound := strict, engines := es }
  { (s.putKernel ctx kh n).activate ctx k.desc.groups with orders := s.orders + 1 }

/-- STRICT of `kctl` (04 R119). -/
def Thr.strict (t : Thr) : Bool := t.kctl.getLsbD 0

/-- A `kfork` as its thread executes it: it starts the round or waits (05 R154, 19 R474). -/
def State.fork (s : State) (rd rs1 : Reg) : Result :=
  match s.handle? (s.reg rs1) with
  | none => .next (s.retireWith rd (BitVec.allOnes 64))
  | some (kh, k) =>
    if k.state = .waiting ∨ s.pow.hold then .next (s.wait (.kfork kh))
    else if k.state ≠ .loaded ∧ k.state ≠ .retired then
      .next (s.retireWith rd (BitVec.allOnes 64))
    else
      match s.forkGroup s.myCtx k with
      | some g => .next (s.trap 0x0706#16 (Word.of g))
      | none =>
        ((s.forkReads s.myCtx k (some s.cur.thr)).host s).andThen fun r s =>
          match r.1 with
          | .error o => .next (s.trap 0x0602#16 (Word.of o))
          | .ok ls =>
            if s.forkReady s.myCtx kh k then
              let t := s.flushMine.startRound s.myCtx kh k ls r.2 s.me.strict (some s.cur.thr)
              .next (t.retireWith rd (Word.of (k.run.vcc + 24)))
            else .next (s.wait (.kfork kh))

/-- `kfork` (05 R154). -/
def execKfork (rd rs1 : Reg) (s : State) : Result := s.fork rd rs1

/-- FORK_ACCEPTED (05 R154): a thread waiting in `kfork` tries it again. -/
def execForkAccepted (s : State) : Result :=
  match s.me.st with
  | .kfork _ =>
    let t := s.wait .ready
    match t.fetch with
    | .instr (.kfork rd rs1) u => u.fork rd rs1
    | _ => .next t
  | _ => .next s

/-! ### `krdv` (05 R157) -/

/-- A kernel that `krdv` waits for. -/
def State.rdvWaits (s : State) (ctx kh : Nat) (k : Kernel) : Bool :=
  (k.state = .waiting && s.forkWaits ctx kh) || k.state = .running || k.state = .moving

/-- A kernel frozen by a group's abort whose step is still being agreed on: its trap has no information yet
(14 R384, R386). -/
def State.undecided (s : State) (ctx : Nat) (k : Kernel) : Bool :=
  k.state = .frozen && !k.delivered && k.cause = 0x0704#16
    && (s.group ctx (k.info.toNat / 2 ^ 56)).st = .aborting

/-- `krdv` (05 R157, 16 R422). -/
def execKrdv (rd rs1 : Reg) (s : State) : Result :=
  match s.handle? (s.reg rs1) with
  | none => .next (s.retireWith rd (BitVec.allOnes 64))
  | some (kh, k) =>
    if s.rdvWaits s.myCtx kh k || (s.undecided s.myCtx k && !s.me.act) then .next (s.wait (.krdv kh))
    else if k.state = .frozen ∧ !k.delivered ∧ !s.me.act then
      let s := s.putKernel s.myCtx kh { k with delivered := true }
      .next (s.deliver s.cur.thr ⟨k.cause, true, k.info⟩ s.me.pc)
    else .next (s.retireWith rd k.status)

/-- KRDV_WAKE (05 R157): the kernel has left the states that `krdv` waits for, and the thread executes
it again. -/
def execKrdvWake (s : State) : Result :=
  match s.me.st with
  | .krdv kh =>
    match s.kernel? s.myCtx kh with
    | none => .next (s.wait .ready)
    | some k => .next (if s.rdvWaits s.myCtx kh k || (s.undecided s.myCtx k && !s.me.act) then s else s.wait .ready)
  | _ => .next s

/-! ### `karg` (05 R155) -/

/-- The offset of the first defect among the entries of an argument record. -/
def argDefect (cores : Nat) (r : List Byte) : Nat → Option Nat
  | 0 => none
  | n + 1 =>
    match argDefect cores r n with
    | some o => some o
    | none =>
      let o := 0x10 + 16 * n
      let slot := field r (o + 1) 1
      if slot ≠ 0xFF ∧ field r o 1 ≥ cores then some o
      else if slot > 15 ∧ slot ≠ 0xFF then some (o + 1)
      else if field r (o + 2) 6 ≠ 0 then some (o + 2)
      else none

/-- One entry of an argument record applied: a new K or a new LC. -/
def Kernel.applyArg (k : Kernel) (r : List Byte) (e : Nat) : Kernel :=
  let o := 0x10 + 16 * e
  let v := fieldW r (o + 8)
  let slot := field r (o + 1) 1
  if slot = 0xFF then { k with lc := v.toNat }
  else
    let i := 16 * field r o 1 + slot
    let c := nth k.cfg i {}
    { k with cfg := k.cfg.set i { c with k := v } }

/-- An argument record of n entries applied, in entry order. -/
def Kernel.applyArgs (k : Kernel) (r : List Byte) (n : Nat) : Kernel :=
  (List.range n).foldl (fun k e => k.applyArg r e) k

/-- An argument record read: the kernel as it leaves it, or the offset of its first defect. -/
def State.readArgs (s : State) (ctx clu a : Nat) (k : Kernel) (own : Option Nat := none) : Rd (Except Nat Kernel) :=
  (s.readRecord ctx clu a 16 own).bind fun h s =>
    let n := field h 0 4
    if n < 1 ∨ n > 2049 then .ok (.error 0) s
    else if field h 4 12 ≠ 0 then .ok (.error 4) s
    else (s.readRecord ctx clu a (16 + 16 * n) own).bind fun r s =>
      match argDefect k.desc.cores r n with
      | some o => .ok (.error o) s
      | none => .ok (.ok (k.applyArgs r n)) s

/-- `karg` (05 R155). -/
def execKarg (rs1 rs2 : Reg) (s : State) : Result :=
  let a := (s.reg rs2).toNat
  if a % 16 ≠ 0 then .next (s.trap 0x0511#16 (s.reg rs2))
  else
    match s.handle? (s.reg rs1) with
    | none => .next s.retire
    | some (kh, k) =>
      if k.state ≠ .waiting ∧ k.state ≠ .loaded ∧ k.state ≠ .retired then .next s.retire
      else ((s.readArgs s.myCtx s.myClu a k (some s.cur.thr)).host s).andThen fun r s =>
        match r with
        | .error o => .next (s.trap 0x0506#16 (Word.of o))
        | .ok k => .next (s.putKernel s.myCtx kh k).retire

/-! ### `kstop`, `kres` (05 R156, R158) -/

/-- An engine returned to FREE; its serial stays. -/
def Engine.freed (e : Engine) : Engine := { own := e.own, last := e.last, serial := e.serial }

/-- A forked engine when its kernel is released (10 R286). -/
def Engine.release (e : Engine) (ctx kh : Nat) : Engine :=
  if e.own = some ctx ∧ e.kern = some kh then
    if e.st = .done ∨ e.st = .faulted ∨ e.bound = some .done ∨ e.bound = some .faulted then { e with kern := none }
    else e.freed
  else e

/-- The kernel whose barrier a thread waits on in `bwait`, or, woken, has still to look at again (15 R392, R398). -/
def Thr.bwaits (t : Thr) (ctx kh : Nat) : Bool :=
  t.ctx = ctx && (t.st = .bwait || (t.st = .ready && t.again)) && t.token.any fun k => (k.1.extractLsb' 14 8).toNat = kh

/-- The waits in `bwait` on a kernel's barriers end with 0x0701 (15 R398); a thread of a context that does not run
executes its instruction afresh when it resumes (16 R417). -/
def State.endBwaits (s : State) (ctx kh : Nat) : State :=
  ((s.thrs.filter fun t => t.2.bwaits ctx kh).map Prod.fst).foldl (fun s t =>
    if (s.ctx ctx).st = .running then
      (s.modThr t fun h => { h with watch := {}, again := false }).trapThr t 0x0701#16 (((s.thr t).token.map Prod.fst).getD 0)
    else s.modThr t fun h => { h with st := .ready, again := false }) s

/-- A kernel released: its handle, its context slots and its forked parts (05 R156). -/
def State.releaseKernel (s : State) (ctx kh : Nat) (k : Kernel) : State :=
  let c := s.ctx ctx
  let s := (s.putCtx ctx { c with kernels := Tab.del c.kernels kh }).endBwaits ctx kh
  let engs := Tab.mapVal s.engs fun _ e => e.release ctx kh
  let thrs := Tab.mapVal s.thrs fun _ t =>
    if t.ctx = ctx ∧ (t.st = .kfork kh ∨ t.st = .krdv kh) then { t with st := .ready } else t
  ({ s with engs := engs, thrs := thrs }).requestPass k.cluster

/-- `kstop` (05 R156). -/
def execKstop (rs1 : Reg) (s : State) : Result :=
  match s.handle? (s.reg rs1) with
  | none => .next s.retire
  | some (kh, k) =>
    match k.state with
    | .running | .moving => .next (s.putKernel s.myCtx kh { k with stopReq := true }).retire
    | .saved => .next s.retire
    | _ => .next (s.releaseKernel s.myCtx kh k).retire

/-- The groups of a list whose abort is in progress, each with its step. -/
def State.aborting (s : State) (ctx : Nat) (gs : List Nat) : List (Nat × Word) :=
  (gs.filter fun g => (s.group ctx g).st = .aborting).map fun g => (g, (s.group ctx g).cstep)

/-- A kernel goes on from its boundary with its forked parts (05 R133, R158); a member of a group that aborts freezes
anew (14 R384). -/
def State.resumeKernel (s : State) (ctx kh : Nat) (k : Kernel) : State :=
  let gs := s.aborting ctx k.desc.groups
  let n := gs.foldl (fun k g => k.abortGroup g.1 g.2) { k with state := .running, delivered := true }
  let go (e : Engine) : Engine :=
    if e.own = some ctx ∧ e.kern = some kh then gs.foldl (fun e g => e.abortGroup ctx g.1) (e.resume ctx kh) else e
  { s.putKernel ctx kh n.refillAll with engs := Tab.mapVal s.engs fun _ e => go e }

/-- `kres` (05 R158). -/
def execKres (rs1 : Reg) (s : State) : Result :=
  match s.handle? (s.reg rs1) with
  | none => .next s.retire
  | some (kh, k) =>
    if k.state = .stopped ∨ k.state = .frozen then .next (s.resumeKernel s.myCtx kh k).retire
    else .next s.retire

end Sys2Proof.Machine
end

