-- ==== Sys2Proof/Machine/Vetar.lean ====
section
/-! DEFINITION. Vetar messages, shared by every sender and receiver: endpoints and destination handles
(18 R451, R454), ports and pins (R457), sending, acceptance at the peer and performance there (R453,
R455), and lost paths (R459). -/
namespace Sys2Proof.Machine

/-! ### Endpoints and handles -/

/-- The valid endpoint of a context at an index (18 R451). -/
def State.endpoint (s : State) (ctx ep : Nat) : Option Endpoint :=
  (Tab.get? (s.ctx ctx).eps ep).filter (·.valid)

/-- The window of an endpoint holds an address (18 R452). -/
def Endpoint.holds (e : Endpoint) (va : Nat) : Bool :=
  va < 2 ^ 57 && e.vbase ≤ va && va < e.vbase + e.npg * 65536

/-- The endpoint of a context whose window holds an address: its index and entry. -/
def Ctx.windowOf (c : Ctx) (va : Nat) : Option (Nat × Endpoint) :=
  c.eps.find? fun e => e.2.valid && e.2.holds va

/-- What a destination handle names: the endpoint's index and entry, and the data slot and counter at
the peer (18 R454); none for an invalid handle. -/
def State.sigTarget (s : State) (ctx : Nat) (h : Word) : Option (Nat × Endpoint × Nat × Nat) :=
  let ep := (h.extractLsb' 0 8).toNat
  let d := 64 * (h.extractLsb' 8 24).toNat
  let c := 8 * (h.extractLsb' 32 24).toNat
  match s.endpoint ctx ep with
  | none => none
  | some e =>
    if h.extractLsb' 56 8 ≠ 0#8 ∨ e.npg = 0 ∨ d + 64 > e.npg * 65536 ∨ c + 8 > e.npg * 65536 then none
    else some (ep, e, e.rbase + d, e.rbase + c)

/-! ### Ports (18 R457) -/

/-- A port carries traffic. -/
def Port.usable (p : Port) : Bool := p.st = .up || p.st = .shedding || p.st = .degraded

/-- A port carries traffic and is not masked (17 R443). -/
def State.portOpen (s : State) (p : Nat) : Bool := (s.port p).usable && !s.portMask.getLsbD p

/-- The first open port from a start on, wrapping. -/
def State.firstPort (s : State) (start : Nat) : Option Nat :=
  ((List.range 64).map fun i => (start + i) % 64).find? s.portOpen

/-- The port at which the search of an endpoint starts. -/
def Endpoint.start (e : Endpoint) : Nat := (e.pkgid.toNat % 2 ^ 17 + 8 * e.vc) % 64

/-- The cause when no port qualifies: 0x0802 if some port was skipped only for its mask. -/
def State.noPort (s : State) : BitVec 16 :=
  if (List.range 64).any fun p => (s.port p).usable then 0x0802#16 else 0x0801#16

/-- The port that a message of an endpoint takes, with the pin of an ordered stream kept; unordered messages
spray over every open port, and which one takes a message is left open (log entry 2). -/
def State.route (s : State) (ctx : Nat) (e : Endpoint) : Option (Nat × State) :=
  if !e.ord then
    let ps := (List.range 64).filter s.portOpen
    let w := (Config.freeWord s.draws).toNat
    if ps = [] then none else some (nth ps (w % ps.length) 0, { s with draws := s.draws + 1 })
  else
    let c := s.ctx ctx
    let mine (x : Word × Nat × Nat) : Bool := x.1 = e.pkgid && x.2.1 = e.vc
    match (c.pins.find? fun x => mine x && s.portOpen x.2.2) with
    | some x => some (x.2.2, s)
    | none =>
      (s.firstPort e.start).map fun p =>
        let pins := (e.pkgid, e.vc, p) :: c.pins.filter fun x => !mine x
        (p, s.putCtx ctx { c with pins := pins })

/-- A path to a peer fails: fatal to every group with that package among its records (14 R383,
18 R459). -/
def State.pathFailed (s : State) (peer : Word) : State :=
  s.ctxs.foldl (fun s c => c.2.groups.foldl (fun s g =>
    if (g.2.remotes.map Prod.fst).contains peer then s.abortGroup c.1 g.1 0x0801#16 s.pkgid else s) s) s

/-! ### Sending -/

/-- A message enters egress; or the cause that stops it, in the state that it leaves (18 R456, R457). -/
def State.send (s : State) (sender : Sender) (ctx ep : Nat) (e : Endpoint) (kind : MsgKind)
    (va ctr local_ : Nat) (fmt : Option PageFmt := none) : Except (BitVec 16 × State) State :=
  match s.route ctx e with
  | none => .error (s.noPort, s.pathFailed e.pkgid)
  | some (p, s) =>
    let c := s.ctx ctx
    let m : Msg := { id := s.msgIds, sender := sender, src := s.pkgid, dst := e.pkgid, sctx := ctx,
                     rctx := e.rctx, ep := ep, kind := kind, va := va, ctr := ctr, local_ := local_,
                     port := p, ord := e.ord, vc := e.vc, gen := c.gen, fmt := fmt }
    .ok { s with msgs := s.msgs ++ [m], msgIds := s.msgIds + 1 }

/-- An endpoint replaced; its read-only fields are written to the table in memory, where the context has one (18 R447,
R451). -/
def State.putEndpoint (s : State) (ctx ep : Nat) (e : Endpoint) : State :=
  let c := s.ctx ctx
  let s := s.putCtx ctx { c with eps := Tab.put c.eps ep e }
  let base := (Tab.getD s.epbase ctx 0).toNat
  if base = 0 then s
  else (s.sysPoke (base + 64 * ep + 0x1E) 2 e.lcause.toNat).sysPoke (base + 64 * ep + 0x20) 8 e.nfail.toNat

/-- A failed message of an SPE: it is counted in its endpoint (18 R456). -/
def State.speFailed (s : State) (ctx ep : Nat) (cause : BitVec 16) : State :=
  let e := Tab.getD (s.ctx ctx).eps ep {}
  s.putEndpoint ctx ep { e with lcause := cause, nfail := accAdd e.nfail 1 }

/-- The message of an SPE leaves its core (07 R220): word B with LEN 8, addend C. A handle that names
no endpoint counts in the entry of its index. -/
def State.sendSpe (s : State) (ctx : Nat) (dest data addend : Word) : State :=
  match s.sigTarget ctx dest with
  | none => s.speFailed ctx (dest.extractLsb' 0 8).toNat 0x0302#16
  | some (ep, e, d, c) =>
    match s.send .spe ctx ep e (.signal (bytesOf data.toNat 8) addend) d c dest.toNat with
    | .ok s => s
    | .error (cause, s) => s.speFailed ctx ep cause

/-! ### At the peer (18 R453, R455) -/

/-- A context that accepts requests of other packages. -/
def CtxSt.accepts : CtxSt → Bool
  | .ready | .running | .frozen | .saved | .restoring => true
  | _ => false

/-- The cause with which the peer refuses a request before it looks at addresses, if any. -/
def State.refuses (s : State) (m : Msg) : Option (BitVec 16) :=
  let c := s.ctx m.rctx
  if !c.st.accepts then some 0x0301#16
  else if c.eps.any fun e => e.2.valid && e.2.pkgid = m.src && e.2.rctx = m.sctx then none
  else some 0x0302#16

/-- The physical addresses of n bytes of the peer context, or the cause of the first that fails; an
integrity error of a read fails it too, a failed channel, and a page of another format (10 R284, 13 R378). -/
def State.peerPas (s : State) (ctx : Nat) (a : Acc) (fmt : Option PageFmt) (va : Nat) :
    Nat → Except (BitVec 16) (List (Nat × Word) × State)
  | 0 => .ok ([], s)
  | n + 1 =>
    match s.engXlate ctx 0 va a fmt with
    | .bad c _ => .error c
    | .ok p s =>
      match (if a = .write then (s.failedAt p.1 1).map fun ch => (0x0405#16, ch) else s.readError p.1 1) with
      | some e => .error e.1
      | none =>
        match s.peerPas ctx a fmt (va + 1) n with
        | .error c => .error c
        | .ok (ps, s) => .ok (p :: ps, s)

/-- The bits of a byte that a mask names replaced. -/
def maskByte (old v m : Nat) : Nat := (old &&& (255 - m % 256)) ||| (v &&& m % 256)

/-- Bytes stored under masks of bits at physical addresses; a device register by the instruction of its write. -/
def State.storeBytes (s : State) (src : Nat) (pas v mask : List Nat) : State :=
  let whole (j p : Nat) : Nat × Nat :=
    (p, if nth mask j 0 = 255 then nth v j 0 else maskByte (s.load p 1).1 (nth v j 0) (nth mask j 0))
  let bs := ((List.range pas.length).zip pas).filter fun x => nth mask x.1 0 ≠ 0
  if regionOf (pas.headD 0) = 3 then s.devStore (pas.headD 0) pas.length (ofBytes v)
  else s.storeRuns src (bs.map fun x => whole x.1 x.2)

/-- A saturating 64-bit counter add at a physical address, as a pool-bank atomic (10 R298). -/
def State.counterAdd (s : State) (pa : Nat) (v : Word) : State :=
  let (old, s) := s.load pa 8
  s.pokeLE pa 8 (min (old + v.toNat) (2 ^ 64 - 1))

/-- What a counter of a context answers to an add: its physical address, or the cause (10 R298). -/
def State.counterPlace (s : State) (ctx clu va : Nat) : Rd Nat :=
  match s.hostXlate ctx clu va .atomic with
  | .miss c a => .bad c a
  | .hit pa _ s =>
    match s.readError pa 8 with
      | some (c, i) => .bad c i
      | none => .ok pa s

/-- What the peer returns behind the bytes of a read: the format index, CODEC and the element format of
the page, 16 more for an invalid descriptor, and the FP32 scale of the element at an address (18 R452, 02 R57). -/
def State.peerFormat (s : State) (ctx : Nat) (leaf : Word) (at_ : Option Nat) :
    Except (BitVec 16) (List Byte) :=
  let f := s.pageFmt ctx leaf
  match (if f.codec then none else s.fmtError ctx f.idx) with
  | some e => .error e.1
  | none =>
  let d := s.fmtDesc ctx f.idx
  let efmt := if d.ok ∨ f.codec then f.efmt else 16 + f.efmt % 16
  let tail (sc : Nat) : List Byte :=
    [BitVec.ofNat 8 f.idx, if f.codec then 1 else 0, BitVec.ofNat 8 efmt] ++ (bytesOf sc 4).map (BitVec.ofNat 8)
  if f.codec ∨ !d.ok ∨ d.splace = 0 then .ok (tail 0x3F800000)
  else match at_.map fun a => d.scaleAddr a with
    | none => .ok (tail 0x3F800000)
    | some none => .error 0x0121#16
    | some (some sa) =>
      match s.engRead ctx 0 none [] ((List.range 4).map (sa + ·)) with
      | .bad c _ => .error c
      | .ok v _ => .ok (tail v)

/-- The request of a message performed at this package: a cause, zero when performed, and the data
read. -/
def State.performMsg (s : State) (m : Msg) : (BitVec 16 × List Byte) × State :=
  let src := srcOf m.rctx 2048
  match s.refuses m with
  | some c => ((c, []), s)
  | none =>
    match m.kind with
    | .signal data addend =>
      match s.peerPas m.rctx .write m.fmt m.va data.length with
      | .error c => ((c, []), s)
      | .ok (ps, s) =>
        match s.counterPlace m.rctx 0 m.ctr with
        | .bad c _ => ((c, []), s)
        | .ok pa s =>
          let s := (s.storeBytes src (ps.map Prod.fst) data (data.map fun _ => 255)).drainBanks fun b => b.src = src
          ((0, []), s.counterAdd pa addend)
    | .write bytes mask =>
      match s.peerPas m.rctx .write m.fmt m.va bytes.length with
      | .error c => ((c, []), s)
      | .ok (ps, s) => ((0, []), s.storeBytes src (ps.map Prod.fst) bytes mask)
    | .read n at_ =>
      match s.peerPas m.rctx .read m.fmt m.va n with
      | .error c => ((c, []), s)
      | .ok (ps, s) =>
        let one (x : List Byte × State) (p : Nat × Word) : List Byte × State :=
          let (v, s) := x.2.load p.1 1
          (x.1 ++ [BitVec.ofNat 8 v], s)
        let pa := ((ps.head?).map Prod.fst).getD 0
        let (bs, s) := if regionOf pa = 3 then
            let (v, s) := s.loadAny pa n
            ((bytesOf v n).map (BitVec.ofNat 8), s)
          else ps.foldl one ([], s)
        match s.peerFormat m.rctx (((ps.head?).map Prod.snd).getD 0) at_ with
        | .error c => ((c, []), s)
        | .ok tail => ((0, bs ++ tail), s)
    | .redu n v =>
      match s.peerPas m.rctx .write m.fmt m.va n with
      | .error c => ((c, []), s)
      | .ok (ps, s) =>
        let p := (ps.head?).getD (0, 0)
        let f := s.pageFmt m.rctx p.2
        let float : Bool := !f.codec && f.efmt = 0xB
        if !cachedPol p.2 then ((0x0302#16, []), s)
        else if regionOf p.1 = 2 ∨ (!float ∧ !f.codec ∧ f.efmt ≠ 0) then ((0x0603#16, []), s)
        else match s.readError p.1 n with
          | some e => ((e.1, []), s)
          | none =>
            let (old, s) := s.load p.1 n
            ((0, []), s.pokeLE p.1 n (if float then faddResult old v else (old + v) % 2 ^ (8 * n)))
    | .add v =>
      match s.counterPlace m.rctx 0 m.va with
      | .bad c _ => ((c, []), s)
      | .ok pa s =>
        let s := s.drainBanks fun b => b.src = src
        ((0, []), s.counterAdd pa v)

/-- Messages of a port are lost: they may or may not have been performed; their senders learn 0x0801,
and a failure of the path is fatal to groups (18 R459). -/
def State.losePort (s : State) (p : Nat) : State :=
  let lost := s.msgs.filter fun m => m.port = p && m.src = s.pkgid
  let fail (m : Msg) : Msg :=
    if m.port = p ∧ m.src = s.pkgid then { m with answer := some (0x0801#16, []) } else m
  let s := { s with msgs := s.msgs.map fail }
  let s := { s with ctxs := Tab.mapVal s.ctxs fun _ c =>
    { c with pins := c.pins.filter fun x => x.2.2 ≠ p } }
  (lost.map Msg.dst).eraseDups.foldl State.pathFailed s

end Sys2Proof.Machine
end

