-- ==== Sys2Proof/Machine/Transfer.lean ====
section
/-! DEFINITION. What a copy engine does with one element: formats of buffers (10 R284), reads and writes
of elements, masks and counters through translation or over Vetar (R287 to R298, R302; 18 R452, R453),
and the ways an engine stops (R303, R304). -/
namespace Sys2Proof.Machine

/-! ### Answers -/

/-- What a piece of a copy comes to: a value; a wait on a fault record, a peer, a budget or a moving
region; or a cause that makes the engine FAULTED, with its information. -/
inductive CRes (α : Type) where
  | ok (v : α) (s : State)
  | wait (s : State)
  | fault (cause : BitVec 16) (info : Nat) (s : State)

/-- An answer used to go on. -/
def CRes.bind {α β : Type} (x : CRes α) (f : α → State → CRes β) : CRes β :=
  match x with
  | .ok v s => f v s
  | .wait s => .wait s
  | .fault c i s => .fault c i s

/-- The entry on the move: engine, context, cluster, kind, entry, launch, and the kernel that forked
it. -/
structure CEnv where
  en : Nat
  ctx : Nat
  clu : Nat
  kind : Nat
  ent : CopyEnt
  l : Launch
  kern : Option Nat
  /-- the bytes were charged when the beat was issued -/
  paid : Bool := false

/-- The surroundings of an entry on an engine; none when no context holds the engine. -/
def State.cenv (s : State) (en kind : Nat) (e : CopyEnt) : Option CEnv :=
  let x := s.eng en
  x.own.map fun ctx => ⟨en, ctx, en / 16, kind, e, x.launch, x.kern, false⟩

/-- The source of an engine's posted operations. -/
def CEnv.src (c : CEnv) : Nat := srcOf c.ctx (1024 + c.en)

/-- A cause met by an engine: a replayable one posts a record and the engine waits (10 R304). -/
def State.copyFail {α : Type} (s : State) (c : CEnv) (a : Acc) (cause : BitVec 16) (info : Nat) : CRes α :=
  if replayable cause then
    .wait (s.raiseFault c.ctx info cause 2 (faultUnit c.clu (c.en % 16)) a.bit (.copy c.en))
  else .fault cause info s

/-- A read or a translation of an engine. -/
def CEnv.lift {α : Type} (c : CEnv) (s : State) (a : Acc) (x : Rd α) : CRes α :=
  match x with
  | .ok v s => .ok v s
  | .bad cause info => s.copyFail c a cause info

/-- The engine waits on a fault record. -/
def State.copyStalled (s : State) (ctx en : Nat) : Bool :=
  (s.ctx ctx).faults.any fun f => f.waiters.contains (.copy en)

/-- An entry that is invalid (04 R113), and one that converts what it cannot (10 R290, R291). -/
def State.entryFault {α : Type} (s : State) (c : CEnv) (cause : BitVec 16) : CRes α :=
  .fault cause (s.eng c.en).entry s

/-- Bytes charged to the cluster's budget, or a wait (19 R463, R464). -/
def State.copySpend (s : State) (c : CEnv) (classes : List Nat) (n : Nat) : CRes Unit :=
  if c.paid then .ok () s
  else match s.spend c.clu (s.cost classes n) (.engine c.en) with
  | some s => .ok () s
  | none => .wait (s.refuse c.clu (s.cost classes n) (.engine c.en))

/-- The arbiter classes of an engine's access to an address through a leaf (19 R463). -/
def State.copyClasses (s : State) (clu pa : Nat) (leaf : Word) : List Nat :=
  if regionOf pa = 2 then [0] else s.homeClasses clu pa (cachedPol leaf)

/-! ### Over Vetar (18 R452, R453) -/

/-- A request to the peer of a window, sent once under a key; its answer once it has come back. -/
def State.ask (s : State) (c : CEnv) (key ep : Nat) (e : Endpoint) (kind : MsgKind) (va n : Nat)
    (fmt : Option PageFmt) : CRes (List Byte) :=
  let x := s.eng c.en
  let tag := x.serial + 2 ^ 16 * key
  match Tab.get? x.replies key with
  | some r => .ok r s
  | none =>
    if s.msgs.any fun m => m.sender = .engine c.en && m.local_ = tag then .wait s
    else
      (s.copySpend c [4] (n + 8)).bind fun _ s =>
        match s.send (.engine c.en) c.ctx ep e kind (e.rbase + (va - e.vbase)) 0 tag fmt with
        | .ok s => .wait s
        | .error (cause, s) => .fault cause va s

/-- The page format in the answer to a read, behind its n bytes. -/
def replyFmt (r : List Byte) (n : Nat) : PageFmt :=
  { idx := field r n 1, codec := field r (n + 1) 1 = 1, efmt := field r (n + 2) 1 % 16 }

/-- The scale in the answer to a read; none behind an invalid descriptor (02 R58). -/
def replyScale (r : List Byte) (n : Nat) : Option Val :=
  if field r (n + 2) 1 < 16 then some (Fmt.f32.dec (field r (n + 3) 4)) else none

/-- The keys of an engine's requests: those of an element, and those of its flights. -/
def elemKey (elem j : Nat) : Nat := 64 * elem + j
/-- The key of a flight's request. -/
def flightKey (j : Nat) : Nat := 2 ^ 100 + j

/-- Answers no longer needed. -/
def Engine.forget (x : Engine) (flight : Bool) : Engine :=
  { x with replies := x.replies.filter fun r => (r.1 < flightKey 0) = flight }

/-- A function applied to an engine. -/
def State.modEng (s : State) (e : Nat) (f : Engine → Engine) : State := s.putEng e (f (s.eng e))

/-! ### Formats (10 R284) -/

/-- The access class that finds a format: a reduction looks as a write does, and shows as an atomic in a fault record
(11 R327). -/
def Acc.plain : Acc → Acc
  | .atomic => .write
  | a => a

/-- The element format of a buffer, fixed at its first touch. -/
def State.copyFmt (s : State) (c : CEnv) (i : Nat) (a : Acc) : CRes PageFmt :=
  let b := c.l.buf i
  match Tab.get? (s.eng c.en).fmts i with
  | some f => .ok f s
  | none =>
    (match (s.ctx c.ctx).windowOf b.base with
     | some (ep, e) =>
       (s.ask c (elemKey (s.eng c.en).elem (16 + i)) ep e (.read 1 none) b.base 1 none).bind fun r s =>
         .ok (replyFmt r 1) s
     | none =>
       (c.lift s a (s.baseFmt c.ctx c.clu b.base a.plain)).bind fun f s => .ok f.1 s).bind fun f s =>
    if f.eszOk b.esz then .ok f (s.modEng c.en fun x => { x with fmts := Tab.put x.fmts i f })
    else .fault 0x0120#16 f.idx s

/-! ### Reading an element -/

/-- The swizzle of a buffer. -/
def Buf.swizzleMask (b : Buf) : Option Word := if b.swz then some b.swzm else none

/-- Memory as an engine reads it: one forked with a strict round sees its store buffer (05 R147). -/
def State.asEngine (s : State) (c : CEnv) : State :=
  match c.kern.bind fun kh => s.kernel? c.ctx kh with
  | some k => s.asKernel c.ctx k
  | none => s

/-- The state after such a read. -/
def State.afterEngine (s : State) (c : CEnv) (t : State) : State :=
  match c.kern.bind fun kh => s.kernel? c.ctx kh with
  | some k => s.after k t
  | none => t

/-- A read of an engine as memory stands for it. -/
def State.copyLook {α : Type} (s : State) (c : CEnv) (f : State → Rd α) : CRes α :=
  match f (s.asEngine c) with
  | .ok v t => .ok v (s.afterEngine c t)
  | .bad cause info => s.copyFail c .read cause info

/-- Where the bytes at an address lie: a charge for n bytes, once the region of a scratchpad stands
still. -/
def State.copyCharge (s : State) (c : CEnv) (a : Acc) (va n : Nat) : CRes Unit :=
  (c.lift s a (s.engXlate c.ctx c.clu va a none)).bind fun p s =>
    if s.movingAt c.ctx p.1 then .wait s else s.copySpend c (s.copyClasses c.clu p.1 p.2) n

/-- The engine's own write-combining buffer drains where it overlaps what the engine reads (13 R356), and the lines read
are counted (11 R330). -/
def State.copyOwn (s : State) (c : CEnv) (vas : List Nat) : State :=
  let s := vas.foldl (fun s va =>
    match s.engXlate c.ctx c.clu va .read none with
    | .ok p s => s.ownRead (128 + c.en) p.1 1
    | .bad _ _ => s) s
  ((vas.map (· / 128)).eraseDups).foldl (fun s l =>
    match s.engXlate c.ctx c.clu (128 * l) .read none with
    | .ok p s => if regionOf p.1 = 2 then s else s.countAccess c.ctx c.clu p.1 (leafAcnt p.2) (cachedPol p.2)
    | .bad _ _ => s) s

/-- The code of an element and its scale, from a peer: whole bytes at once, six bits byte by byte. -/
def State.remoteElem (s : State) (c : CEnv) (key ep : Nat) (e : Endpoint) (f : PageFmt)
    (at_ : Option Nat) (vas : List Nat) (sh bits : Nat) : CRes (Nat × Option Val) :=
  match (if bits = 6 then vas else []) with
  | [a, b] =>
    (s.ask c key ep e (.read 1 at_) a 1 (some f)).bind fun r s =>
      (s.ask c (key + 1) ep e (.read 1 none) b 1 (some f)).bind fun r2 s =>
        .ok ((field r 0 1 + 256 * field r2 0 1) / 2 ^ sh % 2 ^ bits, replyScale r 1) s
  | _ =>
    let n := vas.length
    (s.ask c key ep e (.read n at_) (vas.headD 0) n (some f)).bind fun r s =>
      .ok (field r 0 n / 2 ^ sh % 2 ^ bits, replyScale r n) s

/-- The element at an offset of a buffer: its bits (10 R290). -/
def State.copyRaw (s : State) (c : CEnv) (key i : Nat) (f : PageFmt) (o : Int) : CRes Nat :=
  let b := c.l.buf i
  let bits := f.bits b.esz
  let (vas, sh) := elemBytes b.base bits b.swizzleMask o
  match (s.ctx c.ctx).windowOf (vas.headD 0) with
  | some (ep, e) => (s.remoteElem c key ep e f none vas sh bits).bind fun r s => .ok r.1 s
  | none =>
    (s.copyCharge c .read (vas.headD 0) vas.length).bind fun _ s =>
      (s.copyOwn c vas).copyLook c fun s => s.elemRaw c.ctx c.clu f [] b.base bits b.swizzleMask o

/-- The decoded and scaled element at an offset of a buffer (10 R291, 18 R452). -/
def State.copyVal (s : State) (c : CEnv) (key i : Nat) (f : PageFmt) (o : Int) : CRes Val :=
  let b := c.l.buf i
  let bits := f.bits b.esz
  let (vas, sh) := elemBytes b.base bits b.swizzleMask o
  match (s.ctx c.ctx).windowOf (vas.headD 0) with
  | some (ep, e) =>
    let at_ := lowBits (elemAddr b.base bits o - e.vbase + e.rbase) 64
    (s.remoteElem c key ep e f (some at_) vas sh bits).bind fun r s =>
      match r.2 with
      | some scale => .ok (valScaled (decodeElem f.code r.1) scale) s
      | none => .fault 0x0120#16 f.idx s
  | none =>
    (s.copyCharge c .read (vas.headD 0) vas.length).bind fun _ s =>
      (s.copyOwn c (s.elemVas c.ctx f true b.base bits b.swizzleMask o)).copyLook c fun s =>
        s.elemVal c.ctx c.clu f [] b.base bits b.swizzleMask o

/-! ### Writing -/

/-- The physical address in the shadow backing of a published buffer (10 R302, 13 R372); none for an
address outside the buffer. -/
def Ctx.shadowPa (x : Ctx) (h va : Nat) : Option Nat :=
  match Tab.get? x.pubs h with
  | some p =>
    if p.valid ∧ p.vabase ≤ va ∧ va < p.vabase + p.npg * 65536 then
      some ((if p.cur then p.p0 else p.p1) + (va - p.vabase))
    else none
  | none => none

/-- Where a byte of a write lies: the address behind translation, or in the shadow, whose frame must agree with the
leaf (13 R372). -/
def State.shadowPlace (s : State) (ctx clu : Nat) (fmt : Option PageFmt) (shadow : Option Nat) (va : Nat) :
    Rd (Nat × Word) :=
  (s.engXlate ctx clu va .write fmt).bind fun p s =>
    match shadow.bind fun h => (s.ctx ctx).shadowPa h va with
    | some pa =>
      if !s.paOk ctx pa Acc.write.rights then .bad 0x0306#16 va
      else if !s.framesAgree p.2 (pa / 4096 * 4096) 4096 then .bad 0x0303#16 va
      else .ok (pa, p.2) s
    | none => .ok p s

/-- Where a byte that an engine writes lies, behind the publishes that a strict round still holds (13 R373). -/
def State.writePlace (s : State) (c : CEnv) (fmt : Option PageFmt) (shadow : Option Nat) (va : Nat) :
    Rd (Nat × Word) :=
  match (s.asEngine c).shadowPlace c.ctx c.clu fmt shadow va with
  | .ok p t => .ok p (s.afterEngine c t)
  | .bad cause info => .bad cause info

/-- Bytes of an engine stored at physical addresses through a leaf under masks of bits: as one store where they lie in
a row (10 R300, R302; 13 R356); `vas` are their virtual addresses, none for those of a shadow. -/
def State.copyStore (s : State) (c : CEnv) (leaf : Word) (vas pas v mask : List Nat) : State :=
  let pa := pas.headD 0
  let s := s.countAccess c.ctx c.clu pa (leafAcnt leaf && leafPol leaf ≠ 3) (cachedPol leaf)
  let s := pas.foldl (fun s a => if mask.all (· = 255) then s else s.ownRead (128 + c.en) a 1) s
  let old (a : Nat) : Nat := ((s.asEngine c).load a 1).1
  let bytes := (List.range pas.length).map fun j =>
    (nth pas j 0, if nth mask j 0 = 255 then nth v j 0 else maskByte (old (nth pas j 0)) (nth v j 0) (nth mask j 0))
  let put (s : State) (r : Nat × List Nat) : State :=
    let en := r.2.map fun _ => 1
    match c.kern with
    | some kh =>
      let core := ((s.kernel? c.ctx kh).bind fun k => k.coreOfPa r.1).getD 0
      if (s.kernel? c.ctx kh).any fun k => k.run.strict then s.kernelStore c.ctx kh (16 * core) r.1 r.2 en ((pas.zip vas).lookup r.1)
      else s.store c.src r.1 r.2 en
    | none => s.store c.src r.1 r.2 en
  if regionOf pa = 3 then s.devStore pa v.length (ofBytes v)
  else if leafPol leaf = 3 then
    let count := if leafAcnt leaf then some (c.ctx, c.clu) else none
    (runsOf bytes).foldl (fun s r => s.wcStore (128 + c.en) r.1 r.2 count) s
  else (runsOf bytes).foldl put s

/-- Bytes written by an engine at virtual addresses, at home. -/
def State.copyWrite (s : State) (c : CEnv) (fmt : Option PageFmt) (shadow : Option Nat)
    (vas v mask : List Nat) : CRes Unit :=
  (c.lift s .write (Rd.mapM (fun s va => s.writePlace c fmt shadow va) vas s)).bind fun ps s =>
    let pas := ps.map Prod.fst
    let pa := pas.headD 0
    if s.movingAt c.ctx pa then .wait s
    else match pas.findSome? fun a => s.failedAt a 1 with
    | some ch => .fault 0x0405#16 ch s
    | none =>
      let leaf := (ps.head?.map Prod.snd).getD 0
      (s.copySpend c (s.copyClasses c.clu pa leaf) vas.length).bind fun _ s =>
        .ok () (s.copyStore c leaf (if shadow.isNone then vas else []) pas v mask)

/-- Bytes written to a peer: whole elements in one message, parts of bytes one by one. -/
def State.remoteWrite (s : State) (c : CEnv) (key ep : Nat) (e : Endpoint) (fmt : Option PageFmt)
    (vas v mask : List Nat) : CRes Unit :=
  match vas, v, mask with
  | [a, b], [v0, v1], [m0, m1] =>
    if m0 = 255 ∧ m1 = 255 then
      (s.ask c key ep e (.write v mask) a 2 fmt).bind fun _ s => .ok () s
    else
      (s.ask c key ep e (.write [v0] [m0]) a 1 fmt).bind fun _ s =>
        (s.ask c (key + 1) ep e (.write [v1] [m1]) b 1 fmt).bind fun _ s => .ok () s
  | _, _, _ => (s.ask c key ep e (.write v mask) (vas.headD 0) v.length fmt).bind fun _ s => .ok () s

/-- Everything that the engine has posted is performed. -/
def State.flushEngine (s : State) (c : CEnv) : State :=
  (s.wcDrain (128 + c.en)).drainBanks fun b => b.src = c.src

/-- A completion add (10 R298): saturating, after every earlier write of the engine. -/
def State.copyCount (s : State) (c : CEnv) (key va : Nat) (inc : BitVec 32) : CRes Unit :=
  let v := inc.setWidth 64
  match (s.ctx c.ctx).windowOf va with
  | some (ep, e) => (s.flushEngine c |>.ask c key ep e (.add v) va 8 none).bind fun _ s => .ok () s
  | none =>
    (c.lift s .atomic (s.engXlate c.ctx c.clu va .write none)).bind fun p s =>
    if !cachedPol p.2 then .fault 0x0302#16 va s
    else match s.readError p.1 8 with
    | some (cause, i) => .fault cause i s
    | none =>
      let pa := p.1
      (s.copySpend c (s.atomClasses pa) 8).bind fun _ s =>
        let s := (s.countAtomic c.ctx c.clu pa (leafAcnt p.2)).flushEngine c
        match c.kern.bind fun kh => (s.kernel? c.ctx kh).map fun k => (kh, k) with
        | some (kh, k) =>
          if k.run.strict then .ok () (s.putKernel c.ctx kh { k with buffer := k.buffer ++ [.count pa inc (some (va, false))] })
          else .ok () (s.counterAdd pa v)
        | none => .ok () (s.counterAdd pa v)

/-- An addition at the destination's pool bank (10 R294). -/
def State.copyRedu (s : State) (c : CEnv) (key : Nat) (fmt : Option PageFmt) (shadow : Option Nat) (va n v : Nat)
    (float : Bool) : CRes Unit :=
  match (s.ctx c.ctx).windowOf va with
  | some (ep, e) => (s.ask c key ep e (.redu n v) va n fmt).bind fun _ s => .ok () s
  | none =>
    (c.lift s .atomic (s.writePlace c fmt shadow va)).bind fun p s =>
      if regionOf p.1 = 2 then s.entryFault c 0x0603#16
      else if !cachedPol p.2 then .fault 0x0302#16 va s
      else match s.failedAt p.1 n with
      | some ch => .fault 0x0405#16 ch s
      | none => (s.copySpend c (s.atomClasses p.1) n).bind fun _ s =>
        let s := s.countAtomic c.ctx c.clu p.1 (leafAcnt p.2)
        let op : BankOp :=
          if float then .fadd c.src p.1 (BitVec.ofNat 32 v)
          else if n = 8 then .fx c.src p.1 (Word.of v)
          else .atm c.src p.1 0 6 (Word.of v)
        match c.kern with
        | some kh => .ok () (s.kernelPost c.ctx kh va op)
        | none => .ok () { s with banks := s.banks ++ [op] }

/-- A PUB of an engine: every write of its earlier entries comes first (10 R295). -/
def State.copyPublish (s : State) (c : CEnv) (h : Nat) : CRes Unit :=
  let s := s.flushEngine c
  match c.kern.bind fun kh => (s.kernel? c.ctx kh).map fun k => (kh, k) with
  | some (kh, k) =>
    if k.run.strict then .ok () (s.putKernel c.ctx kh { k with buffer := k.buffer ++ [.publish h] })
    else .ok () (s.publish c.ctx h)
  | none => .ok () (s.publish c.ctx h)

/-- What an engine does to memory, performed (10 R287 to R298). Elements carry a format and may go to a peer; masks
carry none and may not lie in a window (18 R452). -/
def State.copyAct (s : State) (c : CEnv) (key : Nat) (fmt : Option PageFmt) (a : FlightAct) : CRes Unit :=
  match a with
  | .bytes vas v mask shadow =>
    match (if fmt.isSome then (s.ctx c.ctx).windowOf (vas.headD 0) else none) with
    | some (ep, e) => s.remoteWrite c key ep e fmt vas v mask
    | none => s.copyWrite c fmt shadow vas v mask
  | .count va inc => s.copyCount c key va inc
  | .redu va n v float shadow => s.copyRedu c key fmt shadow va n v float
  | .publish h => s.copyPublish c h

/-! ### One element (10 R287 to R294) -/

/-- The indices of an element, innermost first. -/
def loopIdx : List (BitVec 16) → Nat → List Nat
  | b :: bs, e => e % max 1 b.toNat :: loopIdx bs (e / max 1 b.toNat)
  | [], _ => []

/-- A sum of indices times strides. -/
def strideSum (is : List Nat) (ss : List (BitVec 24)) : Int :=
  ((is.zip ss).map fun p => (p.1 : Int) * p.2.toInt).foldl (· + ·) 0

/-- The linear index of a row (10 R289). -/
def rowIndex (bs : List (BitVec 16)) (is : List Nat) : Nat :=
  (((bs.drop 1).zip (is.drop 1)).reverse).foldl (fun r p => p.2 + p.1.toNat * r) 0

/-- An offset within the bounds of a buffer (10 R288). -/
def Buf.holds (b : Buf) (o : Int) : Bool :=
  !b.bounded || (0 ≤ o && o / b.pitch < b.nrow && o % b.pitch < b.ncol)

/-- The index of the data buffer that an entry reads. -/
def CEnv.si (c : CEnv) : Nat := if c.kind = 3 then (c.l.buf c.ent.sbuf.toNat).ixb else c.ent.sbuf.toNat
/-- The index of the data buffer that an entry writes. -/
def CEnv.di (c : CEnv) : Nat := if c.kind = 4 then (c.l.buf c.ent.dbuf.toNat).ixb else c.ent.dbuf.toNat

/-- The access class of an entry's destination in fault records (11 R327). -/
def CEnv.dstAcc (c : CEnv) : Acc := if c.kind = 6 then .atomic else .write

/-- The index of a row of a GATH or a SCAT, read once for the row (10 R292); none when it is invalid. -/
def State.copyIndex (s : State) (c : CEnv) (elem : Nat) (is : List Nat) : CRes (Option Int) :=
  let gath : Bool := c.kind = 3
  let i := if gath then c.ent.sbuf.toNat else c.ent.dbuf.toNat
  let b := c.l.buf i
  let d := c.l.buf b.ixb
  let o : Int := (if gath then c.ent.soff else c.ent.doff).toInt
    + strideSum (is.drop 1) ((if gath then c.ent.sstr else c.ent.dstr).drop 1)
  let valid (x : Int) : Option Int := if x < 0 ∨ (d.bounded ∧ x ≥ d.nrow) then none else some x
  match (s.eng c.en).fillVal with
  | some v => .ok (valid (sx v 64)) s
  | none =>
    (s.copyFmt c i .read).bind fun f s =>
      let bits := f.bits b.esz
      if bits ≠ 32 ∧ bits ≠ 64 then s.entryFault c 0x0603#16
      else
        (if b.holds o then s.copyRaw c (elemKey elem 8) i f o else .ok (2 ^ bits - 1) s).bind fun v s =>
          let x := sx v bits
          .ok (valid x) (s.modEng c.en fun y => { y with fillVal := some (lowBits x 64) })

/-- The code that MOVEC writes (10 R291). -/
def movecCode (e : CopyEnt) (fd : PageFmt) (bits : Nat) (v : Val) : Nat :=
  let w := valScaled v (Fmt.f32.dec e.mult.toNat)
  let rm := Rm.of2 (e.flags.extractLsb' 3 2)
  match efmtFloat fd.code with
  | some g => g.enc w rm (e.flags.getLsbD 2)
  | none => lowBits (w.toInt rm (efmtSigned fd.code) bits) bits

/-- The value that an element takes from the source, its offset in bounds. -/
def State.copyValue (s : State) (c : CEnv) (elem : Nat) (fs fd : PageFmt) (bits : Nat) (o : Int) : CRes Nat :=
  if c.kind = 2 then
    (s.copyVal c (elemKey elem 0) c.si fs o).bind fun v s => .ok (movecCode c.ent fd bits v) s
  else if c.kind = 5 then
    match (s.eng c.en).fillVal with
    | some v => .ok v s
    | none =>
      (s.copyRaw c (elemKey elem 0) c.si fs o).bind fun v s =>
        .ok v (s.modEng c.en fun y => { y with fillVal := some v })
  else s.copyRaw c (elemKey elem 0) c.si fs o

/-- What the two formats of a data entry allow: the cause that fails the entry, if any (10 R290, R291,
R294). -/
def formatCause (kind : Nat) (fs fd : PageFmt) (sb db esz : Nat) : Option (BitVec 16) :=
  let raw (f : PageFmt) : Bool := !f.codec && f.efmt = 0
  if kind = 2 then
    if raw fs || raw fd then some 0x0603#16 else if !fd.codec ∧ fd.efmt > 0xC then some 0x0120#16 else none
  else if sb ≠ db then some 0x0603#16
  else if kind = 6 ∧ !(fd.codec || fd.efmt = 0xB || (fd.efmt = 0 && (esz = 4 || esz = 8))) then some 0x0603#16
  else none

/-- The write of an element: its bytes with the bits that it changes. -/
def elemWrite (b : Buf) (bits : Nat) (o : Int) (v : Nat) : FlightAct :=
  let (vas, sh) := elemBytes b.base bits b.swizzleMask o
  let n := vas.length
  .bytes vas (bytesOf (v * 2 ^ sh) n) (bytesOf ((2 ^ bits - 1) * 2 ^ sh) n)
    (if b.shadow then some b.shandle else none)

/-- What an element is found to be: its bit of the row mask, and what it does to memory with the format
that its page must carry. -/
structure ElemOut where
  bit : Bool
  acts : List FlightAct
  fmt : PageFmt

/-- The source of an element read, and its effect on the destination (10 R287 to R294). -/
def State.copyElem (s : State) (c : CEnv) (elem : Nat) : CRes ElemOut :=
  let e := c.ent
  let bs := c.l.buf c.si
  let bd := c.l.buf c.di
  let is := loopIdx e.bounds elem
  let zfill := e.flags.getLsbD 0
  (s.copyFmt c c.si .read).bind fun fs s => (s.copyFmt c c.di c.dstAcc).bind fun fd s =>
    let sb := fs.bits bs.esz
    let db := fd.bits bd.esz
    match formatCause c.kind fs fd sb db bd.esz with
    | some 0x0120#16 => .fault 0x0120#16 fd.idx s
    | some cause => s.entryFault c cause
    | none =>
      (if c.kind = 3 ∨ c.kind = 4 then s.copyIndex c elem is else .ok (some 0) s).bind fun x s =>
        let i0 := is.headD 0
        let os : Option Int :=
          if c.kind = 3 then x.map fun x => x * bs.pitch + (i0 : Int) * (nth e.sstr 0 0#24).toInt
          else some (e.soff.toInt + strideSum is e.sstr)
        let od : Option Int :=
          if c.kind = 4 then x.map fun x => x * bd.pitch + (i0 : Int) * (nth e.dstr 0 0#24).toInt
          else some (e.doff.toInt + strideSum is e.dstr)
        let inb := os.any bs.holds
        (if inb then s.copyValue c elem fs fd db (os.getD 0) else .ok 0 s).bind fun v s =>
          let acts : List FlightAct :=
            match od with
            | none => []
            | some o =>
              if !bd.holds o || (!inb && !zfill) then []
              else if c.kind = 6 then
                [.redu (((elemBytes bd.base db bd.swizzleMask o).1.head?).getD 0) (db / 8) v
                  (!fd.codec && fd.efmt = 0xB) (if bd.shadow then some bd.shandle else none)]
              else [elemWrite bd db o v]
          .ok ⟨if c.kind = 3 then x.isSome else inb, acts, fd⟩ s

/-- The mask of a finished row (10 R289). -/
def CEnv.maskAct (c : CEnv) (is : List Nat) (m : Word) : FlightAct :=
  let b := c.l.buf c.ent.dbuf.toNat
  let a := b.mbase + 8 * rowIndex c.ent.bounds is
  .bytes ((List.range 8).map (a + ·)) (bytesOf m.toNat 8) (List.replicate 8 255)
    (if b.shadow then some b.shandle else none)

/-- The row mask with the bit of an element. -/
def rowBit (m : Word) (i : Nat) (b : Bool) : Word := if b then m ||| (1#64 <<< i) else m

/-- An element is the last of its row. -/
def CEnv.rowEnd (c : CEnv) (elem : Nat) : Bool := elem % max 1 (nth c.ent.bounds 0 1#16).toNat + 1 = (nth c.ent.bounds 0 1#16).toNat

/-! ### What fails an entry when it is reached (04 R113, 10 R287, R292, R295, R297, R298, R302) -/

/-- A buffer's shadow handle names a valid published buffer (13 R371). -/
def State.shadowOk (s : State) (ctx : Nat) (b : Buf) : Bool :=
  !b.shadow || (Tab.get? (s.ctx ctx).pubs b.shandle).any (·.valid)

/-- An entry may be performed: its fields, its buffers, its counter. -/
def State.entryOk (s : State) (c : CEnv) : Bool :=
  let e := c.ent
  let sb := c.l.buf e.sbuf.toNat
  let db := c.l.buf e.dbuf.toNat
  e.ok c.kind
    && (!e.flags.getLsbD 1 || db.mbase ≠ 0)
    && (c.kind ≠ 3 || (sb.index && sb.ixb ≤ 15)) && (c.kind ≠ 4 || (db.index && db.ixb ≤ 15))
    && (!dataKind c.kind || s.shadowOk c.ctx (c.l.buf c.di))
    && (c.kind ≠ 7 || db.shadow)
    && (if c.kind = 9 then (if e.cnt = 0xFE#8 then c.kern.isNone else nth c.l.ctrs e.cnt.toNat 0 ≠ 0)
        else e.cnt.toNat ≥ 16 || nth c.l.ctrs e.cnt.toNat 0 ≠ 0)

/-! ### Moving on -/

/-- The engine goes on to the next entry or run; behind the last, to DONE once nothing is in flight
(10 R286, R287). -/
def Engine.nextEntry (x : Engine) : Engine :=
  let y := { x with elem := 0, fillVal := none, rowMask := 0, maskDue := false, bounds := [] }
  if x.entry + 1 < x.launch.nent then { y with entry := x.entry + 1 }
  else if x.run + 1 < x.launch.repeat_ then { y with entry := 0, run := x.run + 1 }
  else { y with entry := x.launch.nent, run := x.launch.repeat_ }

/-- The last entry of the last run is behind the engine. -/
def Engine.ended (x : Engine) : Bool := x.entry ≥ x.launch.nent

/-- The engine is bound for DONE when everything has completed. -/
def Engine.finish (x : Engine) : Engine :=
  if x.ended ∧ x.flights.isEmpty ∧ x.bound.isNone ∧ x.st = .running then { x with bound := some .done } else x

/-- An engine that halts at its next element boundary (10 R303). -/
def Engine.stopAt (x : Engine) : Engine :=
  if x.halted ∧ x.bound.isNone ∧ (x.st = .armed ∨ x.st = .running ∨ x.st = .waiting) then
    { x.halt with halted := false } else { x with halted := false }

/-! ### The status record (10 R304) -/

/-- The bytes of the status record of an engine bound for a state. -/
def Engine.status (x : Engine) (b : EngSt) : List Nat :=
  let is := loopIdx x.bounds x.elem
  let cause := if b = .faulted then x.cause.toNat else 0
  let addr := if b = .faulted ∧ x.cause.toNat / 256 = 3 then x.addr else 0
  bytesOf cause 2 ++ bytesOf x.entry 2 ++ bytesOf x.run 4
    ++ ((List.range 5).flatMap fun i => bytesOf (nth is i 0) 2) ++ List.replicate 6 0
    ++ bytesOf addr 8 ++ bytesOf x.stg.toNat 8 ++ List.replicate 24 0

/-- The engine enters the state that it is bound for; a FAULTED one delivers its cause (04 R124,
05 R148, 14 R383). -/
def State.enterBound (s : State) (en : Nat) : State :=
  let x := s.eng en
  match x.bound with
  | none => s
  | some .done =>
    { s.putEng en { x with st := .done, bound := none, recWait := false, fin := s.orders } with orders := s.orders + 1 }
  | some .faulted =>
    let ctx := x.own.getD 0
    let s := s.putEng en { x with st := .faulted, bound := none, recWait := false }
    let s := match x.thr with
      | some t => if (s.thr t).ctx = ctx ∧ (s.thr t).st ≠ ThrSt.off then s.post t ⟨x.cause, true, Word.of x.addr⟩ else s
      | none => s
    let s := match x.kern with
      | some kh => s.modRun ctx kh (·.addEvent (enginePe (en % 16)) 0 0 x.cause (Word.of x.addr))
      | none => s
    s.fatal ctx x.groups x.cause
  | some b => s.putEng en { x with st := b, bound := none, recWait := false }

/-- The page of the engine's status record. -/
def Engine.recPage (x : Engine) : Nat := x.launch.statptr / 4096

/-- The write of an engine's status record waits on a fault record. -/
def State.recordStalled (s : State) (ctx en : Nat) : Bool :=
  (s.eng en).recWait && (s.ctx ctx).faults.any fun f =>
    f.page = (s.eng en).recPage && f.waiters.contains (.copy en)

/-- An engine bound for a state writes its status record and enters the state; a record that cannot be
written makes it FAULTED (10 R304). -/
def State.settleEngine (s : State) (en : Nat) : State :=
  let x := s.eng en
  match x.bound, x.own with
  | some b, some ctx =>
    let c : CEnv := ⟨en, ctx, en / 16, 0, ⟨0, 0, 0, 0, 0, 0, [], 0, 0, [], []⟩, x.launch, none, false⟩
    if s.recordStalled ctx en then s
    else if x.launch.statptr = 0 then s.enterBound en
    else
      match s.copyWrite c none none ((List.range 64).map (x.launch.statptr + ·)) (x.status b)
          (List.replicate 64 255) with
      | .ok _ s => (s.wcDrain (128 + en)).enterBound en
      | .wait s => s.modEng en fun x => { x with recWait := true }
      | .fault cause info s =>
        if b = .faulted then s.enterBound en else (s.faultEngine en cause info).enterBound en
  | _, _ => s

/-- A fault of an engine on a page is ended as not resolvable: the engine is bound for FAULTED, but keeps a first cause
that it has; a status record that waits on the page is lost (10 R304, 11 R328). -/
def Engine.abort (x : Engine) (page : Nat) (cause : BitVec 16) (va : Nat) : Engine :=
  let y := if x.recWait ∧ x.recPage = page then { x with launch := { x.launch with statptr := 0 }, recWait := false } else x
  if x.bound = some .faulted then y else { y with bound := some .faulted, cause := cause, addr := va }

/-- An engine of a context meets the end of a fault: on its chip place or in the context's image (10 R304, 11 R328). -/
def State.abortEngine (s : State) (ctx en page : Nat) (cause : BitVec 16) (va : Nat) : State :=
  if (s.eng en).own = some ctx then s.putEng en ((s.eng en).abort page cause va)
  else match (s.ctx ctx).image.bind fun m => (Tab.get? m.engines en).map fun x => (m, x) with
    | some (m, x) =>
      let m := { m with engines := Tab.put m.engines en (x.abort page cause va) }
      s.putCtx ctx { s.ctx ctx with image := some m }
    | none => s

end Sys2Proof.Machine
end

