-- ==== Sys2Proof/Machine/Copy.lean ====
section
/-! DEFINITION. The copy entries (10 R287 to R301), the events of engines (R286, R300), and the copy
instructions of host threads (R305 to R310). -/
namespace Sys2Proof.Machine

/-! ### Free-running entries -/

/-- The bytes of one element of a data entry moved, and the mask of its row with its bit; an element whose row's mask
alone is still to be written is not moved again (10 R303). -/
def State.elementMove (s : State) (c : CEnv) (elem : Nat) : CRes Word :=
  if (s.eng c.en).maskDue then .ok (s.eng c.en).rowMask s
  else (s.copyElem c elem).bind fun o s =>
    let m := rowBit (s.eng c.en).rowMask ((loopIdx c.ent.bounds elem).headD 0) o.bit
    match o.acts with
    | a :: _ => (s.copyAct c (elemKey elem 4) (some o.fmt) a).bind fun _ s => .ok m s
    | [] => .ok m s

/-- One element of a data entry performed, and the mask of its row behind the row's last element. -/
def State.elementGo (s : State) (c : CEnv) (elem : Nat) : CRes Word :=
  (s.elementMove c elem).bind fun m s =>
    if c.ent.flags.getLsbD 1 ∧ c.rowEnd elem then
      let s := s.modEng c.en fun x => { x with maskDue := true, rowMask := m }
      (s.copyAct c (elemKey elem 9) none (c.maskAct (loopIdx c.ent.bounds elem) m)).bind fun _ s => .ok m s
    else .ok m s

/-- The engine behind an element: the row mask goes on, an index is forgotten at the end of its row. -/
def Engine.pastElement (x : Engine) (c : CEnv) (elem : Nat) (m : Word) : Engine :=
  let last : Bool := c.rowEnd elem
  let keep : Bool := !(last && (c.kind = 3 || c.kind = 4))
  let y := x.forget false
  { y with elem := elem + 1, maskDue := false, rowMask := if last then 0 else m, fillVal := if keep then x.fillVal else none }

/-- One element of a free-running data entry (10 R287, R303). -/
def State.elementStep (s : State) (c : CEnv) : State :=
  let elem := (s.eng c.en).elem
  match s.elementGo c elem with
  | .ok m s => s.modEng c.en fun x => x.pastElement c elem m
  | .wait s => s
  | .fault cause info s => s.faultEngine c.en cause info

/-- The entry completes with its completion add (10 R298). -/
def State.entryDone (s : State) (c : CEnv) : State :=
  let elem := (s.eng c.en).elem
  let add : CRes Unit :=
    if c.ent.cnt.toNat < 16 then
      s.copyCount c (elemKey elem 10) (nth c.l.ctrs c.ent.cnt.toNat 0) c.ent.cntinc
    else .ok () (s.flushEngine c)
  match add with
  | .ok _ s => s.modEng c.en fun x => (x.forget false).nextEntry.finish
  | .wait s => s
  | .fault cause info s => s.faultEngine c.en cause info

/-- PUB on a free-running engine: the publish, then the completion (10 R295). -/
def State.pubStep (s : State) (c : CEnv) : State :=
  if (s.eng c.en).elem = 0 then
    match s.copyPublish c (c.l.buf c.ent.dbuf.toNat).shandle with
    | .ok _ s => s.modEng c.en fun x => { x with elem := 1 }
    | .wait s => s
    | .fault cause info s => s.faultEngine c.en cause info
  else s.entryDone c

/-- The value that a WAITS compares (10 R297). -/
def State.waitsValue (s : State) (c : CEnv) : CRes Nat :=
  if c.ent.cnt = 0xFE#8 then .ok (s.eng c.en).stg.toNat s
  else
    let va := nth c.l.ctrs c.ent.cnt.toNat 0
    match (s.ctx c.ctx).windowOf va with
    | some (ep, e) =>
      (s.ask c (elemKey 0 12) ep e (.read 8 none) va 8 none).bind fun r s =>
        .ok (field r 0 8) (s.modEng c.en fun x => x.forget false)
    | none =>
      (s.copyCharge c .read va 8).bind fun _ s =>
        (s.copyOwn c [va]).copyLook c fun s => s.engRead c.ctx c.clu none [] ((List.range 8).map (va + ·))

/-- The value that a WAITS awaits: V + r · CNTINC (10 R297). -/
def CEnv.awaited (c : CEnv) (run : Nat) : Nat :=
  c.ent.soff.toNat + 2 ^ 32 * c.ent.doff.toNat + run * c.ent.cntinc.toNat

/-- WAITS on a free-running engine (10 R286, R297). -/
def State.waitsStep (s : State) (c : CEnv) : State :=
  match s.waitsValue c with
  | .ok v s =>
    if v ≥ c.awaited (s.eng c.en).run then
      s.modEng c.en fun x => ({ x with st := .running } : Engine).nextEntry.finish
    else s.modEng c.en fun x => { x with st := .waiting }
  | .wait s => s
  | .fault cause info s => s.faultEngine c.en cause info

/-! ### Timed entries (10 R300) -/

/-- The translations that an effect of a beat will need, and its charge: a wait for any of them is
late. -/
def State.actReady (s : State) (c : CEnv) (fmt : Option PageFmt) (a : FlightAct) : CRes Unit :=
  match a with
  | .bytes vas v _ shadow =>
    if fmt.isSome ∧ ((s.ctx c.ctx).windowOf (vas.headD 0)).isSome then s.copySpend c [4] (v.length + 8)
    else
      (c.lift s .write (Rd.mapM (fun s va => s.writePlace c fmt shadow va) vas s)).bind fun ps s =>
        let p := (ps.head?).getD (0, 0)
        s.copySpend c (s.copyClasses c.clu p.1 p.2) vas.length
  | .redu va n _ _ shadow =>
    if ((s.ctx c.ctx).windowOf va).isSome then s.copySpend c [4] (n + 8)
    else
      (c.lift s .atomic (s.writePlace c fmt shadow va)).bind fun p s =>
        if regionOf p.1 = 2 then s.entryFault c 0x0603#16
        else if !cachedPol p.2 then .fault 0x0302#16 va s
        else s.copySpend c (s.atomClasses p.1) n
  | .count _ _ => .ok () s
  | .publish _ => .ok () s

/-- The domain of a forked engine. -/
def State.engKernel (s : State) (en : Nat) : Option Kernel :=
  let x := s.eng en
  match x.own, x.kern with
  | some ctx, some kh => s.kernel? ctx kh
  | _, _ => none

/-- What a beat does to memory is under way: it lands 23 cycles later (10 R300). -/
def State.fly (s : State) (c : CEnv) (acts : List FlightAct) (fmt : Option PageFmt := none) : State :=
  let vcc := ((s.engKernel c.en).map fun k => k.run.vcc).getD 0
  s.modEng c.en fun x => { x with flights := x.flights ++ acts.map fun a => { due := vcc + 23, act := a, fmt := fmt } }

/-- Some elements of a beat, read one after another, with what they do to memory. -/
def State.beatElemsGo (s : State) (c : CEnv) (elem : Nat) : Nat → CRes Unit
  | 0 => .ok () s
  | n + 1 =>
    let is := loopIdx c.ent.bounds elem
    (s.copyElem c elem).bind fun o s =>
      let m := rowBit (s.eng c.en).rowMask (is.headD 0) o.bit
      let mask : List FlightAct :=
        if c.ent.flags.getLsbD 1 ∧ c.rowEnd elem then [c.maskAct is m] else []
      (match o.acts with
       | a :: _ => s.actReady c (some o.fmt) a
       | [] => .ok () s).bind fun _ s =>
      (match mask with
       | a :: _ => s.actReady c none a
       | [] => .ok () s).bind fun _ s =>
      let s := s.modEng c.en fun x => { x.pastElement c elem m with replies := x.replies }
      ((s.fly c o.acts (some o.fmt)).fly c mask).beatElemsGo c (elem + 1) n

/-- Elements in a beat of an entry on an engine (10 R300). -/
def State.beatSize (s : State) (c : CEnv) : CRes Nat :=
  (s.copyFmt c c.si .read).bind fun fs s => (s.copyFmt c c.di c.dstAcc).bind fun fd s =>
    .ok (beatElems (fs.bits (c.l.buf c.si).esz) (fd.bits (c.l.buf c.di).esz)) s

/-- A beat read: its effects are under way, and the engine stands behind it (10 R300). -/
def State.beatGo (s : State) (c : CEnv) : CRes Unit :=
  let add : List FlightAct :=
    if c.kind ≠ 9 ∧ c.ent.cnt.toNat < 16 then
      [.count (nth c.l.ctrs c.ent.cnt.toNat 0) c.ent.cntinc]
    else []
  let next (s : State) (acts : List FlightAct) : CRes Unit :=
    .ok () ((s.fly c acts).modEng c.en fun x => (x.forget false).nextEntry)
  if dataKind c.kind then
    (s.beatSize c).bind fun nb s =>
      let elem := (s.eng c.en).elem
      let n := min nb (entElems c.ent - elem)
      (s.beatElemsGo c elem n).bind fun _ s =>
        let s := s.modEng c.en fun x => { x.forget false with nb := nb }
        if elem + n ≥ entElems c.ent then next s add else .ok () s
  else if c.kind = 7 then next s (.publish (c.l.buf c.ent.dbuf.toNat).shandle :: add)
  else if c.kind = 8 then next s add
  else
    (s.waitsValue c).bind fun v s =>
      if v ≥ c.awaited (s.eng c.en).run then next s [] else .wait s

/-- An engine whose beat is late stands before the beat: no element of it is performed (10 R300, R303). -/
def Engine.backTo (x y : Engine) : Engine :=
  { x with elem := y.elem, rowMask := y.rowMask, fillVal := y.fillVal, flights := y.flights }

/-- A beat read as a whole, or not at all while a part of it waits (10 R300). -/
def State.beatWhole (s : State) (c : CEnv) : CRes Unit :=
  match s.beatGo c with
  | .wait t => .wait (t.modEng c.en fun x => x.backTo (s.eng c.en))
  | r => r

/-- The virtual cycle at whose end the next beat reads: TS + j (10 R300). -/
def Engine.beatCycle (x : Engine) : Nat :=
  x.start + x.run * x.launch.tperiod + nth x.launch.tstart x.entry 0 + x.elem / max 1 x.nb

/-- A beat performed: its effects land 23 cycles later; the elements before one that fails are performed (10 R300,
R304). -/
def State.beatStep (s : State) (c : CEnv) : State :=
  match s.beatWhole c with
  | .ok _ s => s.modEng c.en Engine.finish
  | .wait s => s
  | .fault cause info s => s.faultEngine c.en cause info

/-- A beat of the engine is due in the present cycle of its domain. -/
def State.beatDue (s : State) (en : Nat) : Bool :=
  let x := s.eng en
  x.launch.timed && x.st = .running && x.bound.isNone && !x.ended
    && (s.engKernel en).any fun k => x.beatCycle ≤ k.run.vcc

/-! ### The entries -/

/-- An entry as its engine performs it: one element or the completion of a free-running entry, one beat
of a timed one; an invalid entry makes the engine FAULTED (10 R286, R287, R300, R303, R304). -/
def State.copyRun (s : State) (kind : Nat) (e : CopyEnt) : State :=
  let en := s.cur.eng
  let x := s.eng en
  match s.cenv en kind e with
  | none => s
  | some c =>
    if x.halted then s.modEng en Engine.stopAt
    else if x.bound.isSome ∨ x.ended ∨ s.copyStalled c.ctx en
        ∨ !(x.st = .running || (kind = 9 && x.st = .waiting)) then s
    else
      let s := s.modEng en fun x => { x with bounds := e.bounds }
      if !s.entryOk c then s.faultEngine en 0x0601#16 x.entry
      else if x.launch.timed then (if s.beatDue en then s.beatStep c else s)
      else if kind = 9 then s.waitsStep c
      else if kind = 7 then s.pubStep c
      else if kind = 8 ∨ x.elem ≥ entElems e then s.entryDone c
      else s.elementStep c

/-- MOVE (10 R290). -/
def execMove (e : CopyEnt) (s : State) : Result := .next (s.copyRun 1 e)
/-- MOVEC (10 R291). -/
def execMovec (e : CopyEnt) (s : State) : Result := .next (s.copyRun 2 e)
/-- GATH (10 R292). -/
def execGath (e : CopyEnt) (s : State) : Result := .next (s.copyRun 3 e)
/-- SCAT (10 R292). -/
def execScat (e : CopyEnt) (s : State) : Result := .next (s.copyRun 4 e)
/-- FILL (10 R293). -/
def execFill (e : CopyEnt) (s : State) : Result := .next (s.copyRun 5 e)
/-- REDU (10 R294). -/
def execRedu (e : CopyEnt) (s : State) : Result := .next (s.copyRun 6 e)
/-- PUB (10 R295). -/
def execPub (e : CopyEnt) (s : State) : Result := .next (s.copyRun 7 e)
/-- CNT (10 R296). -/
def execCopyCnt (e : CopyEnt) (s : State) : Result := .next (s.copyRun 8 e)
/-- WAITS (10 R297). -/
def execWaits (e : CopyEnt) (s : State) : Result := .next (s.copyRun 9 e)

/-! ### Reaching an entry; events -/

/-- The entry that an engine has reached: its kind and fields; an entry that does not decode fails it
(04 R113). -/
def State.fetchEntry (s : State) (en : Nat) : CRes (Nat × CopyEnt) :=
  let x := s.eng en
  match s.cenv en 0 (copyEnt []) with
  | none => .wait s
  | some c =>
    (c.lift s .read (s.readRecord c.ctx c.clu (x.launch.entptr + 64 * x.entry) 64 (some (128 + en)))).bind fun r s =>
      match decodeCopy r with
      | .error _ => .fault 0x0601#16 x.entry s
      | .ok _ => .ok (field r 0 1, copyEnt r) s

/-- An engine performs what stands at its entry. -/
def State.entryStep (s : State) (en : Nat) : State :=
  match s.fetchEntry en with
  | .ok p s => s.copyRun p.1 p.2
  | .wait s => s
  | .fault cause info s => s.faultEngine en cause info

/-- WAITS_SATISFIED (10 R286): a WAITING engine re-checks its counter. -/
def execWaitsSatisfied (s : State) : Result :=
  let x := s.eng s.cur.eng
  if x.st = .waiting ∧ x.bound.isNone then .next (s.entryStep s.cur.eng) else .next s

/-- COPY_ARMED_START (10 R286): the domain reaches the first entry's start cycle. -/
def execCopyArmedStart (s : State) : Result :=
  let x := s.eng s.cur.eng
  let reached : Bool := (s.engKernel s.cur.eng).any fun k => k.state = .running && x.beatCycle ≤ k.run.vcc
  if x.st = .armed ∧ x.bound.isNone ∧ reached then .next (s.modEng s.cur.eng fun x => { x with st := .running })
  else .next s

/-- COPY_BEAT (10 R300): a TIMED engine performs the beat that is due. -/
def execCopyBeat (s : State) : Result :=
  if s.beatDue s.cur.eng then .next (s.entryStep s.cur.eng) else .next s

/-- The beat that is due waits: the state with its faults posted and its requests sent (10 R300). -/
def State.beatLate (s : State) (en : Nat) : Option State :=
  match s.fetchEntry en with
  | .wait s => some s
  | .fault _ _ _ => none
  | .ok p t =>
    match t.cenv en p.1 p.2 with
    | none => none
    | some c =>
      if !t.entryOk c then none
      else if t.copyStalled c.ctx en then some s
      else match t.beatWhole c with
        | .wait s => some s
        | _ => none

/-! ### Flights (10 R300) -/

/-- The effect lands in a scratchpad of the kernel's region. -/
def State.nearAct (s : State) (ctx : Nat) (k : Kernel) : FlightAct → Bool
  | .bytes vas _ _ _ =>
    match s.hostXlate ctx k.cluster (vas.headD 0) .write with
    | .hit pa _ _ => (k.coreOfPa pa).isSome
    | .miss _ _ => false
  | _ => false

/-- The effects of an engine whose time has come are performed: those in the region's scratchpads
exactly then, the others in order. `stuck`: an earlier one waits. -/
def State.landFlights (s : State) (c : CEnv) (k : Kernel) (stuck : Bool) (kept : List Flight) :
    List Flight → State
  | [] => s.modEng c.en fun x => ({ x with flights := kept.reverse } : Engine).finish
  | f :: fs =>
    if f.due > k.run.vcc then s.landFlights c k stuck (f :: kept) fs
    else if stuck ∧ !s.nearAct c.ctx k f.act then s.landFlights c k stuck (f :: kept) fs
    else
      match s.copyAct c (flightKey 0) f.fmt f.act with
      | .ok _ s => (s.modEng c.en fun x => x.forget true).landFlights c k stuck kept fs
      | .wait s => s.landFlights c k true (f :: kept) fs
      | .fault cause info s =>
        let s := if (s.eng c.en).bound.isNone ∧ (s.eng c.en).st ≠ .faulted then s.faultEngine c.en cause info
          else s
        s.landFlights c k stuck kept fs

/-- The flights of every engine forked with a kernel. -/
def State.landCopies (s : State) (ctx kh : Nat) : State :=
  match s.kernel? ctx kh with
  | none => s
  | some k =>
    k.engines.foldl (fun s en =>
      let x := s.eng en
      if x.own = some ctx ∧ x.kern = some kh ∧ !x.flights.isEmpty then
        match s.cenv en 0 (copyEnt []) with
        | some c => s.landFlights { c with paid := true } k false [] x.flights
        | none => s
      else s) s

/-! ### Host instructions (10 R305 to R310) -/

/-- The engine that a register value names: a current handle of the thread's context (10 R306). -/
def State.engOf? (s : State) (v : Word) : Option Nat :=
  ((List.range 16).map (16 * s.myClu + ·)).find? fun en =>
    (s.eng en).own = some s.myCtx && (s.eng en).st ≠ .free && v = s.engHandle en

/-- A record launched on an engine by a thread. -/
def State.launchCopy (s : State) (en : Nat) (l : Launch) (a ctx : Nat) (thr : Option Nat)
    (queue : Option (Nat × Nat)) (gs : List Nat) : State :=
  s.putEng en { (s.eng en).launched l a ctx gs with thr := thr, queue := queue }

/-- `cstart` (10 R306); in a thermal emergency it waits (19 R474). -/
def execCstart (rd rs1 : Reg) (s : State) : Result :=
  let a := (s.reg rs1).toNat
  if s.pow.hold then .next s
  else ((s.readLaunch s.myCtx s.myClu a false (some s.cur.thr)).host s).andThen fun r s =>
    match r with
    | .error o => .next (s.retireWith rd ({ cause := 0x0602, info := o } : LoadErr).word)
    | .ok l =>
      match s.freeEngines s.myCtx s.myClu with
      | [] => .next (s.retireWith rd ({ cause := 0x0602, info := 0xFFFF } : LoadErr).word)
      | en :: _ =>
        let s := s.launchCopy en l a s.myCtx (some s.cur.thr) none (s.groupsOf s.myCtx s.cur.thr)
        .next (s.retireWith rd (s.engHandle en))

/-- `cstep` (10 R307). -/
def execCstep (rs1 rs2 : Reg) (s : State) : Result :=
  match s.engOf? (s.reg rs1) with
  | none => .next s.retire
  | some en =>
    if (s.eng en).st = .done ∨ (s.eng en).st = .faulted then .next s.retire
    else .next (s.modEng en fun x => { x with stg := accAdd x.stg (s.reg rs2).toNat }).retire

/-- `cwait` (10 R308). -/
def execCwait (rs1 rs2 : Reg) (s : State) : Result :=
  let va := (s.reg rs1).toNat
  let x := s.reg rs2
  (s.watchLoad va).andThen fun v s =>
    if mwaitHolds .geu v.1 x then .next s.disarm.retire
    else .next (s.sleep .cwait va v.2 x MwaitCond.geu.code)

/-- `cadd` (10 R308). -/
def execCadd (rs1 rs2 : Reg) (s : State) : Result :=
  (s.hostAtomPlace (s.reg rs1).toNat 8).andThen fun pa s =>
    .next (s.flushMine.counterAdd pa (s.reg rs2)).retire

/-- The status word of an engine (10 R309). -/
def Engine.statusWord (x : Engine) : Word :=
  Word.of (x.st.code * 2 ^ 60 + (if x.st = .faulted then x.cause.toNat else 0) * 2 ^ 32
    + x.entry * 2 ^ 16 + x.run % 2 ^ 16)

/-- `cstat` (10 R309); one that returns FAULTED frees the engine. -/
def execCstat (rd rs1 : Reg) (s : State) : Result :=
  match s.engOf? (s.reg rs1) with
  | none => .next (s.retireWith rd (BitVec.allOnes 64))
  | some en =>
    let x := s.eng en
    let s := s.retireWith rd x.statusWord
    .next (if x.st = .faulted then s.putEng en x.freed else s)

/-- The operations that a context's units have posted are performed: a publish releases the thread's own
and those that it has observed (10 R310). -/
def State.flushCtx (s : State) (ctx : Nat) : State :=
  let keys := (s.wc.map Prod.fst).filter fun t =>
    if t < 128 then (s.thr t).ctx = ctx else (s.eng (t - 128)).own = some ctx
  (keys.foldl State.wcDrain s).drainBanks fun b => b.src / 2 ^ 16 = ctx

/-- `cpub` (10 R310). -/
def execCpub (_ : Scope) (rs1 : Reg) (s : State) : Result :=
  let h := (s.reg rs1).toNat
  .next ((if (Tab.get? (s.ctx s.myCtx).pubs h).any (·.valid) then
    (s.flushCtx s.myCtx).publish s.myCtx h else s).retire)

end Sys2Proof.Machine
end

