-- ==== Sys2Proof/Machine/Mpe.lean ====
section
/-! DEFINITION. The meanings of the MPE ops (08 R246 to R256). -/
namespace Sys2Proof.Machine

/-- The key of the stream that an MPE op names. -/
def OpEnv.key (e : OpEnv) : Nat := streamKey e.core (e.slot = 3) e.f.stream

/-- The stream of the op, its descriptor and state. -/
def OpEnv.strm? (e : OpEnv) : Option (StreamDesc × StreamSt) :=
  (e.k.strm? e.key).map fun d => (d, e.k.run.stream e.key)

/-- A read of a stream behind its tail (08 R237). -/
def OpEnv.underrun (e : OpEnv) (r : Run) : Run :=
  r.addEvent e.pe e.ops 0 0x0202#16 (peInfo e.core e.slot e.ops e.f.stream)

/-- The effect of an MPE op with a result: its landing, its record in flight, and a change of the
round. -/
def OpEnv.loads (e : OpEnv) (opc v : Nat) (run : Run → Run := id) (extra : List Landing := []) : Effect :=
  { lands := e.dest .mpe opc v 0 :: extra, run := run,
    recs := e.record .mpe opc (opLatency .mpe opc e.f) 1 0 v 0 0 }

/-- A change of the op's stream. -/
def OpEnv.onStream (e : OpEnv) (f : StreamSt → StreamSt) (r : Run) : Run :=
  r.putStream e.key (f (r.stream e.key))

/-! ### Window reads (08 R247, R248) -/

/-- A read of word w of the op's stream, with what else it does to the stream. -/
def OpEnv.readWord (e : OpEnv) (opc : Nat) (s : State) (d : StreamDesc) (x : StreamSt) (w : Nat)
    (step : StreamSt → StreamSt) : Issue :=
  match d.read x w with
    | .under => .done s (e.loads opc 0 e.underrun)
    | .data v _ => if x.wordLate w then .late s else .done s (e.loads opc v fun r =>
        (e.onStream (fun y => step (y.use w)) r).tellFail e.pe e.ops e.key w)

/-- `ld` (08 R247): the word at U, or the exponents of its fold group, whose read marks no word used (R243 leaves that
open: DESIGN CHOICE, log entry 92). -/
def ldGo (s : State) (e : OpEnv) : Issue :=
  match e.strm? with
  | none => .done s (e.loads 0x01 0)
  | some (d, x) =>
    let part := e.f.modBits 1 0
    let w := x.u / 64
    if part = 0 then e.readWord 0x01 s d x w (d.advance e.t 1)
    else if x.wordLate w then .late s
    else
      let ex := Tab.getD x.exps (w / groupWords d.deliv) 0
      .done s (e.loads 0x01 (lane 512 ex (part - 1)).toNat fun r => r.tellFail e.pe e.ops e.key w)

/-- `ld` (08 R247). -/
def execLd (f : OpF) (s : State) : Result := issueWith .mpe 0x01 f s ldGo

/-- `ldk` (08 R247, R248): a word at an offset from U, zero at or beyond U + PREF. -/
def ldkGo (s : State) (e : OpEnv) : Issue :=
  match e.strm? with
  | none => .done s (e.loads 0x02 0)
  | some (d, x) =>
    let p : Int := x.u + 64 * sx e.a 16
    if p ≥ x.u + x.pref then .done s (e.loads 0x02 0)
    else if p < 0 then .done s (e.loads 0x02 0 e.underrun)
    else e.readWord 0x02 s d x (p / 64).toNat id

/-- `ldk` (08 R247). -/
def execLdk (f : OpF) (s : State) : Result := issueWith .mpe 0x02 f s ldkGo

/-- `unf` (08 R247). -/
def unfGo (s : State) (e : OpEnv) : Issue :=
  match e.strm? with
  | none => .done s (e.loads 0x09 0)
  | some (d, x) => e.readWord 0x09 s d x (x.u / 64) (d.advance e.t 1)

/-- `unf` (08 R247). -/
def execUnf (f : OpF) (s : State) : Result := issueWith .mpe 0x09 f s unfGo

/-- `vmsk` (08 R256). -/
def vmskGo (s : State) (e : OpEnv) : Issue :=
  if e.k.headLate e.core e.slot e.f.stream then .late s
  else .done s (e.loads 0x0F (e.k.headMask e.core e.slot e.f.stream))

/-- `vmsk` (08 R256). -/
def execVmsk (f : OpF) (s : State) : Result := issueWith .mpe 0x0F f s vmskGo

/-! ### Window stores (08 R244, R249) -/

/-- The record in flight of a store op that writes scratchpads of the region, with the word position that it fixed: it
lasts to the last of its landings (08 R246, R257; 16 R411). -/
def OpEnv.storeRec (e : OpEnv) (opc x : Nat) (lands : List Landing) : List OpRec :=
  let lat := lands.foldl (fun n l => max n (l.cyc + 1 - e.t)) (opLatency .mpe opc e.f)
  if lands.isEmpty then [] else e.record .mpe opc lat 2 x e.a e.b e.c

/-- A charge on the cluster's meter for an op; a refused one makes the op late (19 R463, R464). -/
def State.opSpend (s : State) (e : OpEnv) (classes : List Nat) (n : Nat) (go : State → Issue) : Issue :=
  let c := s.cost classes n
  match s.spend e.k.cluster c (.op e.ctx e.kh e.pe) with
  | none => .late (s.refuse e.k.cluster c (.op e.ctx e.kh e.pe))
  | some s => go s

/-- A store to word w of the op's stream. -/
def OpEnv.writeWord (e : OpEnv) (opc : Nat) (s : State) (w : Nat) (v : Nat) (step : StreamSt → StreamSt) :
    Issue :=
  match s.storeWord e.ctx e.kh e.pe e.ops e.key w (BitVec.ofNat 512 v) 1 with
  | .wait s => .late s
  | .go s lands run =>
    .done s { lands := lands, run := fun r => e.onStream step (run r), recs := e.storeRec opc (64 * w) lands }

/-- The window would reach its size while write-backs are pending (08 R244). -/
def StreamDesc.full (d : StreamDesc) (x : StreamSt) : Bool :=
  x.u + 64 - (x.u + 64 - d.ret) ≥ 2 ^ d.wlog && x.far.any (·.back)

/-- `st` (08 R249). -/
def stGo (s : State) (e : OpEnv) : Issue :=
  match e.strm? with
  | none => .done s {}
  | some (d, x) =>
    if d.full x then .late s
    else e.writeWord 0x03 s (x.u / 64) e.a (d.advance e.t 1)

/-- `st` (08 R249). -/
def execSt (f : OpF) (s : State) : Result := issueWith .mpe 0x03 f s stGo

/-- `stk` (08 R249). -/
def stkGo (s : State) (e : OpEnv) : Issue :=
  match e.strm? with
  | none => .done s {}
  | some (d, x) =>
    let back := 64 * (1 + e.b % 2 ^ 16)
    if x.u < back ∨ (x.u - back) / 64 < d.tail x then .done s { run := e.underrun }
    else e.writeWord 0x04 s ((x.u - back) / 64) e.a id

/-- `stk` (08 R249). -/
def execStk (f : OpF) (s : State) : Result := issueWith .mpe 0x04 f s stkGo

/-! ### Indexed access (08 R234, R251) -/

/-- The valid lanes of an INDEXED access: lane and index (08 R234, R251). -/
def indexLanes (bits bound a : Nat) : List (Nat × Nat) :=
  (List.range (512 / bits)).filterMap fun i =>
    let v := sx (a / 2 ^ (bits * i)) 32
    if 0 ≤ v ∧ v < bound then some (i, v.toNat) else none

/-- One lane of an `ldx`: its bits, a failure, the fault that it waits on, a pending page, or a walk. -/
inductive LaneLoad where
  | ok (v : Nat)
  | bad (cause : BitVec 16) (info : Nat)
  | wait (cause : BitVec 16) (va : Nat)
  | hold
  | walk

/-- One lane of an `ldx` as it stands; a translation that is not cached is late (08 R251). -/
def State.ldxLane (s : State) (ctx : Nat) (k : Kernel) (d : StreamDesc) (x : StreamSt) (f : PageFmt)
    (o : Nat) : LaneLoad :=
  let vas := (elemBytes d.base (d.bits x) d.swizzleMask o).1
  match x.badPage (pagesOf vas), s.foreignVa ctx k.cluster vas with
  | some b, _ => .bad b.cause b.info
  | none, some va => .bad 0x0306#16 va
  | none, none =>
    if (pagesOf vas).any x.pending.contains then .hold
    else match (s.asKernel ctx k).engRead ctx k.cluster (some f) [] vas with
    | .ok v _ => if vas.all (s.cached ctx k.cluster) then .ok v else .walk
    | .bad c i => if replayable c then .wait c i else .bad c i

/-- The bytes of the lanes of an `ldx`. -/
def OpEnv.indexVas (e : OpEnv) (d : StreamDesc) (x : StreamSt) : List Nat :=
  (indexLanes (d.bits x) (nth d.bounds 0 0) e.a).flatMap fun l => (elemBytes d.base (d.bits x) d.swizzleMask l.2).1

/-- An `ldx` comes behind the accesses of its stream and of those that an `sbar` awaits, as far as they do not wait for
a virtual cycle (08 R242, R253; log entry 72). -/
def OpEnv.ldxHeld (e : OpEnv) (x : StreamSt) : Bool :=
  e.k.run.heldNow e.key || (x.far.any fun f => f.ready ≤ e.t && !x.pending.contains (f.va / 4096))
    || e.k.run.atmBefore e.key e.t

/-- `ldx` (08 R251). -/
def ldxGo (s : State) (e : OpEnv) : Issue :=
  match e.strm? with
  | none => .done s (e.loads 0x05 0)
  | some (d, _) =>
    let (s, wait) := s.fixFmt e.ctx e.kh e.key e.k d
    let x := s.stream e.ctx e.kh e.key
    match x.fmt with
    | none =>
      if wait then .late s
      else .done s (e.loads 0x05 0 (fun r => r.tellFail e.pe e.ops e.key 0)
        [e.landing (opLatency .mpe 0x05 e.f) (.ldxMask e.key 0)])
    | some f =>
      let ls := (indexLanes (d.bits x) (nth d.bounds 0 0) e.a).map fun l =>
        (l.1, s.ldxLane e.ctx e.k d x f l.2)
      let walks : Bool := ls.any fun l => match l.2 with | .walk => true | _ => false
      let holds : Bool := ls.any fun l => match l.2 with | .hold => true | _ => false
      match ls.findSome? fun l => match l.2 with | .wait c a => some (c, a) | _ => none with
      | some (c, a) => .late (s.streamFault e.ctx e.kh e.key a c .read)
      | none =>
        if walks then .late (s.walk e.ctx e.k.cluster .read (e.indexVas d x))
        else if holds ∨ e.ldxHeld x then .late s
        else
        let get (i : Nat) : Nat := (ls.findSome? fun l => match l.2 with
          | .ok v => if l.1 = i then some v else none
          | _ => none).getD 0
        let good := ls.filterMap fun l => match l.2 with | .ok _ => some l.1 | _ => none
        let v := joinLanes (d.bits x) ((List.range (512 / d.bits x)).map get)
        let tell (r : Run) : Run :=
          match ls.findSome? fun l => match l.2 with | .bad c i => some (c, i) | _ => none with
          | some (c, i) => r.addEvent e.pe e.ops 0 c (Word.of i)
          | none => r
        .done s (e.loads 0x05 v tell [e.landing (opLatency .mpe 0x05 e.f) (.ldxMask e.key (maskOf good))])

/-- `ldx` (08 R251). -/
def execLdx (f : OpF) (s : State) : Result := issueWith .mpe 0x05 f s ldxGo

/-- `stx` (08 R251): the highest lane prevails; elements outside the region leave in stream order. -/
def stxGo (s : State) (e : OpEnv) : Issue :=
  match e.strm? with
  | none => .done s {}
  | some (d, _) =>
    let (s, wait) := s.fixFmt e.ctx e.kh e.key e.k d
    let x := s.stream e.ctx e.kh e.key
    if wait then .late s
    else if x.failed then .done s { run := fun r => r.tellFail e.pe e.ops e.key 0 }
    else
      let b := BitVec.ofNat 512 e.b
      let es := (indexLanes (d.bits x) (nth d.bounds 0 0) e.a).map fun l =>
        (l.1, d.elemVa x l.2, laneBytes (d.bits x) b l.1)
      let p := s.storePlan e.ctx e.k x es true
      match s.planWait e.ctx e.kh e.key 1 e.k p with
      | some s => .late s
      | none =>
        if p.near.length ≠ 0 ∧ e.k.run.heldNow e.key then .late s
        else s.opSpend e [0] p.near.length fun s =>
          let far := (es.filter fun y => p.far.contains y.1).map fun y =>
            ({ va := y.2.1, bytes := y.2.2, cyc := e.t, ready := e.t + 7, back := false } : FarStore)
          let tell (r : Run) : Run := match p.drops with
            | [] => r
            | (c, i) :: _ => r.addEvent e.pe e.ops 0 c (Word.of i)
          let lands := nearLands e.k e.key e.core e.pe e.ops 7 23 p.near
          .done s { lands := lands, run := fun r => tell (e.onStream (fun y => { y with far := y.far ++ far }) r),
                    recs := e.storeRec 0x06 0 lands }

/-- `stx` (08 R251). -/
def execStx (f : OpF) (s : State) : Result := issueWith .mpe 0x06 f s stxGo

/-! ### Scratchpad words (08 R250) -/

/-- The scratchpad word that an address operand names: its core and physical address; none for a core
outside the region. -/
def OpEnv.spWord (e : OpEnv) : Option (Nat × Nat) :=
  let core := if e.f.modBits 0 0 = 1 then bitsOf e.a 27 21 else e.core
  if core ≥ e.k.desc.cores then none else some (core, e.k.spm core + 64 * bitsOf e.a 20 6)

/-- `lds` (08 R250). -/
def ldsGo (s : State) (e : OpEnv) : Issue :=
  match e.spWord with
  | none => .done s (e.loads 0x07 0)
  | some (_, pa) =>
    s.opSpend e [0] 64 fun s =>
      match s.readError pa 64 with
      | some (c, i) => .done s (e.loads 0x07 0 fun r => r.addEvent e.pe e.ops 0 c (Word.of i))
      | none =>
        let (v, t) := (s.asKernel e.ctx e.k).load pa 64
        .done (s.after e.k t) (e.loads 0x07 v)

/-- `lds` (08 R250). -/
def execLds (f : OpF) (s : State) : Result := issueWith .mpe 0x07 f s ldsGo

/-- `sts` (08 R250): the bytes of B that C enables. -/
def stsGo (s : State) (e : OpEnv) : Issue :=
  match e.spWord with
  | none => .done s {}
  | some (_, pa) =>
    s.opSpend e [0] 64 fun s =>
      let en := (List.range 64).map fun i => if e.c.testBit i then 1 else 0
      let lands := [e.landing (opLatency .mpe 0x08 e.f) (.bytes pa (bytesOf e.b 64) en)]
      .done s { lands := lands, recs := e.storeRec 0x08 0 lands }

/-- `sts` (08 R250). -/
def execSts (f : OpF) (s : State) : Result := issueWith .mpe 0x08 f s stsGo

/-! ### Atomics, order and control (08 R252 to R255) -/

/-- `atm` (08 R252): the message leaves at the end of the issue cycle. -/
def atmGo (s : State) (e : OpEnv) : Issue :=
  let n := atmBytes e.f.ty
  let va := e.a % 2 ^ 57 / n * n
  let classes := ((s.aimOf e.ctx e.k.cluster va).map s.atomClasses).getD [2]
  s.opSpend e classes n fun s =>
    let m : AtmMsg := ⟨e.pe, e.ops, e.key, e.t, va, e.f.modBits 4 2, e.f.ty, Word.of e.b⟩
    .done s { run := fun r => { r with atms := r.atms ++ [m] } }

/-- `atm` (08 R252). -/
def execAtm (f : OpF) (s : State) : Result := issueWith .mpe 0x0A f s atmGo

/-- `sbar` (08 R253). -/
def execSbar (f : OpF) (s : State) : Result :=
  issueOp .mpe 0x0B f s neverLate fun _ e =>
    let b : SbarHold :=
      ⟨e.core, BitVec.ofNat 24 (bitsOf e.a 23 0), BitVec.ofNat 24 (bitsOf e.a 47 24), e.t⟩
    { run := fun r => { r with sbars := r.sbars ++ [b] } }

/-- `sadv` (08 R254). -/
def execSadv (f : OpF) (s : State) : Result :=
  issueOp .mpe 0x0C f s neverLate fun _ e =>
    match e.strm? with
    | none => {}
    | some (d, _) => { run := e.onStream (d.advance e.t (e.a % 2 ^ 16)) }

/-- The prefetch depth that `pfh` sets (08 R254). -/
def pfhDepth (d : StreamDesc) (v : Nat) : Nat :=
  let g := 64 * groupWords d.deliv
  let p := max 64 (min (v % 2 ^ 32 / 64 * 64) (2 ^ d.wlog - d.ret))
  if groupWords d.deliv = 1 then p else max g (p / g * g)

/-- `pfh` (08 R254): fills that it newly allows issue in its cycle. -/
def execPfh (f : OpF) (s : State) : Result :=
  issueOp .mpe 0x0D f s neverLate fun _ e =>
    match e.strm? with
    | none => {}
    | some (d, _) =>
      let p := pfhDepth d e.a
      { run := e.onStream fun x => d.topUp e.t p { x with pref := p } }

/-- `wsync` (08 R255): write-backs of a STORE stream; the refill of a LOAD stream from U on. -/
def execWsync (f : OpF) (s : State) : Result :=
  issueOp .mpe 0x0E f s neverLate fun _ e =>
    match e.strm? with
    | none => {}
    | some (d, x) =>
      if d.store then { run := e.onStream (d.writeBack e.t (· < x.u / 64)) }
      else if d.kind = .indexed ∨ x.failed then {}
      else { run := e.onStream fun y => y.refillFrom e.t (y.u / 64) d }

end Sys2Proof.Machine
end

