-- ==== Sys2Proof/Machine/Dpe.lean ====
section
/-! DEFINITION. The meanings of the op ring of the DPE: `dcvs` (09 R278, R279) and the expansion of the
masked-packed form, MPX8 and MPX16 (R280). -/
namespace Sys2Proof.Machine

/-- The target format of a `dcvs` (09 R278). -/
def cvtFmt (tgt : Nat) : Fmt := nth [Fmt.bf16, .f16, .e4m3, .e5m2, .t8] tgt .t8

/-- The codes of the sixteen FP32 lanes of a value in a target format, joined, and their bytes. -/
def cvtCodes (tgt : Nat) (sat : Bool) (v : Nat) : Nat × Nat :=
  let g := cvtFmt tgt
  let code (i : Nat) : Nat := g.enc (Fmt.f32.dec (laneNat 9 v i)) .rne sat
  (joinLanes g.width ((List.range 16).map code), 2 * g.width)

/-- The bytes that a `dcvs` replaces, as a mask, and the codes at their place (09 R278). -/
def cvtPlace (tgt q : Nat) (sat : Bool) (v : Nat) : Nat × Nat :=
  let (c, n) := cvtCodes tgt sat v
  ((2 ^ (8 * n) - 1) * 2 ^ (8 * n * q), c * 2 ^ (8 * n * q))

/-- The landing of a `dcvs` in CR and the latches that capture it (09 R279). -/
def OpEnv.crLand (e : OpEnv) (mask v : Nat) : Landing :=
  e.landing (opLatency .dpe 0x12 e.f)
    (.cr (BitVec.ofNat 512 mask) (BitVec.ofNat 512 v) (e.f.l0c = 1) (e.f.l1c = 1))

/-- `dcvs` in the op ring with TGT 0 to 4 (09 R279). -/
def execDcvsOp (f : OpF) (s : State) : Result :=
  issueOp .dpe 0x12 f s neverLate fun _ e =>
    let (m, v) := cvtPlace (f.modBits 2 0) (f.modBits 6 5) (f.mod.getLsbD 3) e.a
    { lands := [e.crLand m v], recs := e.record .dpe 0x12 2 1 0 v 0 0 }

/-! ### The masked-packed form (09 R280) -/

/-- Bytes from a position on: none, with the position, at the first byte that has not arrived. -/
def takeBytes (get : Nat → Option Nat) (p : Nat) : Nat → Except Nat (List Nat)
  | 0 => .ok []
  | n + 1 =>
    match get p with
    | none => .error p
    | some b => match takeBytes get (p + 1) n with
      | .error q => .error q
      | .ok bs => .ok (b :: bs)

/-- The codes of a group from its mask and the bytes of its set codes. -/
def expandCodes (esz mask : Nat) (bs : List Nat) : Nat → List Nat
  | 0 => []
  | n + 1 =>
    if mask % 2 = 1 then ofBytes (bs.take esz) :: expandCodes esz (mask / 2) (bs.drop esz) n
    else 0 :: expandCodes esz (mask / 2) bs n

/-- Groups expanded from a byte position: the codes and the position behind them, or the byte that has
not arrived. -/
def expandGroups (get : Nat → Option Nat) (esz : Nat) : Nat → Nat → Except Nat (List Nat × Nat)
  | 0, p => .ok ([], p)
  | n + 1, p =>
    match takeBytes get p 2 with
    | .error q => .error q
    | .ok h =>
      let m := ofBytes h
      let len := esz * popCount m 16
      match takeBytes get (p + 2) len with
      | .error q => .error q
      | .ok bs =>
        match expandGroups get esz n (p + 2 + len) with
        | .error q => .error q
        | .ok (cs, r) => .ok (expandCodes esz m bs 16 ++ cs, r)

/-- A byte of a stream's word sequence: zero beyond the last word and below the tail, none while its fill is out. -/
def StreamDesc.byteAt (d : StreamDesc) (x : StreamSt) (p : Nat) : Option Nat :=
  if x.failed ∨ (d.sized x ∧ d.words x ≤ p / 64) ∨ p / 64 < d.tail x then some 0
  else (Tab.get? x.win (p / 64)).map fun w => w.data.toNat / 2 ^ (8 * (p % 64)) % 256

/-- MPX: expansion into CR (09 R280); bytes beyond U + PREF make their fills issue, bytes below the tail raise 0x0202
(08 R237, 04 R515). -/
def mpxGo (esz : Nat) (s : State) (e : OpEnv) : Issue :=
  let key := streamKey e.core (e.f.mod.getLsbD 4) e.f.stream
  match e.k.strm? key with
  | none => .done s { lands := [e.crLand (2 ^ 512 - 1) 0] }
  | some d =>
    let x := e.k.run.stream key
    match expandGroups (d.byteAt x) esz (4 / esz) x.bp with
    | .error p =>
      let y := d.topUp e.t ((p / 64 + 1) * 64 - x.u) x
      .late (s.putStream e.ctx e.kh key (if x.issued ≤ p / 64 then y else x))
    | .ok (cs, p) =>
      let v := joinLanes (8 * esz) cs
      let step (y : StreamSt) : StreamSt := d.advance e.t (p / 64 - y.u / 64) { y with bp := p }
      .done s { lands := [e.crLand (2 ^ 512 - 1) v], recs := e.record .dpe 0x12 2 1 0 v 0 0,
                run := fun r =>
                  let r := if !x.failed ∧ x.bp / 64 < d.tail x then e.underrun r else r
                  (r.putStream key (step (r.stream key))).tellFail e.pe e.ops key (x.bp / 64) }

/-- MPX8 (09 R280). -/
def execMpx8 (f : OpF) (s : State) : Result := issueWith .dpe 0x12 f s (mpxGo 1)
/-- MPX16 (09 R280). -/
def execMpx16 (f : OpF) (s : State) : Result := issueWith .dpe 0x12 f s (mpxGo 2)

end Sys2Proof.Machine
end

