-- ==== Sys2Proof/Machine/Drain.lean ====
section
/-! DEFINITION. Drain programs: the lanewise arithmetic, conversions and packing of drain words
(09 R265 to R278), their place in a beat (R258 to R263), beats of the drain path (03 R88) and padded
words (R269). -/
namespace Sys2Proof.Machine

/-! ### The program of a core -/

/-- The place of `dloop`, the number of prologue words (09 R258). -/
def progLoop (ws : List (BitVec 32)) : Nat :=
  (ws.findIdx? fun w => w.extractLsb' 26 6 = 0x0C#6).getD 0
/-- The group size G (09 R261). -/
def progG (ws : List (BitVec 32)) : Nat := (nth ws (progLoop ws) 0).toNat % 16 + 1
/-- The body position of `dmax.grp`, if any (09 R263). -/
def progWall (ws : List (BitVec 32)) : Option Nat :=
  ((ws.drop (progLoop ws + 1)).takeWhile fun w => w.extractLsb' 26 6 ≠ 0x0D#6).findIdx? fun w =>
    w.extractLsb' 26 6 = 0x06#6 && w.getLsbD 7

/-- The cycle of a beat's next word (09 R263). -/
def Beat.when_ (b : Beat) (wall : Option Nat) : Nat :=
  match wall with
  | some kg => if b.k ≤ kg then b.t0 + b.k else b.t1 + b.k
  | none => b.t0 + b.k

/-- The index of the word that a beat runs next. -/
def Beat.word (b : Beat) (ws : List (BitVec 32)) : Nat := progLoop ws + 1 + b.k

/-- A group of a drain: the runs of min(G, n) beats (09 R261). -/
def Beat.size (b : Beat) (ws : List (BitVec 32)) : Nat := min (progG ws) b.n

/-! ### The surroundings of a word -/

/-- The surroundings of a drain word: kernel, core, drain side, the beat or none in the prologue, the
registers that it sees, and its word index. -/
structure DEnv where
  ctx : Nat
  kh : Nat
  core : Nat
  k : Kernel
  d : DrainSt
  beat : Option Beat
  regs : BitVec 8192
  lens : List Nat
  idx : Nat

/-- The number of the beat within its drain; 0 in the prologue (09 R270). -/
def DEnv.b (e : DEnv) : Nat := (e.beat.map Beat.b).getD 0
/-- A register's data. -/
def DEnv.reg (e : DEnv) (i : Nat) : Nat := (lane 512 e.regs i).toNat
/-- A register's data by its field. -/
def DEnv.r (e : DEnv) (i : BitVec 4) : Nat := e.reg i.toNat
/-- A register's byte count. -/
def DEnv.len (e : DEnv) (i : BitVec 4) : Nat := nth e.lens i.toNat 0
/-- The PE number of the DPE. -/
def DEnv.pe (e : DEnv) : Nat := 16 * e.core + 15
/-- The current virtual cycle. -/
def DEnv.t (e : DEnv) : Nat := e.k.run.vcc

/-- The value that `dmax.grp` leaves in its register (09 R273): the maximum of the group, the canonical
NaN when every lane was NaN. -/
def groupValue (lt : BitVec 2) (best : Option Int) : Nat :=
  let ty := nth [9, 5, 0xA, 7] lt.toNat 9
  let w := typeWidth ty
  mapLanes ty fun _ => match best with
    | some v => lowBits v w
    | none => (typeFmt ty).nan

/-- The registers that a beat's next word sees: those of the prologue at its first word, the group's
maximum in place behind `dmax.grp` (09 R260, R273). -/
def DrainSt.beatRegs (d : DrainSt) (b : Beat) : BitVec 8192 × List Nat :=
  if b.k = 0 then (d.regs, d.lens)
  else
    match progWall d.image with
    | some kg =>
      if b.k = kg + 1 then
        let w := nth d.image (progLoop d.image + 1 + kg) 0
        let g := d.groups.find? fun g => g.serial = b.serial && g.g = b.b / max 1 (b.size d.image)
        let v := groupValue (w.extractLsb' 12 2) (g.bind GroupMax.best)
        let dd := (w.extractLsb' 22 4).toNat
        (setLane b.regs dd (BitVec.ofNat 512 v), b.lens.set dd 64)
      else (b.regs, b.lens)
    | none => (b.regs, b.lens)

/-- The surroundings of the drain word at the focus. -/
def State.drainEnv (s : State) : Option DEnv :=
  match s.kernel? s.cur.ctx s.cur.kern with
  | none => none
  | some k =>
    let d := k.run.drain s.cur.core
    match s.cur.beat with
    | none => some ⟨s.cur.ctx, s.cur.kern, s.cur.core, k, d, none, d.regs, d.lens, d.pos⟩
    | some (sr, i) =>
      match d.beats.find? fun b => b.serial = sr && b.b = i with
      | none => none
      | some b =>
        let (regs, lens) := d.beatRegs b
        some ⟨s.cur.ctx, s.cur.kern, s.cur.core, k, d, some b, regs, lens, b.word d.image⟩

/-- The site of a drain word. -/
def DEnv.site (e : DEnv) : Site := .word e.core (e.beat.map fun b => (b.serial, b.b))

/-- The unit has run its word: registers are kept, the next word is due; `dloop` and `dend`, which take
no cycle, run in the same cycle (09 R263). -/
def DEnv.step (e : DEnv) (regs : BitVec 8192) (lens : List Nat) (r : Run) : Run :=
  let d := r.drain e.core
  let d := match e.beat with
    | none => { d with regs := regs, lens := lens, pos := d.pos + 1 }
    | some b =>
      let go (c : Beat) : Beat :=
        if c.serial = b.serial ∧ c.b = b.b then { b with regs := regs, lens := lens, k := b.k + 1 } else c
      { d with beats := d.beats.map go }
  let opc := (nth d.image (e.idx + 1) 0).extractLsb' 26 6
  let r := r.putDrain e.core d
  if opc = 0x0D#6 ∨ opc = 0x0C#6 then { r with todo := e.site :: r.todo } else r

/-- What a drain word comes to: a late access, or new registers with landings and a change of the
round. -/
inductive DRes where
  | late (s : State)
  | done (s : State) (regs : BitVec 8192) (lens : List Nat) (lands : List Landing) (run : Run → Run)

/-- A late access of a drain word: a pause, or in strict mode the timing trap (05 R145, R147). -/
def State.lateWord (s : State) (e : DEnv) : State :=
  if e.k.run.strict then s.timingTrap e.ctx e.kh e.core 15 e.idx
  else s.modRun e.ctx e.kh (·.pause e.site)

/-- One drain word runs: it charges class 13 (19 R477). -/
def drainWith (s : State) (go : State → DEnv → DRes) : Result :=
  match s.drainEnv with
  | none => .next s
  | some e =>
    match go s e with
    | .late s => .next (s.lateWord e)
    | .done s regs lens lands run =>
      let s := s.charge e.ctx (128 * e.k.cluster + e.k.physCore e.core) (s.weight 13)
      .next (s.modRun e.ctx e.kh fun r => e.step regs lens (run (r.addLandings lands)))

/-- A drain word that writes one register, with its byte count. -/
def drainSet (s : State) (dd : BitVec 4) (g : DEnv → Nat) (n : DEnv → Nat := fun _ => 64) : Result :=
  drainWith s fun s e =>
    .done s (setLane e.regs dd.toNat (BitVec.ofNat 512 (g e))) (e.lens.set dd.toNat (n e)) [] id

/-! ### Lanes -/

/-- The type selector of a lane type (09 R259). -/
def ltTy (lt : BitVec 2) : Nat := nth [9, 5, 0xA, 7] lt.toNat 9

/-- A lanewise operation rounded once, or exact on integers and then wrapped or clamped (09 R265). -/
def dArith (lt rm : BitVec 2) (sat : Bool) (n : Nat) (f : Rm → (Nat → Val) → Val) (i : (Nat → Int) → Int)
    (xs : Nat → Nat → Nat) : Nat :=
  let ty := ltTy lt
  let fm := typeFmt ty
  mapLanes ty fun l =>
    if typeFloat ty then fm.enc (f (Rm.of2 rm) fun k => fm.dec (xs k l)) (Rm.of2 rm) sat
    else
      let v := i fun k => readInt true (xs k l) n
      lowBits (if sat then satS v n else v) n

/-- The operands of a lanewise operation: lane by lane of two values. -/
def pairLanes (lt : BitVec 2) (a b : Nat) (k l : Nat) : Nat := laneNat (ltTy lt) (if k = 0 then a else b) l

/-- Lane width of a lane type. -/
def ltWidth (lt : BitVec 2) : Nat := typeWidth (ltTy lt)

/-- `dadd` (09 R270). -/
def execDadd (dd da db : BitVec 4) (lt rm : BitVec 2) (sat : Bool) (s : State) : Result :=
  drainSet s dd fun e => dArith lt rm sat (ltWidth lt) (fun m v => (v 0).add (v 1) m)
    (fun v => v 0 + v 1) (pairLanes lt (e.r da) (e.r db))
/-- `dmul` (09 R270). -/
def execDmul (dd da db : BitVec 4) (lt rm : BitVec 2) (sat : Bool) (s : State) : Result :=
  drainSet s dd fun e => dArith lt rm sat (ltWidth lt) (fun _ v => (v 0).mul (v 1))
    (fun v => v 0 * v 1) (pairLanes lt (e.r da) (e.r db))
/-- `dscl` (09 R270). -/
def execDscl (dd da db : BitVec 4) (lt rm : BitVec 2) (sat : Bool) (j : BitVec 4) (s : State) : Result :=
  drainSet s dd fun e => dArith lt rm sat (ltWidth lt) (fun _ v => (v 0).mul (v 1))
    (fun v => v 0 * v 1)
    fun k l => laneNat (ltTy lt) (if k = 0 then e.r da else e.r db) (if k = 0 then l else j.toNat)
/-- `dbias` (09 R270). -/
def execDbias (dd da db : BitVec 4) (lt rm : BitVec 2) (sat : Bool) (nb : BitVec 4) (s : State) : Result :=
  drainSet s dd fun e => dArith lt rm sat (ltWidth lt) (fun m v => (v 0).add (v 1) m)
    (fun v => v 0 + v 1) (pairLanes lt (e.r da) (e.reg (db.toNat + e.b % (nb.toNat + 1))))

/-- A clamp of one lane between two bounds (07 R207). -/
def clampLane (ty x lo hi : Nat) : Nat :=
  if typeFloat ty then
    let fm := typeFmt ty
    if (fm.dec x).isNan then fm.nan else floatExtreme fm false false (floatExtreme fm false true x lo) hi
  else
    let v (y : Nat) : Int := readInt true y (typeWidth ty)
    lowBits (min (max (v x) (v lo)) (v hi)) (typeWidth ty)

/-- `dclp` (09 R270). -/
def execDclp (dd da db : BitVec 4) (lt : BitVec 2) (j : BitVec 4) (s : State) : Result :=
  drainSet s dd fun e =>
    let ty := ltTy lt
    let b (i : Nat) : Nat := laneNat ty (e.r db) (j.toNat + i)
    mapLanes ty fun l => clampLane ty (laneNat ty (e.r da) l) (b 0) (b 1)
/-- `dsel` (09 R270); a NaN lane is the canonical NaN (02 R44, 09 R265). -/
def execDsel (dd da db : BitVec 4) (lt : BitVec 2) (s : State) : Result :=
  drainSet s dd fun e =>
    let ty := ltTy lt
    mapLanes ty fun l => laneCanon ty (laneNat ty (if laneNat ty (e.r dd) l ≠ 0 then e.r da else e.r db) l)

/-- The magnitude of a lane under ABS, as an integer, or as the pattern of a float. -/
def absLane (ty : Nat) (abs : Bool) (x : Nat) : Int :=
  let w := typeWidth ty
  if typeFloat ty then (if abs then x % 2 ^ (w - 1) else x : Nat)
  else
    let v := readInt true x w
    if abs then v.natAbs else v

/-- The greater of two such lanes (07 R198). -/
def maxLane (ty : Nat) (x y : Int) : Int :=
  if typeFloat ty then floatExtreme (typeFmt ty) false true x.toNat y.toNat else max x y

/-- `dmax` (09 R270). -/
def execDmax (dd da db : BitVec 4) (lt : BitVec 2) (abs : Bool) (s : State) : Result :=
  drainSet s dd fun e =>
    let ty := ltTy lt
    mapLanes ty fun l => lowBits (maxLane ty (absLane ty abs (laneNat ty (e.r da) l))
      (absLane ty abs (laneNat ty (e.r db) l))) (typeWidth ty)

/-- The maximum of a value's lanes and a running one, NaN lanes skipped (09 R273). -/
def foldMax (ty : Nat) (abs : Bool) (v : Nat) (best : Option Int) : Option Int :=
  (List.range (laneCount ty)).foldl (fun o l =>
    let x := laneNat ty v l
    if typeFloat ty ∧ ((typeFmt ty).dec x).isNan then o
    else
      let y := absLane ty abs x
      some ((o.map (maxLane ty y)).getD y)) best

/-- `dmax.grp` (09 R273): the beat joins the reduction of its group. -/
def execDmaxGrp (_dd da : BitVec 4) (lt : BitVec 2) (abs : Bool) (s : State) : Result :=
  drainWith s fun s e =>
    let add (r : Run) : Run :=
      match e.beat with
      | none => r
      | some b =>
        let d := r.drain e.core
        let g := b.b / max 1 (b.size d.image)
        let same (x : GroupMax) : Bool := x.serial = b.serial && x.g = g
        let old := (d.groups.find? same).bind GroupMax.best
        let new : GroupMax := ⟨b.serial, g, foldMax (ltTy lt) abs (e.r da) old⟩
        r.putDrain e.core { d with groups := new :: d.groups.filter fun x => !same x }
    .done s e.regs e.lens [] add

/-- `dact` (09 R271): 0 ReLU, 1 leaky, 2 absolute value. -/
def execDact (dd da db : BitVec 4) (rm : BitVec 2) (sat : Bool) (fn : BitVec 2) (s : State) : Result :=
  drainSet s dd fun e =>
    let sl := Fmt.f32.dec (laneNat 9 (e.r db) 0)
    mapLanes 9 fun l =>
      let x := laneNat 9 (e.r da) l
      let v := Fmt.f32.dec x
      if v.isNan then Fmt.f32.nan
      else if fn = 0 then (if v.isZero ∨ v.neg? then 0 else x)
      else if fn = 1 then (if v.neg? ∧ !v.isZero then Fmt.f32.enc (v.mul sl) (Rm.of2 rm) sat else x)
      else x % 2 ^ 31

/-- The segment of a piecewise-linear function that a p falls in (09 R272). -/
def segmentOf : Val → Option Nat
  | .nan => none
  | .inf neg => some (if neg then 0 else 15)
  | .fin neg m x => some (max 0 (min (roundInt .rdn neg m x) 15)).toNat

/-- `dtab` (09 R272). -/
def execDtab (dd da db : BitVec 4) (rm : BitVec 2) (sat : Bool) (s : State) : Result :=
  drainSet s dd fun e =>
    let f (r l : Nat) : Val := Fmt.f32.dec (laneNat 9 (e.reg r) l)
    let b := db.toNat
    mapLanes 9 fun l =>
      let x := f da.toNat l
      match segmentOf ((x.add (f (b + 2) 0).negate .rne).mul (f (b + 2) 1)) with
      | none => Fmt.f32.nan
      | some j => Fmt.f32.enc (((f b j).mul x).add (f (b + 1) j) (Rm.of2 rm)) (Rm.of2 rm) sat

/-! ### Conversion, quantisation, packing -/

/-- One lane converted between lane types (09 R274, 07 R200). -/
def dcvtLane (dlt slt rm : BitVec 2) (sat : Bool) (x : Nat) : Nat :=
  let m := Rm.of2 rm
  let w := ltWidth dlt
  if typeFloat (ltTy dlt) then
    (typeFmt (ltTy dlt)).enc (if typeFloat (ltTy slt) then (typeFmt (ltTy slt)).dec x
      else Val.ofInt (readInt true x (ltWidth slt))) m sat
  else if typeFloat (ltTy slt) then lowBits (((typeFmt (ltTy slt)).dec x).toInt m true w) w
  else
    let v := readInt true x (ltWidth slt)
    lowBits (if sat then satS v w else v) w

/-- `dcvt` (09 R274). -/
def execDcvt (dd da db : BitVec 4) (dlt rm : BitVec 2) (sat : Bool) (slt : BitVec 2) (hi : Bool)
    (s : State) : Result :=
  drainSet s dd fun e =>
    let src (r : BitVec 4) (i : Nat) : Nat := laneNat (ltTy slt) (e.r r) i
    mapLanes (ltTy dlt) fun l =>
      dcvtLane dlt slt rm sat
        (if dcvtWidens dlt slt then src da (if hi then l + 8 else l)
         else if dcvtNarrows dlt slt ∧ 8 ≤ l then src db (l - 8)
         else src da l)

/-- A format of `dqnt`: its float format, or the bits of its integer (09 R275). -/
def qntFmt (fmt : Nat) : Option Fmt × Nat :=
  match fmt with
  | 0 => (some .t8, 8) | 1 => (some .t6, 6) | 2 => (some .e4m3, 8) | 3 => (some .e5m2, 8)
  | 4 => (some .bf16, 16) | 5 => (some .f16, 16) | 6 => (none, 8) | _ => (none, 16)

/-- The code of a value in a format of `dqnt` (09 R275). -/
def qntCode (fmt : Nat) (rm : BitVec 2) (sat : Bool) (v : Val) : Nat :=
  match qntFmt fmt with
  | (some g, _) => g.enc v (Rm.of2 rm) sat
  | (none, n) => lowBits (v.toInt (Rm.of2 rm) true n) n

/-- QMAX as an integer and a power of two (09 R275). -/
def qntMax (fmt : Nat) : Nat × Int :=
  match fmt with
  | 0 => (4, 0) | 1 => (4, 0) | 2 => (448, 0) | 3 => (57344, 0) | 4 => (255, 120) | 5 => (65504, 0)
  | 6 => (127, 0) | _ => (32767, 0)

/-- `dqnt` in mode 0 (09 R275). -/
def execDqnt (dd da : BitVec 4) (fmt : BitVec 4) (sat : Bool) (rm : BitVec 2) (s : State) : Result :=
  drainSet s dd fun e => mapLanes 9 fun l =>
    qntCode fmt.toNat rm sat (Fmt.f32.dec (laneNat 9 (e.r da) l))

/-- `dqnt` in mode 1: the quotient by a scale, rounded once (09 R275). -/
def execDqntScl (dd da db : BitVec 4) (fmt : BitVec 4) (sat : Bool) (rm : BitVec 2) (s : State) : Result :=
  drainSet s dd fun e =>
    let sc := Fmt.f32.dec (laneNat 9 (e.r db) 0)
    mapLanes 9 fun l =>
      if sc.isZero ∨ sc.isInf ∨ sc.isNan then ((qntFmt fmt.toNat).1.map Fmt.nan).getD 0
      else qntCode fmt.toNat rm sat ((Fmt.f32.dec (laneNat 9 (e.r da) l)).div sc)

/-- The least e with m · 2^x ≤ QMAX · 2^e, from a start on (09 R275). -/
def leastExp (m : Nat) (x : Int) (q : Nat × Int) (e : Int) : Nat → Int
  | 0 => e
  | n + 1 => if cmpMag m x q.1 (q.2 + e) = .gt then leastExp m x q (e + 1) n else e

/-- The power-of-two scale of a group maximum (09 R275). -/
def qntScale (fmt x : Nat) : Nat :=
  match (Fmt.f32.dec x).abs with
  | .fin _ m ex =>
    if m = 0 then Fmt.f32.enc (.fin false 1 0) .rne
    else
      let q := qntMax fmt
      let start : Int := m.log2 + ex - (q.1.log2 + q.2) - 1
      Fmt.f32.enc (.fin false 1 (max (leastExp m ex q start 3) (-126))) .rne
  | _ => Fmt.f32.nan

/-- `dqnt` in mode 2: a scale (09 R275). -/
def execDqntMks (dd da : BitVec 4) (fmt : BitVec 4) (_sat : Bool) (_rm : BitVec 2) (s : State) : Result :=
  drainSet s dd (fun e => qntScale fmt.toNat (laneNat 9 (e.r da) 0)) fun _ => 4

/-- `dpack` (09 R276). -/
def execDpack (dd da : BitVec 4) (cs : BitVec 2) (s : State) : Result :=
  let n := nth [8, 16, 6] cs.toNat 8
  drainSet s dd (fun e => joinLanes n ((List.range 16).map fun i => laneNat 9 (e.r da) i % 2 ^ n))
    fun _ => 2 * n

/-- The masked-packed form of sixteen codes of some bytes (09 R277): its bytes. -/
def maskedPacked (nz80 : Bool) (esz v : Nat) : List Nat :=
  let code (i : Nat) : Nat := laneNat 9 v i % 2 ^ (8 * esz)
  let zero (c : Nat) : Bool := c = 0 || (nz80 && c = 2 ^ (8 * esz - 1))
  let set := (List.range 16).filter fun i => !zero (code i)
  bytesOf (set.foldl (fun m i => m + 2 ^ i) 0) 2 ++ set.flatMap fun i => bytesOf (code i) esz

/-- `dmpk` (09 R277). -/
def execDmpk (dd da : BitVec 4) (nz80 w16 : Bool) (s : State) : Result :=
  let form (e : DEnv) : List Nat := maskedPacked nz80 (if w16 then 2 else 1) (e.r da)
  drainSet s dd (fun e => ofBytes (form e)) fun e => (form e).length

/-- `dcvs` in a program (09 R278). -/
def execDcvs (dd da : BitVec 4) (q : BitVec 2) (sat : Bool) (tgt : BitVec 3) (s : State) : Result :=
  drainSet s dd fun e =>
    let (m, v) := cvtPlace tgt.toNat q.toNat sat (e.r da)
    (BitVec.ofNat 512 (e.r dd) &&& ~~~(BitVec.ofNat 512 m) ||| BitVec.ofNat 512 v).toNat

/-! ### Data movement -/

/-- `dld` without a stream (09 R267): the beat. -/
def execDld (dd : BitVec 4) (s : State) : Result :=
  drainSet s dd fun e => (e.beat.map fun b => b.data.toNat).getD 0

/-- `dld` from a stream (09 R267): the word at U, as `ld` reads it. -/
def execDldStream (dd : BitVec 4) (m : Bool) (st : BitVec 4) (s : State) : Result :=
  drainWith s fun s e =>
    let key := streamKey e.core m st.toNat
    let out (v : Nat) (run : Run → Run) : DRes :=
      .done s (setLane e.regs dd.toNat (BitVec.ofNat 512 v)) (e.lens.set dd.toNat 64) [] run
    match e.k.strm? key with
    | none => out 0 id
    | some d =>
      let x := e.k.run.stream key
      let w := x.u / 64
      if x.wordLate w then .late s
      else
        let v := match d.read x w with | .data v _ => v | .under => 0
        out v fun r => (r.putStream key (d.advance e.t 1 ((r.stream key).use w))).tellFail e.pe e.idx key w

/-- `dmov` (09 R268). -/
def execDmov (dd da : BitVec 4) (s : State) : Result := drainSet s dd (fun e => e.r da) fun e => e.len da

/-- `dmov` with an immediate (09 R268). -/
def execDmovImm (dd : BitVec 4) (fl : Bool) (v : BitVec 12) (s : State) : Result :=
  drainSet s dd fun _ => mapLanes 5 fun _ =>
    if fl then Fmt.f32.enc (Val.ofInt v.toInt) .rne else lowBits v.toInt 32

/-- Where an appending word comes to: the state, landings and change of the round, or a wait. -/
def State.putOut (s : State) (e : DEnv) (key : Nat) (bytes : List Nat) : StoreRes :=
  match e.k.strm? key with
  | none => .go s [] id
  | some d =>
    let x := s.stream e.ctx e.kh key
    if d.full x then .wait s
    else
      match s.storeWord e.ctx e.kh e.pe e.idx key (x.u / 64) (BitVec.ofNat 512 (ofBytes bytes)) 3 with
      | .wait s => .wait s
      | .go s ls run => .go s ls fun r =>
          let r := run r
          r.putStream key (d.advance e.t 1 (r.stream key))

/-- The partial word of a drain for a stream; the first drain goes on where the prologue stopped
(09 R269). -/
def DrainSt.part (d : DrainSt) (serial key : Nat) : List Nat :=
  let get (n : Nat) : Option Part := d.parts.find? fun p => p.serial = n && p.key = key
  match get serial <|> get 0 with
  | some p => p.bytes
  | none => []

/-- A partial word replaced. -/
def DrainSt.putPart (d : DrainSt) (serial key : Nat) (bytes : List Nat) : DrainSt :=
  let rest := d.parts.filter fun p => p.key ≠ key || (p.serial ≠ serial && p.serial ≠ 0)
  { d with parts := if bytes = [] then rest else rest ++ [⟨serial, key, bytes⟩] }

/-- `dst` (09 R269). -/
def execDst (da : BitVec 4) (gf m : Bool) (st : BitVec 4) (s : State) : Result :=
  drainWith s fun s e =>
    let key := streamKey e.core m st.toNat
    let serial := (e.beat.map Beat.serial).getD 0
    let skip := gf && (e.beat.any fun b => b.b % max 1 (b.size e.d.image) ≠ 0)
    let bytes := e.d.part serial key ++ bytesOf (e.r da) (e.len da)
    let keep (r : Run) : Run := r.putDrain e.core ((r.drain e.core).putPart serial key
      (if bytes.length < 64 then bytes else bytes.drop 64))
    if skip then .done s e.regs e.lens [] id
    else if bytes.length < 64 then .done s e.regs e.lens [] keep
    else
      match s.putOut e key (bytes.take 64) with
      | .wait s => .late s
      | .go s ls run => .done s e.regs e.lens ls fun r => keep (run r)

/-! ### `dloop` and `dend` (09 R258, R261) -/

/-- `dloop`: the prologue has run; its group size stands in the word. -/
def execDloop (_g : BitVec 4) (s : State) : Result :=
  match s.drainEnv with
  | none => .next s
  | some e => .next (s.modRun e.ctx e.kh fun r =>
      r.putDrain e.core { r.drain e.core with pos := e.idx + 1 })

/-- `dend`: the beat has run the body; behind the last beat of its drain, partial words are padded in
the next cycle (09 R269). -/
def execDend (s : State) : Result :=
  match s.drainEnv with
  | none => .next s
  | some e =>
    match e.beat with
    | none => .next s
    | some b => .next (s.modRun e.ctx e.kh fun r =>
        let d := r.drain e.core
        let beats := d.beats.filter fun c => c.serial ≠ b.serial || c.b ≠ b.b
        let ended := beats.all (fun c => c.serial ≠ b.serial) && d.cur.all (fun c => c.serial ≠ b.serial)
        let pads := if ended then d.pads ++ [(r.vcc + 1, b.serial)] else d.pads
        let groups := if ended then d.groups.filter fun g => g.serial ≠ b.serial else d.groups
        r.putDrain e.core { d with beats := beats, pads := pads, groups := groups })

/-! ### Beats of the drain path (03 R88, 09 R264) -/

/-- The mode of the bank that a drain reads. -/
def Run.drainBank (r : Run) (core : Nat) (cpe bank : Bool) : Bank := (r.pe core (cpeSlot cpe)).bank bank

/-- The drain of this cycle: the one in progress, or the first of the queue whose bank has a mode
(06 R182). -/
def Run.nextDrain (r : Run) (core p : Nat) (d : DrainSt) : List (Bool × Bool) → DrainSt
  | [] => { d with queue := [] }
  | (c, b) :: q =>
    match (r.drainBank core c b).mode with
    | none => r.nextDrain core p d q
    | some m =>
      { d with queue := q, serials := d.serials + 1,
               cur := some { cpe := c, bank := b, beats := drainBeats m.w m.ty, serial := d.serials + 1,
                             e := max r.vcc (r.start + p) } }

/-- The 512 bits that beat b of a bank carries (03 R88). -/
def Bank.beat (k : Bank) (b : Nat) : Wide :=
  match k.mode with
  | none => 0
  | some m =>
    if b ≥ drainBeats m.w m.ty then 0 else k.granule (m.w ≥ 2 || m.ty = 0xB) b

/-- The beat would read a fold register while a fold of the bank is unfinished (03 R83). -/
def Pe.beatLate (p : Pe) (bank : Bool) (b : Nat) : Bool :=
  p.foldBusy bank && ((p.bank bank).mode.any fun m =>
    b < drainBeats m.w m.ty && (m.w ≥ 2 || m.ty = 0xB))

/-- The drain path of a core once the drain of this cycle is chosen. -/
def Run.path (r : Run) (core : Nat) : DrainSt :=
  let d := r.drain core
  match d.cur with
  | some _ => d
  | none => r.nextDrain core (progLoop d.image) d d.queue

/-- The beat of this cycle is late: without a program never (06 R182). -/
def Kernel.beatLate (k : Kernel) (core : Nat) : Bool :=
  let d := k.run.path core
  d.image ≠ [] && d.cur.any fun c => (k.run.pe core (cpeSlot c.cpe)).beatLate c.bank c.next

/-- DRAIN_BEAT (03 R88, 09 R260, R263, R264): the drain path of the core on the move reads a beat, and
the DPE accepts it. -/
def execDrainBeat (s : State) : Result :=
  let core := s.cur.core
  match s.kernel? s.cur.ctx s.cur.kern with
  | none => .next s
  | some k =>
    if k.beatLate core then
      if k.run.strict then
        .next (s.timingTrap s.cur.ctx s.cur.kern core 15 0)
      else .next (s.modRun s.cur.ctx s.cur.kern (·.pause (.beat core)))
    else
      .next (s.modRun s.cur.ctx s.cur.kern fun r =>
        let d := r.path core
        match d.cur with
        | none => r.putDrain core d
        | some c =>
          let v := (r.drainBank core c.cpe c.bank).beat c.next
          let d := { d with head := v,
                            cur := if c.next + 1 < c.beats then some { c with next := c.next + 1 } else none }
          if d.image = [] then r.putDrain core d
          else
            let t0 := c.e + c.next
            let t1 := max (t0 + (min (progG d.image) c.beats - 1)) (d.wall + 1)
            let b : Beat := { serial := c.serial, b := c.next, n := c.beats, data := v, t0 := t0, t1 := t1 }
            let d := { d with beats := d.beats ++ [b],
                              wall := if (progWall d.image).isSome then t1 else d.wall }
            let r := r.putDrain core d
            if t0 = r.vcc then { r with todo := r.todo ++ [.word core (some (c.serial, c.next))] } else r)

/-! ### Padded words (09 R269) -/

/-- The padded words of a drain, stream by stream. -/
def State.padParts (s : State) (e : DEnv) : List Part → StoreRes
  | [] => .go s [] id
  | p :: ps =>
    match s.putOut e p.key (p.bytes ++ List.replicate (64 - p.bytes.length) 0) with
    | .wait s => .wait s
    | .go s ls run =>
      match s.padParts e ps with
      | .wait s => .wait s
      | .go s ms run' => .go s (ls ++ ms) fun r => run' (run r)

/-- DRAIN_PAD_WRITE (09 R269): the partial words of the first drain whose padding is due. -/
def execDrainPadWrite (s : State) : Result :=
  let core := s.cur.core
  match s.kernel? s.cur.ctx s.cur.kern with
  | none => .next s
  | some k =>
    let d := k.run.drain core
    match d.pads with
    | [] => .next s
    | (cyc, serial) :: pads =>
      if k.run.vcc < cyc then .next s
      else
        let e : DEnv := ⟨s.cur.ctx, s.cur.kern, core, k, d, none, 0, [], 0⟩
        match s.padParts e (d.parts.filter fun p => p.serial = serial || p.serial = 0) with
        | .wait s =>
          if k.run.strict then .next (s.timingTrap e.ctx e.kh core 15 0)
          else .next (s.modRun e.ctx e.kh (·.pause (.pad core)))
        | .go s ls run =>
          let clear (r : Run) : Run :=
            let d := r.drain core
            let parts := d.parts.filter fun p => p.serial ≠ serial && p.serial ≠ 0
            r.putDrain core { d with pads := pads, parts := parts }
          .next (s.modRun e.ctx e.kh fun r => clear (run (r.addLandings ls)))

end Sys2Proof.Machine
end

