-- ==== Sys2Proof/Machine/Spe.lean ====
section
/-! DEFINITION. The meanings of the SPE ops (07 R212 to R224). -/
namespace Sys2Proof.Machine

/-- A predicate op: one of p1 to p7 of the core is written at the end of the issue cycle
(07 R211, R214). -/
def predOp (opc : Nat) (f : OpF) (s : State) (v : OpEnv → Bool) : Result :=
  issueOp .spe opc f s neverLate fun _ e =>
    { lands := [e.landing 1 (.pred e.core (f.modBits 8 5) (v e))] }

/-- The predicate that a predicate op reads beside its destination. -/
def OpEnv.px (e : OpEnv) : Bool := e.k.run.predicate e.core (e.f.modBits 4 1)
/-- The destination predicate as it stands. -/
def OpEnv.pd (e : OpEnv) : Bool := e.k.run.predicate e.core (e.f.modBits 8 5)

/-- `pset` (07 R214). -/
def execPset (f : OpF) (s : State) : Result := predOp 0x01 f s fun e => e.a ≠ 0
/-- `pcmp` (07 R214). -/
def execPcmp (f : OpF) (s : State) : Result :=
  predOp 0x02 f s fun e => speCond f.ty (f.modBits 1 0) e.a e.b
/-- `pand` (07 R214). -/
def execPand (f : OpF) (s : State) : Result :=
  predOp 0x03 f s fun e => e.pd && (e.px != f.mod.getLsbD 0)
/-- `por` (07 R214). -/
def execPor (f : OpF) (s : State) : Result :=
  predOp 0x04 f s fun e => e.pd || (e.px != f.mod.getLsbD 0)
/-- `pnot` (07 R214). -/
def execPnot (f : OpF) (s : State) : Result := predOp 0x05 f s fun e => !e.px

/-- The number of the iteration whose stage n the present entry runs, all ones when no such iteration exists (07 R215):
iteration m exists while m is below the entry limit. DEDUCED (log 89). -/
def Run.stageIter (r : Run) (n : Nat) : Word :=
  if n ≤ r.iter ∧ r.iter - n < r.lim then Word.of (r.iter - n) else BitVec.allOnes 64

/-- `iter` (07 R215). -/
def execIter (f : OpF) (s : State) : Result :=
  resultOp .spe 0x06 f s fun e => { r1 := (e.k.run.stageIter (f.modBits 2 0)).toNat }
/-- `vcc` (07 R215). -/
def execVcc (f : OpF) (s : State) : Result :=
  resultOp .spe 0x07 f s fun e => { r1 := e.t % 2 ^ 64 }
/-- `sadd` (07 R215). -/
def execSadd (f : OpF) (s : State) : Result :=
  resultOp .spe 0x08 f s fun e => { r1 := speSum f false e.a e.b }
/-- `ssub` (07 R215). -/
def execSsub (f : OpF) (s : State) : Result :=
  resultOp .spe 0x10 f s fun e => { r1 := speSum f true e.a e.b }
/-- `sshl` (07 R215). -/
def execSshl (f : OpF) (s : State) : Result :=
  resultOp .spe 0x09 f s fun e => { r1 := speShift (f.modBits 1 0) e.a e.b }

/-- The barrier that an SPE identifier names, as 96 · core + number (07 R216). -/
def Kernel.speBar (k : Kernel) (id : Nat) : Option (Nat × Nat) :=
  let num := id % 128
  let core := id / 128 % 128
  if id ≥ 2 ^ 14 ∨ num > 95 ∨ core ≥ k.desc.cores then none else some (core, 96 * core + num)

/-- `barr` (07 R217): an arrival at the own core's barrier counts at the end of the issue cycle,
another core's 24 ac later; in strict mode it stands in the store buffer (R221). -/
def execSpeBarr (f : OpF) (s : State) : Result :=
  issueOp .spe 0x0A f s neverLate fun _ e =>
    match e.k.speBar e.a with
    | none => {}
    | some (core, i) =>
      if e.k.run.strict then
        let due := if core = e.core then none else some (e.t + 24)
        { mach := fun s => s.modKernel e.ctx e.kh fun k => { k with buffer := k.buffer ++ [.arrive i due] } }
      else if core = e.core then { lands := [e.landing 1 (.arrive i)] }
      else
        { mach := fun s => s.modKernel e.ctx e.kh fun k =>
            { k with arrivals := k.arrivals ++ [{ due := e.t + 24, bar := i }] } }

/-- The own core's barrier that a `bwt` names (07 R218). -/
def OpEnv.ownBar (e : OpEnv) : Option Word :=
  match e.k.speBar e.a with
  | some (core, i) => if core = e.core then some (e.k.bar i) else none
  | none => none

/-- A `bwt` that must wait (07 R218). -/
def bwtLate (_ : State) (e : OpEnv) : Bool :=
  e.f.modBits 0 0 = 0 && e.ownBar.any fun b => barState b ≠ 3 && barGen b = e.b % 2 ^ 16

/-- `bwt` (07 R218). -/
def execBwt (f : OpF) (s : State) : Result :=
  issueOp .spe 0x0B f s bwtLate fun _ e =>
    match e.ownBar with
    | none => { lands := [e.dest .spe 0x0B (2 ^ 64 - 1) 0] }
    | some b =>
      { lands := [e.dest .spe 0x0B (barGen b) 0],
        run := fun r => if f.modBits 0 0 = 0 ∧ barState b = 3 then
            r.addEvent e.pe e.ops 0 0x0702#16 (Word.of e.a) else r }

/-- `sigst` (07 R220): the message is charged to the byte budget and leaves at the end of the issue
cycle; in strict mode it stands in the store buffer (R221). -/
def speSigstGo (s : State) (e : OpEnv) : Issue :=
  let c := s.cost [4] 16
  match s.spend e.k.cluster c (.op e.ctx e.kh e.pe) with
  | none => .late (s.refuse e.k.cluster c (.op e.ctx e.kh e.pe))
  | some s =>
    if e.k.run.strict then
      .done s { mach := fun s => s.modKernel e.ctx e.kh fun k =>
          { k with buffer := k.buffer ++
            [.signal e.core (Word.of e.a) (Word.of e.b) (Word.of e.c)] } }
    else .done s { lands := [e.landing 1 (.signal (Word.of e.a) (Word.of e.b) (Word.of e.c))] }

/-- `sigst` (07 R220). -/
def execSpeSigst (f : OpF) (s : State) : Result := issueWith .spe 0x0C f s speSigstGo

/-- `kexit` (07 R222): requests of one entry combine, `.now` prevails. -/
def execKexit (f : OpF) (s : State) : Result :=
  issueOp .spe 0x0D f s neverLate fun _ _ =>
    { run := fun r => { r with kexit := some (f.modBits 0 0 = 1 || r.kexit = some true) } }
/-- `trapk` (07 R223). -/
def execTrapk (f : OpF) (s : State) : Result :=
  issueOp .spe 0x0E f s neverLate fun _ e =>
    { run := fun r => r.addEvent e.pe e.ops 0 0x0705#16 (Word.of f.mod.toNat) }
/-- `hint` (07 R224): advice that changes no value. -/
def execSpeHint (f : OpF) (s : State) : Result :=
  issueOp .spe 0x0F f s neverLate fun _ _ => {}

end Sys2Proof.Machine
end

