-- ==== Sys2Proof/Machine/Domain.lean ====
section
/-! DEFINITION. A timing domain's virtual cycle (05 R135 to R149): rotation and boundaries, late
accesses and pauses, landings, TIMED copy beats, and retirement; with the events that act on a domain
(07 R217, 03 R83). -/
namespace Sys2Proof.Machine

/-! ### What a cycle has to do -/

/-- The virtual cycle is a rotation instant of the round (05 R138). -/
def Kernel.atInstant (k : Kernel) : Bool :=
  !k.run.retired && k.run.start ≤ k.run.vcc && (k.run.vcc - k.run.start) % k.desc.ii = 0

/-- The drain words of a core that are due: the prologue's, or the beats' (09 R263). -/
def DrainSt.dueWords (d : DrainSt) (core vcc start : Nat) : List Site :=
  if d.image = [] then []
  else
    (if start ≤ vcc ∧ d.pos ≤ progLoop d.image then [.word core none] else [])
    ++ (d.beats.filter fun b => b.when_ (progWall d.image) ≤ vcc).map fun b =>
        .word core (some (b.serial, b.b))

/-- The sites of a virtual cycle: beats, padded words, drain words, and ops row-major. -/
def Kernel.sites (k : Kernel) : List Site :=
  let r := k.run
  let cores := List.range k.desc.cores
  if r.vcc < r.start then []
  else
    (cores.filter fun c => (r.drain c).cur.isSome || (r.drain c).queue ≠ []).map Site.beat
    ++ (cores.filter fun c => (r.drain c).pads.any fun p => p.1 ≤ r.vcc).map Site.pad
    ++ (cores.flatMap fun c => (r.drain c).dueWords c r.vcc r.start)
    ++ (if r.retired then []
        else cores.flatMap fun c => (List.range 16).filterMap fun sl =>
          let (opc, f) := (k.slotCfg c sl).at_ k.ms
          if opc = 0 ∧ f.l0c ≤ 1 ∧ f.l1c ≤ 1 then none else some (Site.op c sl))

/-- A virtual cycle begins. -/
def Kernel.beginCycle (k : Kernel) : Kernel :=
  let r := { k.run with paused := false, served := false }
  if k.atInstant then { k with run := { r with phase := .rotate, todo := [] } }
  else { k with run := { r with phase := .check, todo := k.sites } }

/-! ### Halting at a boundary (05 R139) -/

/-- The engines forked with a kernel halt at their next element (10 R303). -/
def State.haltEngines (s : State) (ctx kh : Nat) : State :=
  let halt (e : Engine) : Engine := if e.own = some ctx ∧ e.kern = some kh then e.halt else e
  { s with engs := Tab.mapVal s.engs fun _ e => halt e }

/-- The write-combining buffers of the engines forked with a kernel drain: `krdv` acquires what they wrote (13 R365). -/
def State.drainEngines (s : State) (ctx kh : Nat) : State :=
  ((s.kernel? ctx kh).map Kernel.engines).toList.flatten.foldl (fun s en => s.wcDrain (128 + en)) s

/-- Arrivals on their way are counted before a set is saved (07 R217, 15 R396). -/
def State.countArrivals (s : State) (ctx kh : Nat) : State :=
  let as := ((s.kernel? ctx kh).map Kernel.arrivals).toList.flatten
  let s := as.foldl (fun s a => s.putBar ctx kh a.bar (barArrive (((s.kernel? ctx kh).map fun k => k.bar a.bar).getD 0) true)) s
  s.modKernel ctx kh fun k => { k with arrivals := [] }

/-- A kernel halts: unwritten words are written back, what has been stored leaves, and the forked parts
halt (05 R139, 08 R257). -/
def State.haltKernel (s : State) (ctx kh : Nat) (f : Kernel → Kernel) : State :=
  let s := s.modKernel ctx kh fun k => k.flushStores.stand
  ((((s.drainStreams ctx kh).drainEngines ctx kh).haltEngines ctx kh).modKernel ctx kh f).showBars ctx kh

/-- The byte budget refuses a far store of the kernel (19 R464). -/
def Run.broke (r : Run) : Bool := r.streams.any fun x => x.2.broke

/-- A halt is asked for: by an event, a stop, a save or a move (05 R133, R148; 16 R407). -/
def Kernel.asked (k : Kernel) : Bool := !k.run.events.isEmpty || k.stopReq || k.saveReq || k.moveReq

/-- Every unwritten word is written back as far as the byte budget allows; whether it has refused one, for which a halt
waits (08 R257, 19 R464). -/
def State.settleStores (s : State) (ctx kh : Nat) : State × Bool :=
  let s := (s.modKernel ctx kh Kernel.flushStores).drainStreams ctx kh
  (s, (s.kernel? ctx kh).any fun k => k.run.broke)

/-- A kernel FROZEN with the earliest of its events; a fatal cause aborts its groups (05 R148,
14 R383). -/
def State.freezeKernel (s : State) (ctx kh : Nat) (k : Kernel) (e : TrapEvent) : State :=
  let s := s.haltKernel ctx kh fun k => k.freeze e.cause e.info
  if fatalCause e.cause then s.fatal ctx k.desc.groups e.cause else s

/-- A kernel SAVED at its boundary: with its context, or alone, its region released (16 R407, R409). -/
def State.saveKernel (s : State) (ctx kh : Nat) : State :=
  let s := (s.countArrivals ctx kh).haltKernel ctx kh fun k =>
    { k.endFolds with state := .saved, savedFrom := .running, saveReq := false, run := { k.run with paused := false } }
  match s.kernel? ctx kh with
  | none => s
  | some k =>
    if (s.ctx ctx).st = .running then
      let s := s.arriveRegion k
      let t := s.putKernel ctx kh { k with away := true, alone := true, spads := s.spads k }
      (t.showKernels ctx).requestPass k.cluster
    else s

/-- A stop or a save or a move that takes hold now, if one is asked for (05 R133, R139). -/
def State.holdKernel (s : State) (ctx kh : Nat) (k : Kernel) : Option State :=
  match earliest k.run.events with
  | some e => some (s.freezeKernel ctx kh k e)
  | none =>
    if k.stopReq then
      some (s.haltKernel ctx kh fun k =>
        { k with state := .stopped, stopReq := false, run := { k.run with paused := false } })
    else if k.saveReq then some (s.saveKernel ctx kh)
    else if k.moveReq then
      if s.moveFits ctx kh k k.target then
        some (s.haltKernel ctx kh fun k =>
          { k.endFolds with state := .moving, moveReq := false, run := { k.run with paused := false } })
      else none
    else none

/-- MOVE_COMPLETE (05 R143): the region's scratchpads and its in-flight set stand on the new cores, and
the kernel resumes at its boundary, or halts there for what was asked meanwhile (05 R133, 16 R407). -/
def execMoveComplete (s : State) : Result :=
  let ctx := s.cur.ctx
  let kh := s.cur.kern
  match s.kernel? ctx kh with
  | none => .next s
  | some k =>
    if k.state ≠ .moving then .next s
    else
      let s := s.arriveRegion k
      let s := s.settleRegion ctx k k.target (s.spads k)
      let k := { k.relocate k.target with state := .running, lastMove := some s.gtc.toNat }
      let k := k.applyLive.refillAll
      let s := (s.putKernel ctx kh k).requestPass k.cluster
      match s.holdKernel ctx kh k with
      | some s => .next s
      | none => .next { s with engs := Tab.mapVal s.engs fun _ e => e.resume ctx kh }

/-! ### Strict mode (05 R147, 07 R221) -/

/-- An arrival of an SPE counted at a barrier (15 R394). -/
def State.countArrival (s : State) (ctx kh i : Nat) : State :=
  s.putBar ctx kh i (barArrive (((s.kernel? ctx kh).map fun k => k.bar i).getD 0) true)

/-- One entry of a store buffer leaves for its place. An arrival at another core's barrier whose 24 cycles are not over
is counted at their end; one whose are is counted at the commit (07 R217, R221; for the latter DESIGN CHOICE, log entry
79). -/
def State.leaveEnt (s : State) (ctx kh : Nat) : BufEnt → State
  | .store _ pa v en _ => s.store (srcOf ctx (256 + kh)) pa v en
  | .arrive i none => s.countArrival ctx kh i
  | .arrive i (some due) =>
    if (s.kernel? ctx kh).any fun k => k.run.vcc ≤ due then
      s.modKernel ctx kh fun k => { k with arrivals := k.arrivals ++ [{ due := due, bar := i }] }
    else s.countArrival ctx kh i
  | .signal _ dest data addend => s.sendSpe ctx dest data addend
  | .bank b _ => { s with banks := s.banks ++ [b] }
  | .count pa inc _ =>
    let s := s.drainBanks fun b => b.src / 2 ^ 16 = ctx
    s.counterAdd pa (inc.setWidth 64)
  | .publish h => (s.drainBanks fun b => b.src / 2 ^ 16 = ctx).publish ctx h

/-- One entry of a store buffer leaves; one whose translation has been dropped is translated again, and a page that
forbids it is an event of the kernel (11 R324; log entry 46). -/
def State.commitEnt (s : State) (ctx kh : Nat) (b : BufEnt) : State :=
  match b.va with
  | some (va, true) =>
    match s.kernXlate ctx (((s.kernel? ctx kh).map Kernel.cluster).getD 0) va .write none with
    | .ok p t => t.leaveEnt ctx kh (b.move fun _ => p.1)
    | .bad c i => s.modRun ctx kh (·.addEvent b.pe 0 0 c (Word.of i))
  | _ => s.leaveEnt ctx kh b

/-- The store buffer of a kernel commits, in issue order. -/
def State.commit (s : State) (ctx kh : Nat) : State :=
  match s.kernel? ctx kh with
  | none => s
  | some k => k.buffer.foldl (fun s b => s.commitEnt ctx kh b) (s.putKernel ctx kh { k with buffer := [] })

/-- A forked engine stops at a snapshot, with its status record, and goes on behind it (10 R286, R303, R304). -/
def State.snapEngine (s : State) (en : Nat) : State :=
  if (s.eng en).active.isNone then s else ((s.modEng en Engine.halt).settleEngine en).modEng en Engine.goOn

/-- A restart boundary: the buffer commits, and a snapshot is taken of the round with its barrier set and of the forked
engines (05 R147, 16 R410). -/
def State.restart (s : State) (ctx kh : Nat) : State :=
  let s := s.modKernel ctx kh fun k => k.flushStores.endFolds
  let s := (s.drainStreams ctx kh).commit ctx kh
  match s.kernel? ctx kh with
  | none => s
  | some k =>
    let es := k.engines.map fun e => (e, s.eng e)
    let c := s.ctx ctx
    let n := { k with snap := some { k.run with events := [] }, snapBars := k.bars, snapArrivals := k.arrivals }
    k.engines.foldl State.snapEngine (s.putCtx ctx { c with kernels := Tab.put c.kernels kh n, snaps := Tab.put c.snaps kh es })

/-- The instant number is one of the restart boundaries. -/
def Kernel.restartAt (k : Kernel) (m : Nat) : Bool :=
  k.run.strict && (m = 0 || (k.desc.restart ≠ 0 && m % k.desc.restart = 0))

/-! ### ROTATE (05 R138, 07 R222) -/

/-- A pending `kexit` applied at instant m. -/
def Run.applyExit (r : Run) (m : Nat) : Run :=
  match r.kexit with
  | none => r
  | some now =>
    { r with lim := min r.lim m, stage := if now then 0 else r.stage, kexit := none }

/-- The rotation of instant m: retirement when no stage predicate is left. -/
def Kernel.rotated (k : Kernel) (m : Nat) : Kernel :=
  let r := k.run.applyExit m
  let enter : BitVec 8 := if m < r.lim then 1#8 else 0#8
  let stage := (r.stage <<< 1) ||| enter
  let ended : Bool := stage.toNat % 2 ^ k.desc.stages = 0
  let r := { r with iter := m, ro := m % 24, stage := stage, retired := ended, served := false }
  let k := { k with run := r, stopReq := k.stopReq && !ended }
  { k with run := { k.run with phase := .check, todo := k.sites } }

/-- ROTATE: what takes hold at the instant comes first, then the rotation (05 R138, R139, R147,
R148). -/
def execRotate (s : State) : Result :=
  let ctx := s.cur.ctx
  let kh := s.cur.kern
  match s.kernel? ctx kh with
  | none => .next s
  | some k =>
    if k.state ≠ .running ∨ k.run.phase ≠ .rotate then .next s
    else
      let m := (k.run.vcc - k.run.start) / k.desc.ii
      let (s, broke) := if k.asked || k.restartAt m then s.settleStores ctx kh else (s, false)
      -- what a halt must still store waits for the byte budget (19 R464)
      if broke then
        if k.run.strict then .next (s.timingTrap ctx kh 0 0 0)
        else .next ((s.modKernel ctx kh Kernel.stand).modRun ctx kh fun r => { r with paused := true })
      else
      let s := if k.restartAt m then s.restart ctx kh else s
      let k := (s.kernel? ctx kh).getD k
      let ended := (k.rotated m).run.retired
      let asked := if ended then { k with stopReq := false } else k
      match s.holdKernel ctx kh asked with
      | some s => .next s
      | none =>
        -- a move that no longer fits is dropped
        .next (s.modKernel ctx kh fun k => { k with moveReq := false }.rotated m)

/-! ### Late accesses (05 R145) -/

/-- The access of an op that may be late, by kind and opcode. -/
def opAccess (kind : PeKind) (opc : Nat) (f : OpF) : Option (State → OpEnv → Issue) :=
  let late (p : State → OpEnv → Bool) (s : State) (e : OpEnv) : Issue :=
    if p s e then .late s else .done s {}
  match kind with
  | .mpe =>
    nth [none, some ldGo, some ldkGo, some stGo, some stkGo, some ldxGo, some stxGo, some ldsGo, some stsGo,
         some unfGo, some atmGo, none, none, none, none, some vmskGo] opc none
  | .dpe =>
    if opc = 0x12 ∧ f.modBits 2 0 = 5 then some (mpxGo 1)
    else if opc = 0x12 ∧ f.modBits 2 0 = 6 then some (mpxGo 2) else none
  | .cpe =>
    if (opc = 0x12 ∨ opc = 0x13) ∧ f.modBits 0 0 = 1 then some (late foldLate)
    else if opc = 0x14 then some (late foldLate) else none
  | .spe => if opc = 0x0B then some (late bwtLate) else if opc = 0x0C then some speSigstGo else none
  | .ape => none

/-- The machine with a site of a kernel on the move. -/
def State.atSite (s : State) (ctx kh : Nat) (k : Kernel) : Site → State
  | .op c sl =>
    let ops := k.ms % max 1 (k.slotCfg c sl).ops.length
    { s with cur := { s.cur with ctx := ctx, kern := kh, core := c, slot := sl, ops := ops } }
  | .beat c => { s with cur := { s.cur with ctx := ctx, kern := kh, core := c, slot := 15, ops := 0 } }
  | .pad c => { s with cur := { s.cur with ctx := ctx, kern := kh, core := c, slot := 15, ops := 0 } }
  | .word c b =>
    { s with cur := { s.cur with ctx := ctx, kern := kh, core := c, slot := 15, ops := 0, beat := b } }

/-- A late access: the state with its faults posted, whether only a barrier or a pending segment holds
it, its stream, and the PE and op slot that it is of. -/
structure Lateness where
  s : State
  soft : Bool
  stream : Option Nat := none
  /-- the word of the stream that is late, if it is one -/
  word : Option Nat := none
  pe : Nat
  ops : Nat

/-- The pages that a word of a stream touches; the page of BASE while its format is not known. -/
def State.wordPages (s : State) (ctx kh key w : Nat) : List Nat :=
  match s.kernel? ctx kh with
  | none => []
  | some k =>
    match k.strm? key with
    | none => []
    | some d =>
      let x := k.run.stream key
      if x.fmt.isNone then [d.base / 4096]
      else if d.store then pagesOf ((d.storeElems x w 0).map fun e => e.2.1)
      else pagesOf ((x.together (groupWords d.deliv) w).flatMap (s.fillVas ctx d x))

/-- Some of the pages have a fault outstanding for a stream (16 R408). -/
def State.pendingAt (s : State) (ctx kh key : Nat) (pages : List Nat) : Bool :=
  pages.any (s.stream ctx kh key).pending.contains

/-- The word of a stream that the access of an op touches; none for the elements of an INDEXED stream. -/
def State.opWord (s : State) (e : OpEnv) (kind : PeKind) (opc key : Nat) : Option Nat :=
  match e.k.strm? key with
  | none => none
  | some d =>
    let x := s.stream e.ctx e.kh key
    if e.portLate kind opc then some (x.u / 64)
    else if kind = .dpe then
      match expandGroups (d.byteAt x) (e.f.modBits 2 0 - 4) (4 / (e.f.modBits 2 0 - 4)) x.bp with
      | .error p => some (p / 64)
      | .ok _ => some (x.u / 64)
    else if opc = 5 ∨ opc = 6 then none
    else if opc = 2 then some ((x.u + 64 * sx e.a 16 : Int) / 64).toNat
    else if opc = 4 then some ((x.u - 64 * (1 + e.b % 2 ^ 16)) / 64)
    else some (x.u / 64)

/-- The pages that the access of an op of a stream touches. -/
def State.opPages (s : State) (e : OpEnv) (kind : PeKind) (opc key : Nat) : List Nat :=
  match e.k.strm? key, s.opWord e kind opc key with
  | none, _ => []
  | some _, some w => s.wordPages e.ctx e.kh key w
  | some d, none =>
    let x := s.stream e.ctx e.kh key
    if x.fmt.isNone then [d.base / 4096] else pagesOf (e.indexVas d x)

/-- The stream whose access an op is, if it is one: `lds` and `sts` name none, but where `pa` or `pb` reads the head of
one (08 R243, R246, R256). -/
def opStream (kind : PeKind) (core slot opc : Nat) (f : OpF) (port : Bool) : Option Nat :=
  if kind = .dpe then some (streamKey core (f.mod.getLsbD 4) f.stream)
  else if kind = .mpe ∧ (port ∨ (opc ≠ 7 ∧ opc ≠ 8)) then some (streamKey core (slot = 3) f.stream) else none

/-- An op is late (05 R145). -/
def State.opLate (s : State) (ctx kh : Nat) (k : Kernel) (core slot : Nat) : Option Lateness :=
  let kind := slotKind slot
  let (opc, f) := (k.slotCfg core slot).at_ k.ms
  let t := s.atSite ctx kh k (.op core slot)
  match t.opEnv f with
  | none => none
  | some e =>
    let st := opStream kind core slot opc f (e.portLate kind opc)
    let soft (u : State) : Bool := st.any fun key => u.pendingAt ctx kh key (u.opPages e kind opc key)
    let out (u : State) : Option Lateness :=
      some ⟨{ u with cur := s.cur }, kind = .spe && opc = 0x0B || soft u, st, st.bind (u.opWord e kind opc), e.pe, t.cur.ops⟩
    if k.run.predicate core f.pi.toNat == f.ps then none
    else if e.portLate kind opc then out t
    else match opAccess kind opc f with
      | none => none
      | some go => match go t e with
        | .late u => out u
        | .done _ _ => none

/-- The stream that a drain word names, and the access that may be late: a read by `dld`, an append by
`dst` (09 R267, R269). -/
def State.wordLate (s : State) (ctx kh : Nat) (k : Kernel) (core : Nat) (b : Option (Nat × Nat)) :
    Option Lateness :=
  let t := s.atSite ctx kh k (.word core b)
  match t.drainEnv with
  | none => none
  | some e =>
    let w := nth e.d.image e.idx 0#32
    match decodeDrain w with
    | .ok (.dldStream _ m st) =>
      let key := streamKey core m st.toNat
      if (k.run.stream key).wordLate ((k.run.stream key).u / 64) then
        let w := (k.run.stream key).u / 64
        some ⟨s, s.pendingAt ctx kh key (s.wordPages ctx kh key w), some key, some w, 16 * core + 15, e.idx⟩
      else none
    | .ok (.dst da gf m st) =>
      let key := streamKey core m st.toNat
      let serial := (e.beat.map Beat.serial).getD 0
      let skip := gf && (e.beat.any fun b => b.b % max 1 (b.size e.d.image) ≠ 0)
      let bytes := e.d.part serial key ++ bytesOf (e.r da) (e.len da)
      if skip ∨ bytes.length < 64 then none
      else match (s.atSite ctx kh k (.word core b)).putOut e key (bytes.take 64) with
        | .wait u =>
          let soft := u.pendingAt ctx kh key (u.wordPages ctx kh key ((u.stream ctx kh key).u / 64))
          some ⟨{ u with cur := s.cur }, soft, some key, none, 16 * core + 15, e.idx⟩
        | .go _ _ _ => none
    | _ => none

/-- A site of the cycle is late. -/
def State.siteLate (s : State) (ctx kh : Nat) (k : Kernel) : Site → Option Lateness
  | .op c sl => s.opLate ctx kh k c sl
  | .word c b => s.wordLate ctx kh k c b
  | .beat c => if k.beatLate c then some ⟨s, false, none, none, 16 * c + 15, 0⟩ else none
  | .pad c =>
    let d := k.run.drain c
    match d.pads with
    | (cyc, serial) :: _ =>
      if k.run.vcc < cyc then none
      else
        let e : DEnv := ⟨ctx, kh, c, k, d, none, 0, [], 0⟩
        let parts := d.parts.filter fun p => p.serial = serial || p.serial = 0
        parts.findSome? fun p =>
          match s.padParts e [p] with
          | .wait u =>
            let soft := u.pendingAt ctx kh p.key (u.wordPages ctx kh p.key ((u.stream ctx kh p.key).u / 64))
            some ⟨u, soft, some p.key, none, 16 * c + 15, 0⟩
          | .go _ _ _ => none
    | [] => none

/-- The late accesses among the sites of a cycle, each found in the state that those before it leave. -/
def State.lateSites (s : State) (ctx kh : Nat) : List Site → State × List Lateness
  | [] => (s, [])
  | x :: xs =>
    match s.kernel? ctx kh with
    | none => (s, [])
    | some k =>
      match s.siteLate ctx kh k x with
      | none => s.lateSites ctx kh xs
      | some l => let (u, ls) := l.s.lateSites ctx kh xs; (u, l :: ls)

/-- A TIMED engine of the kernel has a beat to move in this cycle, or its first entry to start. -/
def State.beatPending (s : State) (vcc en : Nat) : Bool :=
  let x := s.eng en
  x.launch.timed && (x.st = .running || x.st = .armed) && x.bound.isNone && !x.ended && x.beatCycle ≤ vcc

/-- The engines of a kernel with a beat to move. -/
def State.beatsDue (s : State) (k : Kernel) : List Nat := k.engines.filter (s.beatPending k.run.vcc)

/-- The late beats of a cycle (10 R300). -/
def State.lateBeats (s : State) : List Nat → State × Bool
  | [] => (s, false)
  | en :: t =>
    match s.beatLate en with
    | none => s.lateBeats t
    | some u => ((u.lateBeats t).1, true)

/-- A landing goes before another of its cycle: by PE in page order, then by the order of 06 R184. -/
def Landing.before (a b : Landing) : Bool :=
  a.pe < b.pe || (a.pe = b.pe && a.act.rank ≤ b.act.rank)

/-- A landing inserted in order; equals stay in the order of their issue. -/
def insertLanding (l : Landing) : List Landing → List Landing
  | [] => [l]
  | m :: t => if l.before m then l :: m :: t else m :: insertLanding l t

/-- The landings of a cycle in order. -/
def sortLandings (ls : List Landing) : List Landing := ls.foldr insertLanding []

/-- The landing of a `fold` that issues in this cycle (06 R175). -/
def State.foldIssue (s : State) (ctx kh : Nat) (k : Kernel) : Site → Option Landing
  | .op c sl =>
    let (opc, f) := (k.slotCfg c sl).at_ k.ms
    if slotKind sl ≠ .cpe ∨ opc ≠ 7 then none
    else match (s.atSite ctx kh k (.op c sl)).opEnv f with
      | some e => if k.run.predicate c f.pi.toNat == f.ps then none else some (e.landing 1 (.fold e.st.sel))
      | none => none
  | _ => none

/-- The PEs at which a landing at the end of this cycle must wait for the fold adders, each with its op slot (03 R83).
-/
def State.lateFolds (s : State) (ctx kh : Nat) (k : Kernel) : List (Nat × Nat) :=
  let due := sortLandings ((k.run.land.filter fun l => l.cyc ≤ k.run.vcc) ++ k.run.todo.filterMap (s.foldIssue ctx kh k))
  k.run.pes.filterMap fun p =>
    (p.2.lateLanding k.run.vcc (due.filter fun l => l.pe = p.1)).map fun ops => (p.1, ops)

/-! ### Bank conflicts (01 R22) -/

/-- An access to a word of a scratchpad of the region in a cycle: the word, and the PE and op slot of it. -/
structure PadUse where
  word : Nat
  pe : Nat
  ops : Nat
deriving DecidableEq, Repr

/-- The words of the region's scratchpads that lie at some virtual addresses. -/
def State.padWords (s : State) (ctx : Nat) (k : Kernel) (a : Acc) (vas : List Nat) : List Nat :=
  (vas.filterMap fun va => match s.hostXlate ctx k.cluster va a with
    | .hit pa _ _ => if (k.coreOfPa pa).isSome then some (pa / 64) else none
    | .miss _ _ => none).eraseDups

/-- The scratchpad words that an op reads in this cycle (08 R250, R251). -/
def State.opWords (s : State) (ctx kh : Nat) (k : Kernel) : Site → List PadUse
  | .op c sl =>
    let (opc, f) := (k.slotCfg c sl).at_ k.ms
    if slotKind sl ≠ .mpe ∨ k.run.predicate c f.pi.toNat == f.ps then []
    else
      let t := s.atSite ctx kh k (.op c sl)
      match t.opEnv f with
      | none => []
      | some e =>
        let ws :=
          if opc = 7 then (match e.spWord with | some (_, pa) => [pa / 64] | none => [])
          else if opc = 5 then
            match e.strm? with
            | some (d, x) => s.padWords ctx k .read (e.indexVas d x)
            | none => []
          else []
        ws.map fun w => ⟨w, e.pe, t.cur.ops⟩
  | _ => []

/-- The words that the fills read which issued in this cycle (08 R236). -/
def State.fillWords (s : State) (ctx : Nat) (k : Kernel) : List PadUse :=
  k.strms.flatMap fun d =>
    let x := k.run.stream (streamKey d.core d.mpe d.strm)
    (x.fills.filter fun f => !f.taken).flatMap fun f =>
      (s.padWords ctx k .read (s.fillVas ctx d x f.word)).map fun w => ⟨w, 16 * d.core + mpeSlot d.mpe, 0⟩

/-- The addresses of the index that a row of a GATH or a SCAT reads (10 R292). -/
def State.indexReads (s : State) (c : CEnv) (is : List Nat) : List Nat :=
  let gath : Bool := c.kind = 3
  let i := if gath then c.ent.sbuf.toNat else c.ent.dbuf.toNat
  let b := c.l.buf i
  let f := (Tab.get? (s.eng c.en).fmts i).getD ⟨0, false, 0⟩
  let o : Int := (if gath then c.ent.soff else c.ent.doff).toInt
    + strideSum (is.drop 1) ((if gath then c.ent.sstr else c.ent.dstr).drop 1)
  if (gath ∨ c.kind = 4) ∧ b.holds o then (elemBytes b.base (f.bits b.esz) b.swizzleMask o).1 else []

/-- The addresses that the elements of a beat read: their sources with the scales of a MOVEC, the index of each row that
begins, and the source of a FILL once (10 R288, R291, R292, R293, R300). -/
def State.beatVas (s : State) (c : CEnv) (elem n : Nat) : List Nat :=
  let first (j : Nat) : Bool := j = 0 && (s.eng c.en).fillVal.isNone
  (List.range n).flatMap fun j =>
    let is := loopIdx c.ent.bounds (elem + j)
    let b := c.l.buf c.si
    let f := (Tab.get? (s.eng c.en).fmts c.si).getD ⟨0, false, 0⟩
    let index := if first j || is.headD 0 = 0 then s.indexReads c is else []
    let o : Option Int :=
      if c.kind = 5 ∧ !first j then none else
      if c.kind = 3 then
        match s.copyIndex c (elem + j) is with
        | .ok x _ => x.map fun x => x * b.pitch + (is.headD 0 : Int) * (nth c.ent.sstr 0 0#24).toInt
        | _ => none
      else some (c.ent.soff.toInt + strideSum is c.ent.sstr)
    index ++ (o.filter b.holds).toList.flatMap fun o =>
      s.elemVas c.ctx f (c.kind = 2) b.base (f.bits b.esz) b.swizzleMask o

/-- The words that the beat of an engine reads (10 R300). -/
def State.beatWords (s : State) (ctx : Nat) (k : Kernel) (en : Nat) : List PadUse :=
  match s.fetchEntry en with
  | .ok p t =>
    match t.cenv en p.1 p.2 with
    | some c =>
      let x := t.eng en
      let n := min (max 1 x.nb) (entElems c.ent - x.elem)
      if !dataKind c.kind then [] else (t.padWords ctx k .read (t.beatVas c x.elem n)).map fun w => ⟨w, 15, 0⟩
    | none => []
  | _ => []

/-- The accesses to words of the region's scratchpads in this cycle: by ops, by landings, by fills, by the beats of
copies and by their landings. -/
def State.wordsTouched (s : State) (ctx kh : Nat) (k : Kernel) : List PadUse :=
  let lands := k.run.land.filterMap fun l =>
    match l.act with
    | .bytes pa _ _ _ => if l.cyc ≤ k.run.vcc then some ⟨pa / 64, l.pe, l.ops⟩ else none
    | _ => none
  let copies := k.engines.flatMap fun en => (s.eng en).flights.flatMap fun f =>
    match f.act with
    | .bytes vas _ _ _ => if f.due > k.run.vcc then [] else (s.padWords ctx k .write vas).map fun w => ⟨w, 15, 0⟩
    | _ => []
  k.sites.flatMap (s.opWords ctx kh k) ++ lands ++ s.fillWords ctx k
    ++ (s.beatsDue k).flatMap (s.beatWords ctx k) ++ copies

/-- The first access that meets another word of its bank of its core. Which of them a strict trap reports the spec
leaves open: the first of the ops, the landings, the fills, which show op slot 0, the beats and the landings of copies
(01 R22; DESIGN CHOICE, log entry 75). -/
def bankConflict (ws : List PadUse) : Option PadUse :=
  ws.find? fun a => ws.any fun b => a.word ≠ b.word && a.word / 2 ^ 15 = b.word / 2 ^ 15 && a.word % 32 = b.word % 32

/-! ### DOMAIN_RESUME (05 R145, 07 R219, 16 R408) -/

/-- LATE of the streams whose accesses are late (08 R243). -/
def Run.countLate (r : Run) (keys : List Nat) : Run :=
  keys.eraseDups.foldl (fun r key =>
    let x := r.stream key
    r.putStream key { x with late := accAdd x.late 1 }) r

/-- What is late in the cycle of a kernel: the state with the faults posted, the late sites, whether
only barriers and pending segments hold the cycle, and the PE and op slot of the first. -/
structure CycleLate where
  s : State
  sites : List Lateness
  soft : Bool
  first : Option (Nat × Nat)

/-- The streams with a far store that the byte budget refuses: it is a late access (19 R464). -/
def State.lateStores (s : State) (ctx kh : Nat) : List Nat :=
  match s.kernel? ctx kh with
  | none => []
  | some k => (k.run.streams.filter fun x => x.2.broke).map Prod.fst

/-- The fills of a late word's fold group take what they read now, since an op of this cycle waits for them (08 R236;
log entry 42). -/
def State.takeLate (s : State) (ctx kh : Nat) (l : Lateness) : State :=
  match l.stream, l.word with
  | some key, some w =>
    let g := (((s.kernel? ctx kh).bind fun k => k.strm? key).map fun d => groupWords d.deliv).getD 1
    s.takeNow ctx kh key fun v => v / g = w / g
  | _, _ => s

/-- The late accesses of a kernel's cycle. Which of several is recorded in strict mode the spec leaves open: the first
of the sites in the order of the cycle, then of the landings that wait for fold adders, then a copy beat, which has no
PE slot and shows as core 0, slot 15 (05 R147, 04 R515; log entry 75). -/
def State.cycleLate (s : State) (ctx kh : Nat) (k : Kernel) : CycleLate :=
  let s := if k.run.broke then s.drainStreams ctx kh else s
  let stuck := s.lateStores ctx kh
  let (s, ls) := s.lateSites ctx kh k.run.todo
  let ls := ls ++ stuck.map fun key =>
    ⟨s, false, some key, none, 16 * (key / 32) + (if key % 32 ≥ 16 then 3 else 0), 0⟩
  let caps := s.lateFolds ctx kh k
  let (s, beat) := s.lateBeats (s.beatsDue k)
  let firsts := ls.map (fun l => (l.pe, l.ops)) ++ caps ++ (if beat then [(15, 0)] else [])
  ⟨s, ls, ls.all Lateness.soft && caps.isEmpty && !beat, firsts.head?⟩

/-- DOMAIN_RESUME: the late accesses of the cycle are looked for. With none the cycle issues; otherwise
the domain pauses, or, in strict mode, takes the timing trap. A request to halt takes hold in a cycle
that only barriers and pending segments hold. -/
def execDomainResume (s : State) : Result :=
  let ctx := s.cur.ctx
  let kh := s.cur.kern
  match s.kernel? ctx kh with
  | none => .next s
  | some k =>
    if k.state ≠ .running ∨ k.run.phase ≠ .check then .next s
    else
      let c := s.cycleLate ctx kh k
      match c.first with
      | none =>
        .next (s.modRun ctx kh fun r => { r with phase := .issue, paused := false, midEntry := false })
      | some (pe, ops) =>
        if k.run.strict then .next (c.s.timingTrap ctx kh (pe / 16) (pe % 16) ops)
        else
          let keys := c.sites.filterMap Lateness.stream
          let t := c.sites.foldl (fun s l => s.takeLate ctx kh l) (c.s.modKernel ctx kh Kernel.stand)
          let t := t.modRun ctx kh fun r => { r.countLate keys with paused := true, midEntry := false }
          let t := t.drainStreams ctx kh
          let (u, broke) := if c.soft ∧ k.asked then t.settleStores ctx kh else (t, false)
          let hold : Option State :=
            if c.soft ∧ !broke then (u.kernel? ctx kh).bind fun k =>
              u.holdKernel ctx kh { k with run := { k.run with midEntry := true } }
            else none
          .next (match hold with
            | some u => u.modRun ctx kh fun r => { r with midEntry := true }
            | none => t)

/-! ### LAND (05 R136, 06 R184) -/

/-- A PE of a round changed. -/
def State.modPe (s : State) (ctx kh pe : Nat) (f : Pe → Pe) : State :=
  s.modRun ctx kh fun r => r.putPe pe (f (Tab.getD r.pes pe {}))

/-- A latch of a PE. -/
def Pe.setLatch (p : Pe) (which : Bool) (v : Wide) : Pe := if which then { p with l1 := v } else { p with l0 := v }

/-- Results reach the RRF entry and the latches that the op named (04 R99, R100). -/
def Pe.take (p : Pe) (rrf : Option Nat) (c0 c1 two : Bool) (r1 r2 : Wide) : Pe :=
  let p := match rrf with | some n => p.setEntry n r1 | none => p
  let p := if c0 then p.setLatch false r1 else p
  if c1 then p.setLatch true (if two then r2 else r1) else p

/-- The PEs of the entries that some stores fill in the store buffer of a core: stores one behind another into one line
share an entry (05 R147; log entry 74). -/
def bufferLines (core : Nat) (last : Option Nat) : List BufEnt → List Nat
  | [] => []
  | .store pe pa _ _ _ :: t =>
    if pe / 16 ≠ core then bufferLines core last t
    else if last = some (pa / 64) then bufferLines core last t
    else pe :: bufferLines core (some (pa / 64)) t
  | _ :: t => bufferLines core last t

/-- The PE of the first store, behind the first `old` entries of the buffer, for which the buffer of its core has no
entry left. -/
def Kernel.overflowing (k : Kernel) (old : Nat) : Option Nat :=
  (List.range k.desc.cores).findSome? fun c =>
    (bufferLines c none k.buffer)[max 4096 (bufferLines c none (k.buffer.take old)).length]?

/-- A store buffer has overflowed by a store of this cycle: the kernel freezes in it with nothing rolled back
(05 R147). -/
def State.overflow (s : State) (ctx kh old : Nat) : State :=
  match s.kernel? ctx kh with
  | none => s
  | some k =>
    match (if k.run.strict ∧ k.state = .running then k.overflowing old else none) with
    | none => s
    | some pe =>
      let info := peInfo (pe / 16) (pe % 16) 0xFF (k.run.vcc % 2 ^ 32)
      s.haltKernel ctx kh fun k => { k.freeze 0x0201#16 info with run := { k.run with midEntry := true } }

/-- One landing takes effect. -/
def State.landOne (s : State) (ctx kh : Nat) (l : Landing) : State :=
  let core := l.pe / 16
  match l.act with
  | .dest rrf c0 c1 two r1 r2 => s.modPe ctx kh l.pe fun p => p.take rrf c0 c1 two r1 r2
  | .latch which v => s.modPe ctx kh l.pe fun p => p.setLatch which v
  | .pred c pd v => s.modRun ctx kh fun r =>
      let b := Tab.getD r.preds c 0#8
      let bit := 1#8 <<< pd
      { r with preds := Tab.put r.preds c (if v then b ||| bit else b &&& ~~~bit) }
  | .sticky => s.modPe ctx kh l.pe fun p => { p with sticky := true }
  | .event cause item => s.modRun ctx kh fun r =>
      r.addEvent l.pe l.ops item cause (peInfo core (l.pe % 16) l.ops item)
  | .arrive i => s.countArrival ctx kh i
  | .bytes pa v en of_ => s.kernelStore ctx kh l.pe pa v en (of_.map fun o => o.2.2)
  | .ldxMask key mask => s.modRun ctx kh fun r =>
      r.putStream key { r.stream key with lastMask := mask }
  | .cr mask v c0 c1 => s.modRun ctx kh fun r =>
      let d := r.drain core
      let cr := (d.cr &&& ~~~mask) ||| v
      let p := Tab.getD r.pes l.pe {}
      (r.putDrain core { d with cr := cr }).putPe l.pe (p.take none c0 c1 false cr 0)
  | .signal dest data addend => s.sendSpe ctx dest data addend
  | a => s.modRun ctx kh fun r =>
      let (p, e) := (Tab.getD r.pes l.pe {}).cpeLand l.cyc a
      let r := r.putPe l.pe p
      match e with
      | some (cause, item) => r.addEvent l.pe l.ops item cause (peInfo core (l.pe % 16) l.ops item)
      | none => r

/-- The effects of the end of a virtual cycle, all but the beats of copies. -/
def State.landAll (s : State) (ctx kh : Nat) (k : Kernel) : State :=
  let s := s.landCopies ctx kh
  let due := k.run.land.filter fun l => l.cyc ≤ k.run.vcc
  let s := s.modRun ctx kh fun r => { r with land := r.land.filter fun l => !(l.cyc ≤ r.vcc) }
  let s := (sortLandings due).foldl (fun s l => s.landOne ctx kh l) s
  let s := ((s.takeNear ctx kh).landFills ctx kh).drainStreams ctx kh
  let arrived := k.arrivals.filter fun a => a.due ≤ k.run.vcc
  let s := arrived.foldl (fun s a => s.countArrival ctx kh a.bar) s
  let s := s.modKernel ctx kh fun k =>
    let r := k.run
    let fold (p : Pe) : Pe := (p.finishFolds fun f => f.cap + 16 ≤ r.vcc).pruneFolds (r.vcc + 1)
    let pes := Tab.mapVal r.pes fun _ p => fold p
    let drains := Tab.mapVal r.drains fun _ d => { d with head := 0 }
    { k with run := { r with pes := pes, drains := drains, phase := if k.state = .running then .beats else r.phase },
             hostEvs := [], arrivals := k.arrivals.filter fun a => !(a.due ≤ r.vcc) }
  s.overflow ctx kh k.buffer.length

/-! ### The end of a cycle and of a round (05 R140) -/

/-- The drain program of a core has ended. -/
def DrainSt.ended (d : DrainSt) : Bool :=
  d.queue.isEmpty && d.cur.isNone && d.beats.isEmpty && d.pads.isEmpty
    && (d.image = [] || progLoop d.image < d.pos)

/-- The engine has no more to do for the round. -/
def Engine.through (x : Engine) : Bool :=
  x.bound.isNone && !(x.st = .armed || x.st = .running || x.st = .waiting || x.st = .stopped)

/-- The last landing of the region has completed. -/
def Run.landed (r : Run) : Bool := r.retired && r.land.isEmpty && r.pes.all fun p => p.2.folds.all (·.done)

/-- A round ends: the store buffer commits, and the kernel becomes RETIRED. -/
def State.retireKernel (s : State) (ctx kh : Nat) : State :=
  let s := (s.commit ctx kh).drainEngines ctx kh
  match s.kernel? ctx kh with
  | none => s
  | some k =>
    let drop (e : Engine) : Engine :=
      if e.own = some ctx ∧ e.kern = some kh then { e with kern := none } else e
    let s := { s with engs := Tab.mapVal s.engs fun _ e => drop e }
    let run := { k.run with paused := false, todo := [] }
    let n := { k with state := .retired, stopReq := false, moveReq := false, saveReq := false }
    ((s.putKernel ctx kh { n with snap := none, run := run, engines := [] }).showBars ctx kh).requestPass k.cluster

/-- The end of a virtual cycle: the VCC advances, or the round ends (05 R140, R145, R148). -/
def State.endCycle (s : State) (ctx kh : Nat) : State :=
  let s := s.modKernel ctx kh fun k =>
    let r := { k.run with vcc := k.run.vcc + 1 }
    { k with run := { r with recs := r.recs.filter fun o => r.vcc ≤ o.cyc } }
  match s.kernel? ctx kh with
  | none => s
  | some k =>
    -- behind the retirement instant a save takes hold at the end of a cycle
    let (t, broke) := if k.run.retired && k.saveReq then (s.putKernel ctx kh k.beginCycle).settleStores ctx kh else (s, true)
    if !broke then t.saveKernel ctx kh
    else if !k.run.landed then s.putKernel ctx kh k.beginCycle
    else
      let s := s.putKernel ctx kh k.flushStores
      match earliest k.run.events with
      | some e =>
        let (t, broke) := (s.putKernel ctx kh k.beginCycle).settleStores ctx kh
        if broke then t else t.freezeKernel ctx kh k e
      | none =>
        let k := k.flushStores
        if k.run.quiet && (k.run.drains.all fun d => d.2.ended) && k.engines.all fun en => (s.eng en).through then
          s.retireKernel ctx kh
        else s.putKernel ctx kh k.beginCycle

/-- LAND: a bank conflict of the cycle is served by a pause (01 R22), or is the strict timing trap; the landings of the
cycle; then, once the beats of copies have moved, the end of the cycle. -/
def execLand (s : State) : Result :=
  let ctx := s.cur.ctx
  let kh := s.cur.kern
  match s.kernel? ctx kh with
  | none => .next s
  | some k =>
    if k.state ≠ .running then .next s
    else if k.run.phase = .issue ∧ k.run.todo.isEmpty then
      match (if k.run.served then none else bankConflict (s.wordsTouched ctx kh k)) with
      | some u =>
        if k.run.strict then .next (s.timingTrap ctx kh (u.pe / 16) (u.pe % 16) u.ops)
        else .next ((s.modKernel ctx kh Kernel.stand).modRun ctx kh fun r => { r with paused := true, served := true })
      | none => .next ((s.modRun ctx kh fun r => { r with paused := false }).landAll ctx kh
          { k with run := { k.run with paused := false } })
    else if k.run.phase = .beats ∧ (s.beatsDue k).isEmpty then .next (s.endCycle ctx kh)
    else .next s

/-! ### Events outside virtual time -/

/-- FOLD_COMPLETE (03 R83): the adders of a fold finish; in a paused domain this may come before the
sixteenth cycle behind the capture. -/
def execFoldComplete (core : Nat) (cpe bank : Bool) (s : State) : Result :=
  match s.kernel? s.cur.ctx s.cur.kern with
  | none => .next s
  | some k =>
    if k.run.paused ∨ k.state ≠ .running then
      .next (s.modPe s.cur.ctx s.cur.kern (16 * core + cpeSlot cpe) fun p => p.finishFold bank)
    else .next s

/-- REMOTE_ARRIVAL (07 R217): an arrival at another core's barrier is counted although its domain
stands, or, behind a pause, ahead of its virtual cycle, at the end of a cycle. -/
def execRemoteArrival (n : Nat) (s : State) : Result :=
  let ctx := s.cur.ctx
  let kh := s.cur.kern
  match s.kernel? ctx kh with
  | none => .next s
  | some k =>
    match k.arrivals[n]? with
    | none => .next s
    | some a =>
      if k.state ≠ .moving ∧ (k.run.paused ∨ k.state ≠ .running ∨ (a.loose ∧ k.run.phase ≠ .issue)) then
        let s := s.putKernel ctx kh { k with arrivals := k.arrivals.eraseIdx n }
        .next (s.putBar ctx kh a.bar (barArrive (k.bar a.bar) true))
      else .next s

end Sys2Proof.Machine
end

