-- ==== Sys2Proof/Machine/Events.lean ====
section
/-! DEFINITION. Events of memory: posted operations performed at their homes (13 R370, 08 R252,
12 R348), write-combining buffers that drain (13 R356), uncorrectable errors and failing channels
(13 R378). -/
namespace Sys2Proof.Machine

/-- What a posted operation is for: an addition of `pred`, an `atm`, a merge. -/
inductive BankKind where
  | pred | atm | merge
deriving DecidableEq, Repr

/-- The kind of a posted operation. -/
def BankOp.kind : BankOp → BankKind
  | .fadd .. => .pred
  | .fx .. => .pred
  | .atm .. => .atm
  | .merge .. => .merge

/-- An earlier operation of the same unit on the same bytes is still on its way: it comes first
(13 R361, 12 R351). -/
def BankOp.behind (b : BankOp) (before : List BankOp) : Bool :=
  before.any fun a => a.src = b.src && rangesMeet a.span.1 a.span.2 b.span.1 b.span.2

/-- The posted operation at an index, if it is of a kind, reaches its home and is performed. -/
def State.bankArrives (s : State) (n : Nat) (k : BankKind) : State :=
  match s.banks[n]? with
  | none => s
  | some b =>
    if b.kind = k ∧ !b.behind (s.banks.take n) then { s with banks := s.banks.eraseIdx n }.perform b else s

/-- PRED_BANK_ADD (13 R370). -/
def execPredBankAdd (n : Nat) (s : State) : Result := .next (s.bankArrives n .pred)

/-- ATM_BANK_OP (08 R252). -/
def execAtmBankOp (n : Nat) (s : State) : Result := .next (s.bankArrives n .atm)

/-- CODEC_MERGE (12 R348). -/
def execCodecMerge (n : Nat) (s : State) : Result := .next (s.bankArrives n .merge)

/-- WC_BUFFER_DRAIN (13 R356): the buffer of a thread, or of engine n − 128. -/
def execWcBufferDrain (n : Nat) (s : State) : Result := .next (s.wcDrain n)

/-- UNCORRECTABLE_ERROR (13 R378): the unit of storage that holds an address is poisoned. -/
def execUncorrectableError (pa : Nat) (s : State) : Result :=
  let u := pa / poisonUnit pa * poisonUnit pa
  .next (if regionOf pa ≤ 2 ∧ u ∉ s.poison then { s with poison := u :: s.poison } else s)

/-- CHANNEL_FAIL (13 R378): a channel in service fails. -/
def execChannelFail (ch : Nat) (s : State) : Result :=
  .next (if ch < 512 ∧ !s.chanRet.getLsbD ch ∧ ch ∉ s.failedCh then { s with failedCh := ch :: s.failedCh }
    else s)

end Sys2Proof.Machine
end

