-- ==== Sys2Proof/Machine/LaneJob.lean ====
section
/-! DEFINITION. Transducer lanes (20): job records (R486, R487), loading and checking (R488, 04 R114),
the byte step (R488, R489), commit and failure (R490 to R492), `lstart` and `lstat` (R496, R497). -/
namespace Sys2Proof.Machine

/-! ### Job records (20 R486, R487) -/

/-- A job record. -/
def parseJob (r : List Byte) : Job :=
  let fl := BitVec.ofNat 8 (field r 0xC 1)
  { nclass := field r 6 1, clog := field r 7 1, nstate := field r 8 2, s0 := field r 0xA 2,
    taila := fl.getLsbD 0, tailc := fl.getLsbD 1, scope := field r 0xD 1, outbuf := field r 0xE 1,
    cmap := field r 0x10 8, table := field r 0x18 8, accpt := field r 0x20 8, inptr := field r 0x28 8,
    inlen := field r 0x30 8, firstc := field r 0x38 4, oslot := field r 0x3C 4, ctra := field r 0x40 8,
    ctrinc := fieldW r 0x48, statptr := field r 0x50 8 }

/-- The number of chunks (20 R485). -/
def Job.nchunk (j : Job) : Nat := (j.inlen + 2 ^ j.clog - 1) / 2 ^ j.clog

/-- Offset of the slots in the shadow (20 R487). -/
def Job.la (j : Job) : Nat := 64 * ((j.nchunk * 4 + 63) / 64)

/-- The checks of a record in order of their offsets; `npg` is the size of the published buffer that
OUTBUF names, if it names one. -/
def jobChecks (r : List Byte) (npg : Option Nat) : List (Nat × Bool) :=
  let j := parseJob r
  let within (v lo hi : Nat) : Bool := lo ≤ v && v ≤ hi
  [(0x00, field r 0 4 == 0x424F4A4C), (0x04, field r 4 2 == 1), (0x06, within j.nclass 1 64),
   (0x07, within j.clog 12 24), (0x08, within j.nstate 1 1024), (0x0A, decide (j.s0 < j.nstate)),
   (0x0C, decide (field r 0xC 1 < 4)), (0x0D, decide (j.scope ≤ 4)), (0x0E, npg.isSome),
   (0x0F, field r 0xF 1 == 0), (0x10, j.cmap % 64 == 0), (0x18, j.table % 4 == 0),
   (0x20, j.accpt % 8 == 0), (0x30, within j.inlen 1 (2 ^ 64) && decide (j.nchunk ≤ 2 ^ 20)),
   (0x38, decide (j.firstc < j.nchunk)),
   (0x3C, j.oslot % 64 == 0 && within j.oslot 64 (2 ^ 24)
      && npg.all fun n => decide (j.la + j.nchunk * j.oslot ≤ n * 65536)),
   (0x40, j.ctra % 8 == 0), (0x50, j.statptr % 64 == 0), (0x58, zeroBytes r 0x58 0x80)]

/-- The size of a valid published buffer of a context. -/
def State.pubSize (s : State) (ctx h : Nat) : Option Nat :=
  ((Tab.get? (s.ctx ctx).pubs h).filter (·.valid)).map PubEnt.npg

/-- A job record read and checked: the job, or the offset of its first defect (20 R486, R496). -/
def State.readJob (s : State) (ctx clu a : Nat) (own : Option Nat := none) : Rd (Except Nat Job) :=
  if a % 64 ≠ 0 then .ok (.error 0) s
  else (s.readRecord ctx clu a 128 own).bind fun r s =>
    match (jobChecks r (s.pubSize ctx (field r 0xE 1))).find? fun c => !c.2 with
    | some c => .ok (.error c.1) s
    | none => .ok (.ok (parseJob r)) s

/-! ### Lanes -/

/-- A lane that never runs (20 R484). -/
def State.laneOff (s : State) (l : Nat) : Bool := l ≥ 512 || s.limits.lanedis.getLsbD l || s.chanRet.getLsbD l

/-- A lane. -/
def State.lane (s : State) (l : Nat) : Lane := Tab.getD s.lanes l {}
/-- A lane replaced. -/
def State.putLane (s : State) (l : Nat) (x : Lane) : State := { s with lanes := Tab.put s.lanes l x }
/-- A function applied to a lane. -/
def State.modLane (s : State) (l : Nat) (f : Lane → Lane) : State := s.putLane l (f (s.lane l))

/-- The handle of a lane (20 R496). -/
def State.laneHandle (s : State) (l : Nat) : Word := Word.of (l + 2 ^ 16 * (s.lane l).serial)

/-- A context may start a job on a lane (20 R496). -/
def State.laneFree (s : State) (ctx l : Nat) : Bool :=
  let x := s.lane l
  !s.laneOff l && x.own = some ctx && (x.st = .idle || x.st = .done)

/-- A job on a lane, in a state: a new handle. -/
def Lane.launched (x : Lane) (j : Job) (a : Nat) (st : LaneSt) : Lane :=
  { own := x.own, serial := (x.serial + 1) % 2 ^ 16, st := st, job := j, recva := a }

/-- The translation unit of a lane: 8 + die (11 R323). -/
def laneClu (l : Nat) : Nat := 8 + l / 128

/-- The cluster whose byte budget a job is charged to (20 R493). -/
def Lane.payer (x : Lane) (l : Nat) : Nat := match x.thr with | some t => cluOf t | none => 2 * (l / 128)

/-- K: the chunks from FIRSTC on that are complete without a gap, from a chunk on (20 R491). -/
def gapFrom (lens : Tab Nat) (c : Nat) : Nat → Nat
  | 0 => c
  | n + 1 => if (Tab.get? lens c).isSome then gapFrom lens (c + 1) n else c

/-- K of a job. -/
def Lane.k (x : Lane) : Nat := gapFrom x.lens x.job.firstc (x.job.nchunk - x.job.firstc)

/-- Every chunk from FIRSTC on is complete. -/
def Lane.complete (x : Lane) : Bool := x.k ≥ x.job.nchunk

/-! ### Accesses of a lane (20 R489) -/

/-- What an access of a lane comes to: a value, a stall on a page, a wait, or a failure with its cause
and address. -/
inductive LRes (α : Type) where
  | ok (v : α) (s : State)
  | wait (s : State)
  | stall (page : Nat) (s : State)
  | fail (cause : BitVec 16) (addr : Nat) (s : State)

/-- An answer used to go on. -/
def LRes.bind {α β : Type} (x : LRes α) (f : α → State → LRes β) : LRes β :=
  match x with
  | .ok v s => f v s
  | .wait s => .wait s
  | .stall p s => .stall p s
  | .fail c a s => .fail c a s

/-- A cause met by a lane: a window and a replicated page without RWR fail at once, another replayable
cause posts a record (20 R489). -/
def State.laneFail {α : Type} (s : State) (ctx l : Nat) (a : Acc) (cause : BitVec 16) (va : Nat) : LRes α :=
  if replayable cause ∧ cause ≠ 0x0305#16 ∧ !(s.ctx ctx).inWindow va then
    .stall (va / 4096) (s.raiseFault ctx va cause 4 (faultUnit (l / 128) (l % 128)) a.bit (.lane l))
  else .fail cause va s

/-- A read or translation of a lane. -/
def State.laneLift {α : Type} (s : State) (ctx l : Nat) (a : Acc) (x : Rd α) : LRes α :=
  match x with
  | .ok v s => .ok v s
  | .bad c va => s.laneFail ctx l a c va

/-- Bytes charged to the budget of the job's cluster, or a wait (19 R463, R464). -/
def State.laneSpend (s : State) (l : Nat) (classes : List Nat) (n : Nat) : LRes Unit :=
  let clu := (s.lane l).payer l
  match s.spend clu (s.cost classes n) (.lane l) with
  | some s => .ok () s
  | none => .wait (s.refuse clu (s.cost classes n) (.lane l))

/-- The arbiter classes of an access of a lane through a leaf (19 R463). -/
def State.laneClasses (s : State) (l pa : Nat) (leaf : Word) : List Nat := s.homeClasses (2 * (l / 128)) pa (cachedPol leaf)

/-- n bytes read by a lane. -/
def State.laneRead (s : State) (ctx l va n : Nat) : LRes (List Nat) :=
  (s.laneLift ctx l .read (s.engXlate ctx (laneClu l) va .read none)).bind fun p s =>
    (s.laneSpend l (s.laneClasses l p.1 p.2) n).bind fun _ s =>
      s.laneLift ctx l .read
        (Rd.mapM (fun s va => s.engByte ctx (laneClu l) none [] va) ((List.range n).map (va + ·)) s)

/-- The places of n bytes of the shadow of OUTBUF from an offset on (20 R487, 13 R372). -/
def State.lanePlaces (s : State) (ctx l off n : Nat) : LRes (List (Nat × Word)) :=
  let h := (s.lane l).job.outbuf
  let base := ((Tab.get? (s.ctx ctx).pubs h).map PubEnt.vabase).getD 0
  s.laneLift ctx l .write
    (Rd.mapM (fun s va => s.shadowPlace ctx (laneClu l) none (some h) va) ((List.range n).map (base + off + ·)) s)

/-- Bytes stored by a lane, each at its place. -/
def State.laneStore (s : State) (ctx l : Nat) (pas v : List Nat) : State :=
  s.storeRuns (srcOf ctx (2048 + 1 + l)) (pas.zip v)

/-- Bytes written by a lane to the shadow from an offset on. -/
def State.laneWrite (s : State) (ctx l off : Nat) (v : List Nat) : LRes Unit :=
  if v = [] then .ok () s
  else (s.lanePlaces ctx l off v.length).bind fun ps s =>
    let pas := ps.map Prod.fst
    match pas.findSome? fun pa => s.failedAt pa 1 with
    | some ch => .fail 0x0405#16 ch s
    | none =>
      let p := (ps.head?).getD (0, 0)
      (s.laneSpend l (s.laneClasses l p.1 p.2) v.length).bind fun _ s => .ok () (s.laneStore ctx l pas v)

/-- The lane stalls on the fault record of a page. -/
def State.laneStalled (s : State) (ctx l : Nat) (page : Option Nat) : Bool :=
  page.any fun p => (s.ctx ctx).faults.any fun f => f.page = p && f.waiters.contains (.lane l)

/-! ### Failing -/

/-- The job is bound for FAILED with a cause (20 R488, R491, R493). -/
def Lane.failJob (x : Lane) (cause : BitVec 16) (f : Nat) (info : Word) : Lane :=
  { x with bound := some .failed, cause := cause, fail := f, info := info, failing := none,
           subs := List.replicate 8 {}, stall := none, halted := false }

/-- A chunk fails; the lowest chunk of the lane cycle counts. ADDR is a virtual address or zero (20 R491, R492). -/
def Lane.failChunk (x : Lane) (c : Nat) (ch : BitVec 16) (addr : Nat) : Lane :=
  let addr := if ch.toNat / 256 = 3 then addr else 0
  if x.failing.all fun d => c < d then { x with failing := some c, chcause := ch, addr := addr } else x

/-- The end of a lane cycle: a failure takes hold (20 R491). -/
def Lane.cycleEnd (x : Lane) : Lane :=
  match x.failing with
  | some f => x.failJob 0x0B02#16 f (Word.of (f * 2 ^ 32 + x.k))
  | none => x

/-- The status record (20 R492). -/
def Lane.record (x : Lane) : List Nat :=
  let bad := x.bound = some .failed
  let tot := x.lens.foldl (fun n e => n + e.2) 0
  bytesOf (if bad then x.cause.toNat else 0) 2 ++ bytesOf (if bad then x.chcause.toNat else 0) 2
    ++ List.replicate 4 0 ++ bytesOf (if bad then x.fail else 0) 4 ++ bytesOf x.k 4
    ++ bytesOf (if bad then x.addr else 0) 8 ++ bytesOf x.lens.length 8 ++ bytesOf tot 8
    ++ List.replicate 24 0

/-- The job enters the state that it is bound for; a failure is delivered to the launching thread, but
for that of a group abort; an integrity error aborts its groups (20 R491, R493; 14 R383). -/
def State.enterLane (s : State) (ctx l : Nat) : State :=
  let x := s.lane l
  match x.bound with
  | none => s
  | some b =>
    let s := s.putLane l { x with st := b, bound := none, stall := none, halted := false }
    let s := if b = .failed ∧ fatalCause x.chcause then s.fatal ctx x.groups x.chcause else s
    match x.thr with
    | some t =>
      if b = .failed ∧ x.cause ≠ 0x0704#16 ∧ (s.thr t).ctx = ctx ∧ (s.thr t).st ≠ ThrSt.off then
        s.post t ⟨x.cause, true, x.info⟩
      else s
    | none => s

/-- The status record written, and the state entered behind it; a record that cannot be written is lost
(20 R490, R491; log entry 45). -/
def State.settleLane (s : State) (ctx l : Nat) : State :=
  let x := s.lane l
  if s.laneStalled ctx l x.stall then s
  else if x.job.statptr = 0 ∨ x.stage ≥ 3 then s.enterLane ctx l
  else
    let vas := (List.range 64).map (x.job.statptr + ·)
    let places := s.laneLift ctx l .write (Rd.mapM (fun s va => s.engXlate ctx (laneClu l) va .write none) vas s)
    match places.bind fun ps s =>
        let p := (ps.head?).getD (0, 0)
        (s.laneSpend l (s.laneClasses l p.1 p.2) 64).bind fun _ s => .ok (ps.map Prod.fst) s with
    | .ok pas s => (s.laneStore ctx l pas x.record).enterLane ctx l
    | .wait s => s
    | .stall p s => s.modLane l fun x => { x with stall := some p }
    | .fail _ _ s => s.enterLane ctx l

/-! ### Loading (20 R488, 04 R114) -/

/-- The first class-map byte or table entry that is not valid, as trap information. -/
def loadDefect (j : Job) (cmap table : List Nat) : Option Word :=
  match (List.range 256).find? fun i => nth cmap i 0 ≥ j.nclass with
  | some i => some (Word.of (2 ^ 63 + i))
  | none =>
    ((List.range table.length).find? fun i => nth table i 0 / 2 ^ 22 ≥ j.nstate).map fun i => Word.of (4 * i)

/-- The 32-bit entries of a table in bytes. -/
def tableWords : List Nat → List Nat
  | a :: b :: c :: d :: t => ofBytes [a, b, c, d] :: tableWords t
  | _ => []

/-- What a lane has loaded, checked behind the last piece: the job starts or fails. -/
def Lane.checked (x : Lane) (accept : Nat) : Lane :=
  match loadDefect x.job x.cmap x.table with
  | some v => x.failJob 0x0B01#16 0 v
  | none => { x with loaded := true, accept := accept, stall := none }

/-- The next piece of what a lane loads, at most 64 bytes each, and how the lane takes it: the class map, the table, at
last the accept bitmap. -/
def Lane.piece (x : Lane) : Nat × Nat × (List Nat → Lane → Lane) :=
  let j := x.job
  let words := j.nstate * j.nclass - x.table.length
  if x.cmap.length < 256 then
    (j.cmap + x.cmap.length, min 64 (256 - x.cmap.length), fun v y => { y with cmap := y.cmap ++ v, stall := none })
  else if words ≠ 0 then
    (j.table + 4 * x.table.length, 4 * min 16 words, fun v y => { y with table := y.table ++ tableWords v, stall := none })
  else if j.accpt ≠ 0 then (j.accpt, 128, fun v y => y.checked (ofBytes v))
  else (0, 0, fun _ y => y.checked 0)

/-- The lane loads a piece of its class map, table and accept bitmap, and checks them behind the last (19 R463). -/
def State.laneLoad (s : State) (ctx l : Nat) : State :=
  let j := (s.lane l).job
  let p := (s.lane l).piece
  match (if p.2.1 = 0 then .ok [] s else s.laneRead ctx l p.1 p.2.1) with
  | .wait s => s
  | .stall p s => s.modLane l fun x => { x with stall := some p }
  | .fail c a s => s.modLane l fun x => (x.failChunk j.firstc c a).cycleEnd
  | .ok v s => s.modLane l (p.2.2 v)

/-! ### The byte step (20 R488) -/

/-- What a step of a sub-stream does: the sub-stream behind it, the bytes that it puts out, whether the
chunk ends, or that the chunk fails. -/
structure LaneStep where
  sub : SubStream
  out : List Nat := []
  ends : Bool := false
  bad : Bool := false

/-- The action of a table entry on an input byte (20 R488, 04 R114). -/
def laneAction (x : SubStream) (e b : Nat) : LaneStep :=
  let act := e / 2 ^ 16 % 64
  let arg := e % 2 ^ 16
  let on : SubStream := { x with pos := x.pos + 1, h := 0, s := e / 2 ^ 22 }
  match act with
  | 0x00 => { sub := on }
  | 0x01 => { sub := on, out := [b] }
  | 0x02 => { sub := on, out := [arg % 256] }
  | 0x03 => { sub := on, out := [arg % 256, arg / 256] }
  | 0x04 =>
    let a := BitVec.ofInt 32 (x.a.toNat * (arg % 256 : Nat) + b - (arg / 256 : Nat))
    { sub := { on with a := a } }
  | 0x05 => { sub := { on with a := 0 }, out := bytesOf x.a.toNat 4 }
  | 0x06 => { sub := { on with a := 0 } }
  | 0x07 => { sub := { on with c := x.c + 1 } }
  | 0x08 => { sub := { x with h := x.h + 1, s := e / 2 ^ 22 }, bad := x.h + 1 > 8 }
  | 0x0A => { sub := { x with s := e / 2 ^ 22 }, ends := true }
  | _ => { sub := x, bad := true }

/-- The bytes that the end of a chunk puts out. -/
def Job.tail (j : Job) (x : SubStream) : List Nat :=
  (if j.taila then bytesOf x.a.toNat 4 else []) ++ (if j.tailc then bytesOf x.c.toNat 4 else [])

/-- The state in which a chunk ends accepts. -/
def Lane.accepts (x : Lane) (st : Nat) : Bool := x.job.accpt = 0 || x.accept.testBit st

/-- The lowest chunk that is neither complete nor running (20 R485). -/
def Lane.nextChunk (x : Lane) : Option Nat :=
  ((List.range (x.job.nchunk - x.job.firstc)).map (x.job.firstc + ·)).find? fun c =>
    (Tab.get? x.lens c).isNone && x.subs.all fun u => u.chunk ≠ some c

/-- A sub-stream of a lane replaced. -/
def Lane.putSub (x : Lane) (i : Nat) (u : SubStream) : Lane := { x with subs := x.subs.set i u }

/-- A step that has been worked out is performed: its bytes, as many as the slot holds, and, at the end of a chunk, its
length. -/
def State.laneEmit (s : State) (ctx l i c : Nat) (u : SubStream) (st : LaneStep) : State :=
  let x := s.lane l
  let j := x.job
  let out := st.out ++ (if st.ends then j.tail st.sub else [])
  let n := u.n + out.length
  let bad : Bool := st.bad || (st.ends && !x.accepts st.sub.s)
  let full : Bool := n > j.oslot
  if bad then s.modLane l fun x => x.failChunk c 0x0B02#16 0
  else
    match (s.laneWrite ctx l (j.la + c * j.oslot + u.n) (out.take (j.oslot - u.n))).bind fun _ s =>
        if full then .fail 0x0B02#16 0 s
        else if st.ends then s.laneWrite ctx l (4 * c) (bytesOf n 4) else .ok () s with
    | .wait s => s
    | .stall p s => s.modLane l fun x => x.putSub i { u with stall := some p }
    | .fail ca a s => s.modLane l fun x => x.failChunk c ca a
    | .ok _ s => s.modLane l fun x =>
        if st.ends then { x.putSub i {} with lens := Tab.put x.lens c n }
        else x.putSub i { st.sub with n := n, stall := none }

/-- One lane cycle of a sub-stream: it takes a chunk, or runs one step of its own. -/
def State.subStep (s : State) (ctx l i : Nat) : State :=
  let x := s.lane l
  let j := x.job
  let u := nth x.subs i {}
  match u.chunk with
  | none =>
    match (if x.failing.isSome || x.halted then none else x.nextChunk) with
    | none => s
    | some c => s.putLane l (x.putSub i { chunk := some c, s := j.s0 })
  | some c =>
    if s.laneStalled ctx l u.stall then s
    else
      let size := min ((c + 1) * 2 ^ j.clog) j.inlen - c * 2 ^ j.clog
      if u.pos ≥ size then s.laneEmit ctx l i c u { sub := u, ends := true }
      else
        match s.laneRead ctx l (j.inptr + c * 2 ^ j.clog + u.pos) 1 with
        | .wait s => s
        | .stall p s => s.modLane l fun x => x.putSub i { u with stall := some p }
        | .fail ca a s => s.modLane l fun x => x.failChunk c ca a
        | .ok bs s =>
          let b := bs.headD 0
          s.laneEmit ctx l i c u (laneAction u (nth x.table (u.s * j.nclass + nth x.cmap b 0) 0) b)

/-- The context of a lane, while it may run. -/
def State.laneCtx (s : State) (l : Nat) : Option Nat := (s.lane l).own

/-- LANE_BYTE_STEP (20 R488, R491): the next sub-stream runs one step; behind the eighth, a failure of the cycle takes
hold, and so does one that a freeze has kept (R494). A group abort makes the job FAILED once no chunk is in hand (R493,
14 R384); a status record is written while the context runs (R494, 16 R407). -/
def execLaneByteStep (s : State) : Result :=
  let l := s.cur.lane
  let x := s.lane l
  match x.own with
  | none => .next s
  | some ctx =>
    if x.bound = some .failed then .next (if (s.ctx ctx).st = .running then s.settleLane ctx l else s)
    else if x.halted ∧ (x.st = .running ∨ x.st = .stopped) ∧ x.subs.all (fun u => u.chunk.isNone) then
      .next (s.putLane l (x.failJob 0x0704#16 x.k 0))
    else if x.st ≠ .running ∨ (s.ctx ctx).st ≠ .running ∨ x.complete then .next s
    else if x.failing.isSome ∧ x.next = 0 then .next (s.putLane l x.cycleEnd)
    else if !x.loaded then .next (if s.laneStalled ctx l x.stall then s else s.laneLoad ctx l)
    else
      let s := s.subStep ctx l x.next
      .next (s.modLane l fun y =>
        let y := { y with next := (x.next + 1) % 8 }
        if x.next = 7 then y.cycleEnd else y)

/-! ### Commit (20 R490) -/

/-- The next step of a commit: publish, counter, status record and DONE. -/
def State.commitStep (s : State) (ctx l : Nat) : State :=
  let x := s.lane l
  let j := x.job
  let src := srcOf ctx (2048 + 1 + l)
  if x.stage = 0 then
    ((s.drainBanks fun b => b.src = src).publish ctx j.outbuf).modLane l fun y => { y with stage := 1 }
  else if x.stage = 1 then
    if j.ctra = 0 then s.modLane l fun y => { y with stage := 2 }
    else
      match (s.laneLift ctx l .atomic (s.counterPlace ctx (laneClu l) j.ctra)).bind fun pa s =>
          (s.laneSpend l (s.atomClasses pa) 8).bind fun _ s => .ok pa s with
      | .ok pa s => (s.counterAdd pa j.ctrinc).modLane l fun y => { y with stage := 2, stall := none }
      | .wait s => s
      | .stall p s => s.modLane l fun y => { y with stall := some p }
      | .fail _ _ s => s.modLane l fun y => { y with stage := 2 }
  else (s.modLane l fun y => { y with bound := some .done }).settleLane ctx l

/-- LANE_COMMIT (20 R490): the steps of the commit, one after another, as far as they go. -/
def execLaneCommit (s : State) : Result :=
  let l := s.cur.lane
  let x := s.lane l
  match x.own with
  | none => .next s
  | some ctx =>
    if x.st ≠ .running ∨ (s.ctx ctx).st ≠ .running ∨ x.halted ∨ !x.complete ∨ x.failing.isSome
        ∨ x.bound = some .failed then .next s
    else
      let go (s : State) : State :=
        if (s.lane l).st = .running ∧ !s.laneStalled ctx l (s.lane l).stall then s.commitStep ctx l else s
      .next (go (go (go s)))

/-! ### Host instructions -/

/-- The words of R153 for a job that does not start (20 R496). -/
def jobError (info : Nat) : Word := ({ cause := 0x0B01, info := info } : LoadErr).word

/-- `lstart` (20 R496); in a thermal emergency it waits (19 R474). -/
def execLstart (rd rs1 rs2 : Reg) (s : State) : Result :=
  let l := (s.reg rs1).toNat
  let a := (s.reg rs2).toNat
  if s.pow.hold then .next s
  else ((s.readJob s.myCtx s.myClu a (some s.cur.thr)).host s).andThen fun r s =>
    match r with
    | .error o => .next (s.retireWith rd (jobError o))
    | .ok j =>
      if !s.laneFree s.myCtx l then .next (s.retireWith rd (jobError 0xFFFF))
      else
        let gs := s.groupsOf s.myCtx s.cur.thr
        let s := s.putLane l { (s.lane l).launched j a .running with thr := some s.cur.thr, groups := gs }
        .next (s.retireWith rd (s.laneHandle l))

/-- The lane that a register value names: a current handle of the thread's context. -/
def State.laneOf? (s : State) (v : Word) : Option Nat :=
  let l := v.toNat % 512
  if (s.lane l).own = some s.myCtx ∧ (s.lane l).st.code ≠ 0 ∧ v = s.laneHandle l then some l else none

/-- The status word of a job (20 R497). -/
def Lane.statusWord (x : Lane) : Word :=
  let bad := x.st = .failed
  Word.of (x.st.code * 2 ^ 60 + (if bad then x.cause.toNat else 0) * 2 ^ 44
    + (if bad then x.fail else 0) % 2 ^ 22 * 2 ^ 22 + x.k % 2 ^ 22)

/-- A lane that has reported its failure (20 R493). -/
def Lane.idle (x : Lane) : Lane := { own := x.own, serial := x.serial, st := .idle }

/-- `lstat` (20 R497). -/
def execLstat (rd rs1 : Reg) (s : State) : Result :=
  match s.laneOf? (s.reg rs1) with
  | none => .next (s.retireWith rd (BitVec.allOnes 64))
  | some l =>
    let x := s.lane l
    let s := s.retireWith rd x.statusWord
    .next (if x.st = .failed then s.putLane l x.idle else s)

end Sys2Proof.Machine
end

