-- ==== Sys2Proof/Machine/System.lean ====
section
/-! DEFINITION. The system command interface (17 R429) and the commands of translation (11 R326): INVAL
(R313, R324; 13 R371; 18 R451), FRAMESET (R320, 12 R337), REPLAY and ABORT (R328), with the events of
fault records (R327, R329). -/
namespace Sys2Proof.Machine

/-! ### Records of the command ring -/

/-- A device access outside every context can reach an address: installed HBM on a channel in service, or
host memory through an open window (17 R429). -/
def State.ringOk (s : State) (pa : Nat) (wr : Bool) : Bool :=
  if regionOf pa = 0 then pa < s.hbmSize && (s.failedAt pa 1).isNone
  else 8 ≤ regionOf pa && regionOf pa ≤ 15 && s.windowOk (pa - hostBase) (!wr, wr)

/-- The record of the next command (17 R428). -/
def State.cmdRecord (s : State) : Nat := s.sys.base.toNat + 64 * (s.sys.done.toNat % 2 ^ s.sys.log)

/-- A record of the ring can be read. -/
def State.recordReadable (s : State) (a : Nat) : Bool := s.ringOk a false && (s.readError a 64).isNone

/-- The bytes of a record of a ring. -/
def State.ringBytes (s : State) (a : Nat) : List Byte := (List.range 64).map fun i => s.peekByte (a + i)

/-- A command completes with a status: the status byte where it can be written, DONE, and vector 0. -/
def State.finishAt (s : State) (record st : Nat) : State :=
  let s := if s.ringOk (record + 1) true then s.pokeLE (record + 1) 1 (0x80 + st) else s
  let s := { s with sys := { s.sys with done := s.sys.done + 1, busy := none } }
  s.signalMsix

/-- The command on the move completes with a status. -/
def State.finish (s : State) (st : Nat) : State := s.finishAt s.cmdRecord st

/-- A command that waits for a transition stays in progress. -/
def State.startBusy (s : State) (code ctx : Nat) : State :=
  { s with sys := { s.sys with busy := some ⟨s.cmdRecord, code, ctx⟩ } }

/-- The command in progress completes, if it is of a code for a context. -/
def State.completeBusy (s : State) (ctx code st : Nat) : State :=
  match s.sys.busy with
  | some b => if b.ctx = ctx ∧ b.code = code then s.finishAt b.record st else s
  | none => s

/-- The slot holds a context (11 R326). -/
def Ctx.named (c : Ctx) : Bool := c.st ≠ .empty && c.st ≠ .released

/-! ### Taking in what a context's tables hold -/

/-- The fields of a translation block that system software writes (11 R313). -/
def State.readXlate (s : State) (a : Nat) (old : XlBlock) : XlBlock :=
  let rd (o n : Nat) : Nat := s.sysPeek (a + o) n
  { old with base := a, ptroot := rd 0 8, acthr := rd 0xA 2, fmbase := rd 0x10 8, rstbase := rd 0x18 8,
             fqbase := rd 0x20 8, fqlog := rd 0x28 1, nqlog := rd 0x29 1, nqbase := rd 0x30 8,
             fqc := rd 0x48 8, nqc := rd 0x58 8 }

/-- A translation block is valid (11 R313). -/
def XlBlock.ok (x : XlBlock) : Bool :=
  let log (n : Nat) : Bool := 6 ≤ n && n ≤ 16
  log x.fqlog && log x.nqlog && x.ptroot % 4096 = 0 && x.fqbase % 4096 = 0 && x.nqbase % 4096 = 0
    && x.rstbase % 1024 = 0

/-- A published-buffer entry as memory holds it: its range, and whether it is valid (13 R371). -/
def State.readPub (s : State) (a : Nat) : PubEnt :=
  let rd (o n : Nat) : Nat := s.sysPeek (a + o) n
  let vabase := rd 0 8
  let npg := rd 8 4
  let flags := rd 0xC 1
  let p0 := rd 0x10 8
  let p1 := rd 0x18 8
  let n := npg * 65536
  let place (p : Nat) : Bool := p % 65536 = 0 && regionOf p ≤ 1
  let alike (i : Nat) : Bool :=
    s.frameOf (p0 + 4096 * i) = s.frameOf (p1 + 4096 * i) && !(s.frameOf (p0 + 4096 * i)).codec
  { vabase := vabase, npg := npg, cur := false, p0 := p0, p1 := p1, vset := flags % 2 = 1,
    valid := flags % 2 = 1 && flags < 4 && rd 0xD 3 = 0 && vabase % 65536 = 0 && 1 ≤ npg && npg ≤ 2 ^ 20
      && place p0 && place p1 && (p0 + n ≤ p1 || p1 + n ≤ p0) && (List.range (16 * npg)).all alike }

/-- An INVAL of some pages from an address, 0 for all, covers a range. -/
def invalCovers (va pages a n : Nat) : Bool := pages = 0 || (va ≤ a && a + n ≤ va + 4096 * pages)

/-- An INVAL touches a range. -/
def invalTouches (va pages a n : Nat) : Bool := pages = 0 || (va < a + n && a < va + 4096 * pages)

/-- One published-buffer entry taken in by an INVAL that covers it (13 R371). -/
def State.takePub (s : State) (ctx va pages h : Nat) : State :=
  let c := s.ctx ctx
  let a := c.obj.pubtab + 32 * h
  let p := s.readPub a
  if !invalCovers va pages p.vabase (p.npg * 65536) then s
  else
    let old := (Tab.get? c.pubs h).filter (·.vset)
    let cur := (old.map PubEnt.cur).getD false
    let s := s.putCtx ctx { c with pubs := Tab.put c.pubs h { p with cur := cur } }
    let flags := s.sysPeek (a + 0xC) 1
    if p.vset ∧ old.isNone then s.sysPoke (a + 0xC) 1 (flags - flags / 2 % 2 * 2) else s

/-- The published buffers that an INVAL covers are taken in. -/
def State.takePubs (s : State) (ctx va pages : Nat) : State :=
  (List.range 256).foldl (fun s h => s.takePub ctx va pages h) s

/-- An endpoint entry as memory holds it; valid before windows are compared (18 R450, R451). -/
def State.readEndpoint (s : State) (a : Nat) (old : Endpoint) : Endpoint :=
  let rd (o n : Nat) : Nat := s.sysPeek (a + o) n
  let flags := rd 0x1D 1
  let e : Endpoint :=
    { pkgid := Word.of (rd 0 8), vbase := rd 8 8, rbase := rd 0x10 8, npg := rd 0x18 4, rctx := rd 0x1C 1,
      ord := flags / 2 % 2 = 1, vc := flags / 4 % 8, lcause := old.lcause, nfail := old.nfail }
  { e with valid := flags % 2 = 1 && flags < 32 && e.rctx < 64 && rd 0x28 24 = 0
      && e.pkgid.extractLsb' 17 31 == 0#31 && e.vbase % 65536 = 0 && e.rbase % 65536 = 0
      && e.npg ≤ 2 ^ 20 && (e.vc = 0 || e.ord) }

/-- Two windows overlap. -/
def Endpoint.meets (a b : Endpoint) : Bool :=
  a.npg ≠ 0 && b.npg ≠ 0 && a.vbase < b.vbase + b.npg * 65536 && b.vbase < a.vbase + a.npg * 65536

/-- The endpoint table of a context taken in (18 R451). -/
def State.takeEps (s : State) (ctx : Nat) : State :=
  let c := s.ctx ctx
  let base := (Tab.getD s.epbase ctx 0).toNat
  if base = 0 then s.putCtx ctx { c with eps := Tab.mapVal c.eps fun _ e => { e with valid := false } }
  else
    let es : Tab Endpoint := (List.range 256).map fun i => (i, s.readEndpoint (base + 64 * i) (Tab.getD c.eps i {}))
    let clash (i : Nat) (e : Endpoint) : Bool := es.any fun f => f.1 ≠ i && f.2.valid && e.meets f.2
    s.putCtx ctx { c with eps := Tab.mapVal es fun i e => { e with valid := e.valid && !clash i e } }

/-! ### INVAL (11 R313, R324 to R326) -/

/-- Cached translations of an address space that lie in a range are dropped. -/
def State.dropTlb (s : State) (asid va pages : Nat) : State :=
  { s with tlb := s.tlb.filter fun t => t.asid ≠ asid || !invalTouches va pages t.va t.size }

/-- A context whose domains, engines and lanes may move: it runs, or is being halted (16 R405, R407). -/
def CtxSt.moves : CtxSt → Bool
  | .running | .frozen | .faulted => true
  | _ => false

/-- An entry of a store buffer as a change of translations leaves it: what the change hits, by its virtual address and
its place, is translated again as it leaves (11 R324; log entry 46). -/
def BufEnt.again (hit : Nat → Nat × Nat → Bool) (b : BufEnt) : BufEnt :=
  match b.va with
  | some (va, old) => b.withVa (some (va, old || hit va b.span))
  | none => b

/-- A store inserted among others in the order of their cycles. -/
def FarStore.insert (f : FarStore) : List FarStore → List FarStore
  | [] => [f]
  | g :: t => if f.ready < g.ready then f :: g :: t else g :: f.insert t

/-- The bytes that a landing stores, as stores that are translated again when they land. -/
def farAgain (cyc ready va : Nat) (v en : List Nat) : List FarStore :=
  ((List.range v.length).filter fun i => nth en i 0 ≠ 0).map fun i =>
    { va := va + i, bytes := [nth v i 0], cyc := cyc, ready := ready, back := false }

/-- The landings of a round that store through a dropped translation are translated again when they land. -/
def Run.storesAgain (hit : Nat → Bool) (r : Run) : Run :=
  let gone (l : Landing) : Option (Nat × List FarStore) :=
    match l.act with
    | .bytes _ v en (some (key, cyc, va)) => if hit va then some (key, farAgain cyc l.cyc va v en) else none
    | _ => none
  let put (r : Run) (g : Nat × List FarStore) : Run :=
    let x := r.stream g.1
    r.putStream g.1 { x with far := g.2.foldl (fun t f => f.insert t) x.far }
  (r.land.filterMap gone).foldl put { r with land := r.land.filter fun l => (gone l).isNone }

/-- A kernel whose stores on their way use translations that have been dropped (11 R324; log entry 46). -/
def Kernel.storesAgain (hit : Nat → Bool) (k : Kernel) : Kernel :=
  { k with run := k.run.storesAgain hit, snap := k.snap.map (Run.storesAgain hit),
           buffer := k.buffer.map (BufEnt.again fun va _ => hit va) }

/-- Threads of a context that sleep on a watch in a range of virtual addresses re-check (15 R399). -/
def State.wakeInval (s : State) (ctx va pages : Nat) : State :=
  { s with thrs := Tab.mapVal s.thrs fun _ t =>
      if t.ctx = ctx ∧ (t.st = .mwait ∨ t.st = .cwait) ∧ invalTouches va pages (t.watch.va / 128 * 128) 128 then
        { t with st := .ready }
      else t }

/-- INVAL: what is on its way through the dropped translations is performed, or translated again where it is held back
(log entry 46). -/
def execInval (h : Nat) (va pages : Word) (s : State) : Result :=
  let c := s.ctx h
  let x := s.readXlate c.obj.xlate c.xl
  if !c.named ∨ !x.ok then .next (s.finish 1)
  else
    let s := s.flushCtx h
    let d := s.ctx h
    let ks := Tab.mapVal d.kernels fun _ => Kernel.storesAgain fun a => invalTouches va.toNat pages.toNat a 1
    let s := (s.putCtx h { d with xl := x, kernels := ks }).dropTlb c.xl.asid va.toNat pages.toNat
    let s := s.wakeInval h va.toNat pages.toNat
    .next (((s.takePubs h va.toNat pages.toNat).takeEps h).finish 0)

/-! ### FRAMESET (11 R318 to R320, 12 R337) -/

/-- Blocks of a codec region. -/
def CodecEnt.blocks (c : CodecEnt) : Nat := c.nfr.toNat * 4096 / (8 * blockElems c.two)
/-- Bytes of its encoded store. -/
def CodecEnt.storeLen (c : CodecEnt) : Nat := c.blocks * blockBytes c.two c.rate
/-- Bytes of its decoded span. -/
def CodecEnt.span (c : CodecEnt) : Nat := c.nfr.toNat * 4096

/-- An entry of the codec region table is valid (12 R337). -/
def State.codecOk (s : State) (cri : Nat) : Bool :=
  let c := Tab.getD s.codec cri {}
  (c.cfg &&& codecReserved) == 0#64 && c.rsv.all (· == 0#64) && c.rate ≤ 4
    && (if c.two then c.pitch % 4 = 0 && 4 ≤ c.pitch && c.span % (32 * c.pitch) = 0 else c.pitch = 0)
    && 1 ≤ c.nfr.toNat && c.nfr.toNat ≤ 2 ^ 32 && c.dbase.toNat % 4096 = 0 && regionOf c.dbase.toNat = 0
    && c.estore.toNat % 64 = 0 && c.estore.toNat + c.storeLen ≤ s.hbmSize
    && !rangesMeet c.estore.toNat c.storeLen c.dbase.toNat c.span
    && s.codec.all fun e => e.1 = cri || !s.codecUsed e.1
        || !rangesMeet c.estore.toNat c.storeLen e.2.dbase.toNat e.2.span

/-- Bytes of memory zeroed. -/
def State.zeroRange (s : State) (a n : Nat) : State :=
  { s with mem := s.mem.filter fun c => !(a ≤ c.1 && c.1 < a + n) }.unpoison a n

/-- FRAMESET is refused (11 R320, 12 R337). -/
def State.framesetBad (s : State) (pa n : Nat) (attr : Word) : Bool :=
  let pol := attr.toNat % 8
  let cri := (attr.extractLsb' 16 16).toNat
  let c := Tab.getD s.codec cri {}
  let where_ (a : Nat) : Bool := regionOf a = 0 || (8 ≤ regionOf a && regionOf a ≤ 15)
  !where_ pa || !where_ (pa + 4096 * n - 1) || pol > 4
    || (attr.getLsbD 3 && (regionOf (pa + 4096 * n - 1) ≠ 0 || pol ≠ 0 || !s.codecOk cri
        || pa ≠ c.dbase.toNat || n ≠ c.nfr.toNat))

/-- A cached translation maps a frame of a range; a replicated page and one of a published buffer may. -/
def State.tlbMaps (s : State) (pa n : Nat) (t : TlbEnt) : Bool :=
  rangesMeet t.pa t.size pa n || leafRepl t.leaf
    || s.ctxs.any fun c => c.2.xl.asid = t.asid && c.2.pubs.any fun p =>
        p.2.valid && rangesMeet t.va t.size p.2.vabase (p.2.npg * 65536)

/-- The words of a LOAD window that lie in a range leave it, by whole fold groups, and their fills issue
again (11 R320, 08 R236). -/
def Kernel.dropWords (k : Kernel) (d : StreamDesc) (x : StreamSt) (pa n : Nat) : StreamSt :=
  if d.store ∨ d.kind = .indexed then x
  else
    let hit (w : WinWord) : Bool := w.frames.any fun f => pa ≤ 4096 * f && 4096 * f < pa + n
    let g := groupWords d.deliv
    let gone := (x.win.filter fun w => hit w.2).map (·.1 / g)
    let out := x.win.filter fun w => gone.contains (w.1 / g)
    let again (w : Nat × WinWord) : Fill := { word := w.1, cyc := k.run.vcc, used := w.2.used }
    { x with win := x.win.filter (fun w => !gone.contains (w.1 / g)),
             exps := x.exps.filter (fun e => !gone.contains e.1), fills := x.fills ++ out.map again }

/-- Window segments that map a frame of a range are dropped in every kernel. -/
def State.dropSegments (s : State) (pa n : Nat) : State :=
  let inRun (k : Kernel) : Kernel :=
    let one (key : Nat) (x : StreamSt) : StreamSt :=
      match k.strm? key with
      | some d => k.dropWords d x pa n
      | none => x
    { k with run := { k.run with streams := Tab.mapVal k.run.streams one } }
  { s with ctxs := Tab.mapVal s.ctxs fun _ c => { c with kernels := Tab.mapVal c.kernels fun _ k => inRun k } }

/-- New attributes of n frames. -/
def State.setFrames (s : State) (pa : Nat) (a : FrameAttr) (n : Nat) : State :=
  { s with frames := (List.range n).foldl (fun t i => Tab.put t (pa / 4096 + i) a) s.frames }

/-- An entry of a store buffer writes bytes of a range. -/
def BufEnt.meets (pa n : Nat) (b : BufEnt) : Bool := rangesMeet b.span.1 b.span.2 pa n

/-- A strict round on the move holds stores into a range. -/
def State.storesInto (s : State) (pa n : Nat) : Bool :=
  s.ctxs.any fun c => c.2.st.moves && c.2.kernels.any fun e =>
    e.2.state = .running && !e.2.run.paused && e.2.buffer.any (·.meets pa n)

/-- Stores into a range that halted rounds hold are translated again as they leave (11 R320; log entry 46). -/
def State.bufferAgain (s : State) (pa n : Nat) : State :=
  let one (k : Kernel) : Kernel :=
    { k with buffer := k.buffer.map (BufEnt.again fun _ b => rangesMeet b.1 b.2 pa n) }
  { s with ctxs := Tab.mapVal s.ctxs fun _ c => { c with kernels := Tab.mapVal c.kernels fun _ k => one k } }

/-- FRAMESET: accesses in flight complete, translations, window segments and lines of the frames are
dropped, and the attributes change; blocks of a new codec region are all zero, and so are the frames of an
old one. -/
def execFrameset (pa count attr : Word) (s : State) : Result :=
  let a := pa.toNat
  let n := count.toNat
  let len := 4096 * n
  if s.framesetBad a n attr then .next (s.finish 1)
  else if s.storesInto a len then .next s
  else
    let cri := (attr.extractLsb' 16 16).toNat
    let keys := (s.wc.filter fun w => rangesMeet w.2.base 128 a len).map Prod.fst
    let s := (keys.foldl State.wcDrain s).settle a len
    let s := ((s.bufferAgain a len).dropSegments a len).dropLines none a len
    let s := { s with tlb := s.tlb.filter fun t => !s.tlbMaps a len t }
    let was (i : Nat) : Bool := (s.frameOf (a + 4096 * i)).codec
    let s :=
      if attr.getLsbD 3 then
        let c := Tab.getD s.codec cri {}
        s.zeroRange c.estore.toNat c.storeLen
      else ((List.range n).filter was).foldl (fun s i => s.zeroRange (a + 4096 * i) 4096) s
    let f : FrameAttr := { pol := attr.toNat % 8, codec := attr.getLsbD 3, cri := cri }
    .next (((s.setFrames a f n).wakeRange a len).finish 0)

/-! ### REPLAY and ABORT (11 R328) -/

/-- The outstanding record of an identifier. -/
def Ctx.record (c : Ctx) (fid : Nat) : Option FaultRec := c.faults.find? fun f => f.posted && f.fid = fid

/-- A stream no longer waits on a page; a kernel saved for it may be placed again (11 R329). -/
def State.streamGoes (s : State) (ctx kh key page : Nat) : State :=
  match s.kernel? ctx kh with
  | none => s
  | some k =>
    let x := k.run.stream key
    let s := s.putStream ctx kh key { x with pending := x.pending.filter (· ≠ page) }
    if k.state = .saved ∧ k.away then s.requestPass k.cluster else s

/-- A thread that waits on a record walks again. -/
def State.threadGoes (s : State) (ctx t : Nat) : State :=
  s.modThr t fun h => if h.ctx = ctx ∧ h.st = .faultWait then { h with st := .ready } else h

/-- A stream of a kernel that was saved for a page walks again: it stays on the page while a replayable fault stands
there, and posts or joins its record (11 R328, R329). -/
def State.streamWalks (s : State) (ctx kh key : Nat) (f : FaultRec) : State :=
  match s.kernel? ctx kh with
  | none => s
  | some k =>
    let acc := ((k.strm? key).map StreamDesc.acc).getD .read
    if !(k.state = .saved ∧ k.away) then s.streamGoes ctx kh key f.page
    else match s.engXlate ctx k.cluster (f.vaOf (.stream kh key)) acc (k.run.stream key).fmt with
      | .bad c v => if replayable c then s.streamFault ctx kh key v c acc else s.streamGoes ctx kh key f.page
      | .ok _ s => s.streamGoes ctx kh key f.page

/-- A waiting access walks again; engines, lanes and queues do so once no record lists them. -/
def State.replayWaiter (s : State) (ctx : Nat) (f : FaultRec) : Waiter → State
  | .host t => s.threadGoes ctx t
  | .stream kh key => s.streamWalks ctx kh key f
  | .copy _ => s
  | .lane _ => s
  | .queue _ => s

/-- An atomic message that waits on a page is dropped with its cause (08 R252); the stream's segment on the
page fails with it unless only the message waits (08 R241). -/
def State.abortStream (s : State) (ctx kh key : Nat) (f : FaultRec) : State :=
  match s.kernel? ctx kh with
  | none => s
  | some k =>
    let x := k.run.stream key
    let held := k.run.atms.find? fun m => m.key = key && m.va / 4096 = f.page
    let fills : Bool := (k.strm? key).any fun d =>
      x.fills.any fun g => (pagesOf (s.fillVas ctx d x g.word)).contains f.page
    let segment : Bool := held.isNone || fills || x.far.any fun g => g.va / 4096 = f.page
    let base : Bool := x.fmt.isNone && (k.strm? key).any fun d => d.base / 4096 = f.page
    let va := f.vaOf (.stream kh key)
    let fail : SegFail := { page := some f.page, cause := f.cause, info := va }
    let y := if base then x.failAll f.cause va else if segment then { x with fails := x.fails ++ [fail] } else x
    let s := s.putStream ctx kh key y
    match held with
    | none => s
    | some m => s.modRun ctx kh fun r =>
        { r with atms := r.atms.filter (· ≠ m) }.addEvent m.pe m.ops 0 f.cause (Word.of m.va)

/-- A stall of a lane on a page ends as not resolvable: the chunks fail, and every sub-stream stops before its next
byte; a load fails its first chunk; a counter or a status record that cannot be written is lost (20 R489 to R491; log
entry 45). -/
def State.abortLane (s : State) (ctx l page : Nat) (cause : BitVec 16) (va : Nat) : State :=
  let stalled := (s.lane l).subs.filter fun u => u.stall = some page
  let free (u : SubStream) : SubStream := if u.stall = some page then { u with stall := none } else u
  let s := s.modLane l fun x =>
    let y := stalled.foldl (fun x u => x.failChunk (u.chunk.getD 0) cause va) { x with subs := x.subs.map free }
    if stalled = [] then y else y.cycleEnd
  let x := s.lane l
  if x.stall ≠ some page then s
  else
    let y := { x with stall := none }
    if x.bound.isSome then (s.putLane l y).enterLane ctx l
    else if !x.loaded then s.putLane l (y.failChunk x.job.firstc cause va).cycleEnd
    else s.putLane l { y with stage := 2 }

/-- A kernel that an entry of a queue has taken, when the entry ends in error: one that has not started, or
has retired, is released; one that runs belongs to no entry any more. -/
def State.leaveKernel (s : State) (ctx kh : Nat) (k : Kernel) : State :=
  if k.state = .waiting ∨ k.state = .loaded ∨ k.state = .retired then s.releaseKernel ctx kh k
  else s.putKernel ctx kh { k with owner := none }

/-- A unit of a timetable is that of an entry: the key is queue + 64·(unit + 1), 0 for the entry itself. -/
def ofEntry (q idx : Nat) (o : Option (Nat × Nat)) : Bool := o.any fun o => o.1 % 64 = q && o.2 = idx

/-- What an entry of a queue has taken and not started is given back; what it has started runs on
(17 R437, R438). -/
def State.leaveUnits (s : State) (ctx q idx : Nat) : State :=
  let ks := (s.ctx ctx).kernels.filter fun e => ofEntry q idx e.2.owner
  let s := ks.foldl (fun s e => s.leaveKernel ctx e.1 e.2) s
  let eng (e : Engine) : Engine :=
    if e.own = some ctx ∧ e.held ∧ ofEntry q idx e.queue then { e with held := false, queue := none } else e
  let lane (l : Lane) : Lane :=
    if l.own = some ctx ∧ l.st = LaneSt.armed ∧ ofEntry q idx l.queue then l.idle else l
  { s with engs := Tab.mapVal s.engs fun _ e => eng e, lanes := Tab.mapVal s.lanes fun _ l => lane l }

/-- An entry of a queue ends in error (17 R437): it never completes, and the queue is in ERROR with an index in
ERRIDX. -/
def State.entryErrorAt (s : State) (ctx q err : Nat) (cause : BitVec 16) (idx at_ : Nat) (info : Word) : State :=
  let s := (s.queueError ctx q err cause at_ info).leaveUnits ctx q idx
  let x := s.queue ctx q
  s.putQueue ctx q { x with runs := x.runs.filter (·.idx ≠ idx), tables := x.tables.filter (·.idx ≠ idx) }

/-- An entry of a queue ends in error; ERRIDX names it (17 R437). -/
def State.entryError (s : State) (ctx q err : Nat) (cause : BitVec 16) (idx : Nat) (info : Word) : State :=
  s.entryErrorAt ctx q err cause idx idx info

/-- A waiting access ends with the record's cause and its own address, by the rules of its path. -/
def State.abortWaiter (s : State) (ctx : Nat) (f : FaultRec) (w : Waiter) : State :=
  let va := f.vaOf w
  match w with
  | .host t =>
    if (s.thr t).ctx = ctx ∧ (s.thr t).st = .faultWait then s.trapThr t f.cause (Word.of va) else s
  | .stream kh key => (s.abortStream ctx kh key f).streamGoes ctx kh key f.page
  | .copy e => s.abortEngine ctx e f.page f.cause va
  | .lane l => if (s.lane l).own = some ctx then s.abortLane ctx l f.page f.cause va else s
  | .queue n => s.entryError ctx (n % 64) 8 f.cause (n / 64) (Word.of va)

/-- A record is no longer outstanding. -/
def State.dropRecord (s : State) (ctx fid : Nat) : State :=
  let c := s.ctx ctx
  s.putCtx ctx { c with faults := c.faults.filter fun f => f.fid ≠ fid }

/-- REPLAY. -/
def execReplay (h : Nat) (fid : Word) (s : State) : Result :=
  let c := s.ctx h
  if !c.named then .next (s.finish 1)
  else match c.record fid.toNat with
    | none => .next (s.finish 2)
    | some f => .next ((f.waiters.foldl (fun s w => s.replayWaiter h f w) (s.dropRecord h f.fid)).finish 0)

/-- ABORT. -/
def execAbort (h : Nat) (fid : Word) (s : State) : Result :=
  let c := s.ctx h
  if !c.named then .next (s.finish 1)
  else match c.record fid.toNat with
    | none => .next (s.finish 2)
    | some f => .next ((f.waiters.foldl (fun s w => s.abortWaiter h f w) (s.dropRecord h f.fid)).finish 0)

/-! ### Events of fault records -/

/-- FAULT_TIMEOUT (11 R329): a record outstanding for 50 µs pre-empts the kernels that wait on it. -/
def execFaultTimeout (ctx fid : Nat) (s : State) : Result :=
  match (s.ctx ctx).record fid with
  | none => .next s
  | some f =>
    if s.gtc.toNat < f.gtc + 50000 then .next s
    else
      let waits (kh : Nat) (k : Kernel) : Bool :=
        (f.waiters.any fun w => match w with | .stream h _ => h = kh | _ => false)
          || k.run.streams.any fun x => x.2.pending.contains f.page
      let c := s.ctx ctx
      let ks := Tab.mapVal c.kernels fun kh k =>
        if k.state = .running ∧ waits kh k then { k with saveReq := true } else k
      .next (s.putCtx ctx { c with kernels := ks })

/-- The oldest record that waits unposted is posted, while the queue has room. -/
def State.postWaiting (s : State) (ctx : Nat) : Nat → State
  | 0 => s
  | n + 1 =>
    let c := s.ctx ctx
    match c.faults.find? fun f => !f.posted with
    | none => s
    | some f =>
      if !c.xl.faultRoom then s
      else
        let post (g : FaultRec) : FaultRec := if g.fid = f.fid then g.postedAt c.xl s.gtc.toNat else g
        let s := s.putCtx ctx { c with faults := c.faults.map post }
        (s.postRecord ctx f).postWaiting ctx n

/-- FAULT_QUEUE_SPACE (11 R327): in the context on the move, accesses that wait unposted post their
records in order as space frees. -/
def execFaultQueueSpace (s : State) : Result :=
  .next (s.postWaiting s.cur.ctx (s.ctx s.cur.ctx).faults.length)

end Sys2Proof.Machine
end

