-- ==== Sys2Proof/Machine/Context.lean ====
section
/-! DEFINITION. Contexts (16 R401 to R419): loading (11 R313, 14 R381, 17 R431), START, SAVE with its image
(R407 to R415), RESTORE (R416, R417), KILL (R418, R419), and the saving and restoring of every context that
a firmware switch (17 R442) and a thermal emergency (19 R473, R474) ask for. -/
namespace Sys2Proof.Machine

/-! ### The context object (16 R401) -/

/-- A context object. -/
def parseObj (r : List Byte) : CtxObj :=
  { prio := field r 6 1, maxcores := field r 8 2, threads := BitVec.ofNat 128 (field r 0x10 16),
    xlate := field r 0x20 8, fmttab := field r 0x28 8, grptab := field r 0x30 8, pubtab := field r 0x38 8,
    qtab := field r 0x40 8, savebase := field r 0x48 8, savelen := field r 0x50 8, entry := fieldW r 0x58,
    arg := fieldW r 0x60 }

/-- The fields of an object are valid. -/
def objOk (r : List Byte) : Bool :=
  let o := parseObj r
  field r 0 4 == 0x58544E43 && field r 4 2 == 1 && zeroBytes r 7 8 && zeroBytes r 0xA 0x10
    && zeroBytes r 0x68 0x80 && o.prio ≤ 7 && 1 ≤ o.maxcores && o.maxcores ≤ 1024 && o.threads != 0#128
    && [o.xlate, o.fmttab, o.grptab, o.pubtab, o.qtab, o.savebase].all (· < 2 ^ 52)
    && o.xlate % 64 = 0 && o.fmttab % 2048 = 0 && o.savebase % 4096 = 0 && o.savelen % 4096 = 0
    && 2 ^ 22 * o.maxcores + 65536 * (threadsOf o.threads).length + 2 ^ 20 ≤ o.savelen

/-- Another context holds one of some threads. -/
def State.threadsTaken (s : State) (h : Nat) (m : BitVec 128) : Bool :=
  s.ctxs.any fun c => c.1 ≠ h && c.2.named && c.2.obj.threads &&& m != 0#128

/-- The object at a physical address, if it is valid. -/
def State.readObj (s : State) (h a : Nat) : Option CtxObj :=
  let r := (List.range 128).map fun i => s.peekByte (a + i)
  if regionOf a = 0 ∧ a % 64 = 0 ∧ a + 128 ≤ s.hbmSize ∧ (s.readError a 128).isNone ∧ objOk r
      ∧ !s.threadsTaken h (parseObj r).threads then some (parseObj r) else none

/-! ### CREATE and loading -/

/-- The ASID of a slot: no two slots share one (11 R313; log entry 47). -/
def asidOf (h : Nat) : Nat := (Config.asidBase + h) % 2 ^ 16

/-- CREATE (16 R404, R405): the slot loads. -/
def execCreate (h : Nat) (obj : Word) (s : State) : Result :=
  let c := s.ctx h
  if h ≥ 64 ∨ c.named then .next (s.finish 1)
  else match s.readObj h obj.toNat with
    | none => .next (s.finish 1)
    | some o =>
      let x : XlBlock := { base := o.xlate, asid := asidOf h }
      let n : Ctx := { st := .loading, obj := o, serial := c.serial, gen := c.gen, xl := x }
      let s := s.putCtx h { n with wasReleased := c.st = .released }
      .next ((s.sysPoke (o.xlate + 8) 2 x.asid).startBusy 0x10 h)

/-- A group entry as memory holds it (14 R380): FLAGS, its members, and whether its reserved fields allow
it to be filled. -/
def State.readGroup (s : State) (a : Nat) : Nat × Group × Bool :=
  let rd (o n : Nat) : Nat := s.sysPeek (a + o) n
  let npkg := rd 0x14 4
  let ptr := rd 0x18 8
  let rec_ (i : Nat) : Word × Nat := (Word.of (s.sysPeek (ptr + 16 * i) 8), s.sysPeek (ptr + 16 * i + 8) 1)
  let clean (i : Nat) : Bool := s.sysPeek (ptr + 16 * i + 9) 7 = 0 && (rec_ i).1.extractLsb' 17 31 == 0#31
  let ok : Bool := rd 0x11 1 < 2 && rd 0x32 14 = 0 && npkg < 2 ^ 20 && ptr % 16 = 0
    && (List.range npkg).all clean && (List.range npkg).all fun i => (rec_ i).1 ≠ s.pkgid
  let g : Group := { st := .filled, threads := BitVec.ofNat 128 (rd 0x20 16) }
  (rd 0x11 1, { g with remotes := if npkg < 2 ^ 20 then (List.range npkg).map rec_ else [] }, ok)

/-- The group table filled (14 R381, R382). -/
def State.fillGroups (s : State) (ctx : Nat) : State :=
  let base := (s.ctx ctx).obj.grptab
  let es := (List.range 256).filterMap fun i =>
    let e := s.readGroup (base + 64 * i)
    if e.1 % 2 = 1 then some (i, e.2) else none
  let crowded (t : Nat) : Bool := (es.filter fun e => e.2.1.threads.getLsbD t).length > 4
  es.foldl (fun s e =>
    let good : Bool := e.2.2 && !(threadsOf e.2.1.threads).any crowded
    s.putGroup ctx e.1 (if good then e.2.1 else {})) s

/-- The lowest free package queue number (17 R431). -/
def State.freePqn (s : State) : Option Nat := (List.range 1024).find? fun n => (s.queueOf n).isNone

/-- Queues with V set receive their numbers (17 R431). -/
def State.numberQueues (s : State) (ctx : Nat) : State :=
  (List.range 64).foldl (fun s i =>
    if s.peek ((s.ctx ctx).obj.qtab + 64 * i + 0xA) 1 % 2 = 1 then
      let n := s.freePqn
      let tsub : Bool := s.peek ((s.ctx ctx).obj.qtab + 64 * i + 0xA) 1 / 2 % 2 = 1
      s.putQueue ctx i { pqn := n, err := if n.isSome then 0 else 9, tsub := tsub }
    else s) s

/-- CONTEXT_LOADED (16 R405): the context on the move is READY once its tables are taken in; an invalid
translation block gives the slot back (11 R313). -/
def execContextLoaded (s : State) : Result :=
  let h := s.cur.ctx
  let c := s.ctx h
  if c.st ≠ .loading then .next s
  else
    let x := s.readXlate c.obj.xlate c.xl
    if !x.ok then
      let old : Ctx := { st := if c.wasReleased then .released else .empty, serial := c.serial, gen := c.gen }
      .next ((s.putCtx h old).completeBusy h 0x10 1)
    else
      let s := s.putCtx h { c with st := .ready, serial := 0, xl := x }
      let s := ((s.sysPoke (x.base + 0x38) 4 0).sysPoke (x.base + 0x40) 8 0).sysPoke (x.base + 0x50) 8 0
      .next ((((s.fillGroups h).takeEps h).numberQueues h).completeBusy h 0x10 0)

/-! ### START (16 R405) -/

/-- A thread at its start: pc, a0 and a1, everything else at reset. -/
def startThread (h t : Nat) (o : CtxObj) : Thr :=
  (({ st := .ready, ctx := h, pc := o.entry } : Thr).setReg 10 (Word.of t)).setReg 11 o.arg

/-- START. -/
def execStart (h : Nat) (s : State) : Result :=
  let c := s.ctx h
  if c.st ≠ .ready then .next (s.finish 1)
  else
    let s := s.putCtx h { c with st := .running }
    let s := (threadsOf c.obj.threads).foldl (fun s t => s.putThr t (startThread h t c.obj)) s
    .next (s.finish 0)

/-! ### The bytes of an image (16 R411 to R415) -/

/-- WAIT of a thread (16 R415). -/
def ThrSt.waitCode : ThrSt → Nat
  | .krdv _ => 1 | .cwait => 2 | .bwait => 3 | .mwait => 4 | .faultWait => 5 | _ => 0

/-- A pending entry (16 R422). -/
def AsyncCause.bytes (c : AsyncCause) : List Nat :=
  bytesOf c.cause.toNat 2 ++ [if c.kt then 1 else 0] ++ List.replicate 5 0 ++ bytesOf c.info.toNat 8

/-- The payload of a thread block (16 R415). -/
def Thr.block (t : Thr) : List Nat :=
  let word (v : Word) : List Nat := bytesOf v.toNat 8
  let tok := t.token.getD (0, 0)
  let w := t.watch
  let pend := ((t.pend ++ t.inbox).take 4).flatMap AsyncCause.bytes
  ((List.range 31).flatMap fun i => word (nth t.x.toList (i + 1) 0#64)) ++ word t.pc
    ++ (t.f.toList.flatMap word) ++ bytesOf t.fcsr.toNat 8
    ++ [t.htvec, t.hcause, t.hepc, t.htval, t.kctl, t.scsel, t.aesel, t.esel].flatMap word
    ++ word tok.1 ++ bytesOf tok.2.toNat 8
    ++ bytesOf w.va 8 ++ word w.cmp ++ bytesOf (w.cond.toNat + if w.armed then 8 else 0) 8
    ++ pend ++ List.replicate (64 - pend.length) 0 ++ bytesOf t.st.waitCode 8 ++ List.replicate 3336 0

/-- Bytes cut into the payloads of blocks, the last filled up with zeros. -/
def payloads (b : List Nat) : Nat → List (List Nat)
  | 0 => []
  | n + 1 =>
    let p := b.take blockPayload
    (p ++ List.replicate (blockPayload - p.length) 0) :: payloads (b.drop blockPayload) n

/-- The payloads of a section. -/
def sectionBlocks (b : List Nat) : List (List Nat) := payloads b ((b.length + blockPayload - 1) / blockPayload)

/-! ### SAVE (16 R405, R407) -/

/-- A RUNNING context enters FROZEN. -/
def State.freezeCtx (s : State) (h : Nat) : State :=
  let s := s.haltUnits h
  s.putCtx h { s.ctx h with st := .frozen }

/-- SAVE. -/
def execSave (h : Nat) (s : State) : Result :=
  if (s.ctx h).st ≠ .running then .next (s.finish 1) else .next ((s.freezeCtx h).startBusy 0x12 h)

/-- Every unit of a context has halted: kernels, engines with what they sent, threads that await an
acknowledgement. -/
def State.quietCtx (s : State) (h : Nat) : Bool :=
  ((s.ctx h).kernels.all fun e => !e.2.moves)
    && (s.engs.all fun e => e.2.own ≠ some h || e.2.active.isNone)
    && (s.msgs.all fun m => m.sctx ≠ h || m.src ≠ s.pkgid || match m.sender with | .engine _ => false | _ => true)
    && s.thrs.all fun t => t.2.ctx ≠ h || t.2.st ≠ .sigst

/-- Arrivals on their way are counted in the set that is saved (07 R217, 15 R396). -/
def Kernel.takeArrivals (k : Kernel) : Kernel :=
  { k.arrivals.foldl (fun k a => k.putBar a.bar (barArrive (k.bar a.bar) true)) k with arrivals := [] }

/-- A kernel as its context's image holds it, off its region: a halted one is SAVED, and a LOADED or RETIRED one, for
which 05 R133 lists no save, keeps its state. -/
def State.packKernel (s : State) (k : Kernel) : Kernel :=
  let k := { k with armed := false }
  let off (k : Kernel) : Kernel := { k.endFolds.takeArrivals with away := true, spads := s.spads k }
  match k.state with
  | .saved => if k.away then k else off k
  | .stopped => off { k with state := .saved, savedFrom := .stopped }
  | .frozen => off { k with state := .saved, savedFrom := .frozen }
  | .retired | .loaded => off k
  | .waiting | .running | .moving => k

/-- A unit of a timetable that has not started is no longer armed; a lane stays ARMED at a save (20 R493). -/
def Queue.disarm (q : Queue) : Queue :=
  let one (u : TtUnit) : TtUnit := if u.started ∨ u.kind = 3 then u else { u with armed := none }
  { q with tables := q.tables.map fun t => { t with units := t.units.map one } }

/-- A thread off the host core: a line that is awaited is asked for again, a lease is suspended. -/
def Thr.pack (t : Thr) : Thr :=
  let st : ThrSt := match t.st with
    | .miss _ _ => .ready | .budget => .ready | .kfork _ => .ready | x => x
  { t with st := st, lease := none }

/-- An engine, lane or core given back: what stays is the serial and the context that last held it. -/
def Engine.giveBack (e : Engine) (h : Nat) : Engine := { last := some h, serial := e.serial }

/-- The leases of a context's threads: thread, level and the GTC ticks left (19 R472). -/
def State.leasesOf (s : State) (h : Nat) : List (Nat × Nat × Nat) :=
  s.thrs.filterMap fun t => if t.2.ctx = h then t.2.lease.map fun l => (t.1, l.1, l.2 - s.gtc.toNat) else none

/-- The clusters in which a context has kernels. -/
def Ctx.clusters (c : Ctx) : List Nat := (c.kernels.map fun e => e.2.cluster).eraseDups

/-- Allocator passes in some clusters. -/
def State.requestPasses (s : State) (clus : List Nat) : State := clus.foldl State.requestPass s

/-- The units of a context leave the chip (16 R405, R414). -/
def State.packCtx (s : State) (h : Nat) : State :=
  let s := (s.ctx h).kernels.foldl (fun s e => if e.2.state = .waiting ∨ e.2.away then s else s.arriveRegion e.2) s
  let c := s.ctx h
  let engines := Tab.mapVal (s.engs.filter fun e => e.2.own = some h) fun _ e => { e with held := false }
  let img : Image := { leases := s.leasesOf h, engines := engines }
  let ks := Tab.mapVal c.kernels fun _ k => s.packKernel k
  let d := { c with st := .saved, serial := c.serial + 1, kernels := ks, image := some img }
  let s := s.putCtx h { d with queues := Tab.mapVal c.queues fun _ q => q.disarm }
  let engs := Tab.mapVal s.engs fun _ e => if e.own = some h then e.giveBack h else e
  let mine (t : Nat) : Bool := (s.thr t).ctx = h
  let thrs := Tab.mapVal s.thrs fun t x => if mine t then x.pack else x
  { s with engs := engs, thrs := thrs, resvs := s.resvs.filter (fun r => !mine r.1),
           tlb := s.tlb.filter fun t => t.asid ≠ c.xl.asid }

/-! ### The image (16 R413, R414) -/

/-- The bytes of the SCRATCH section: the scratchpads of a kernel off its region, 2 MiB per core (16 R414). -/
def Kernel.spadBytes (k : Kernel) : List Nat :=
  if !k.away then []
  else k.spads.flatMap fun cells => (List.range (2 ^ 21)).map fun o => (Memory.read cells o).toNat

/-- The energy registers of a context in package core order, 8 bytes each (19 R475). -/
def Ctx.energyBytes (c : Ctx) : List Nat :=
  (List.range 1024).flatMap fun core => bytesOf (Tab.getD c.energy core 0).toNat 8

/-- The eight sections in the order of the directory (16 R414); the energy registers stand last in CONTEXT (log entry
48). -/
def State.sections (s : State) (h : Nat) : List (List (List Nat)) :=
  let c := (s.packCtx h).ctx h
  let lanes := s.lanes.filter fun l => l.2.own = some h
  let recs := c.kernels.flatMap fun e => e.2.records
  let kept (n : Nat) : List Nat := (Config.saveSection n c lanes recs).map BitVec.toNat
  let free (n : Nat) : List (List Nat) := sectionBlocks (kept n)
  let thrs := (threadsOf c.obj.threads).map fun t => (s.thr t).block
  let bars := sectionBlocks (c.kernels.flatMap fun e => e.2.barBytes)
  let spads := sectionBlocks (c.kernels.flatMap fun e => e.2.spadBytes)
  [sectionBlocks (kept 0 ++ c.energyBytes), thrs, free 2, bars, free 4, free 5, spads, free 7]

/-- The entries of SECT: first block and number of blocks of each section. -/
def sectEntries (first : Nat) : List (List (List Nat)) → List Nat
  | [] => []
  | b :: t => bytesOf (if b = [] then 0 else first) 4 ++ bytesOf b.length 4 ++ sectEntries (first + b.length) t

/-- The payloads of every block of an image, block 0 first. -/
def State.image (s : State) (h : Nat) : List (List Nat) :=
  let secs := s.sections h
  let blocks := secs.flatten
  let dir := bytesOf 0x45564153 4 ++ bytesOf 1 2 ++ bytesOf 0 2 ++ bytesOf (blocks.length + 1) 8 ++ sectEntries 1 secs
  (dir ++ List.replicate (blockPayload - dir.length) 0) :: blocks

/-- The bytes that the tag of a block covers. -/
def tagged (payload : List Nat) (serial block h : Nat) : List Nat :=
  payload ++ bytesOf serial 8 ++ bytesOf block 4 ++ bytesOf h 4 ++ List.replicate 16 0

/-- The tag of a block (16 R413). -/
def State.tag (s : State) (b : List Nat) : Nat := (Config.kmac256 s.saveKey (b.map (BitVec.ofNat 8))).toNat

/-- The image written to the save area under a serial (16 R413). -/
def State.writeImage (s : State) (h serial : Nat) : State :=
  let base := (s.ctx h).obj.savebase
  let img := s.image h
  (List.range img.length).foldl (fun s i =>
    let b := tagged (nth img i []) serial i h
    s.poke (base + 4096 * i) (b ++ bytesOf (s.tag b) 32) (List.replicate 4096 1)) s

/-! ### Saving and restoring every context (17 R442, 19 R474) -/

/-- Contexts of a saving in order: PRIO, then handle. -/
def State.autoOrder (s : State) (thermal : Bool) : List Nat :=
  let hs := (s.ctxs.filter fun c => c.2.auto = some thermal).map Prod.fst
  (List.range 8).flatMap fun p => hs.filter fun h => (s.ctx h).obj.prio = p

/-- The text of a firmware part: its bytes in a slot's image. -/
def fwPart (img : List Byte) (i : Nat) : List Byte :=
  (img.drop (field img (0x18 + 8 * i) 4)).take (field img (0x1C + 8 * i) 4)

/-- The 64 bytes of a measurement. -/
def measBytes (m : BitVec 512) : List Byte := (bytesOf m.toNat 64).map (BitVec.ofNat 8)

/-- A measurement register extended with an item (01 R39). -/
def State.extend (s : State) (i : Nat) (item : List Byte) : State :=
  let m := Config.shake256 (measBytes (nth s.meas i 0) ++ measBytes (Config.shake256 item))
  { s with meas := s.meas.set i m }

/-- The image of a slot. -/
def Fw.image (f : Fw) (slotB : Bool) : List Byte := nth f.images (if slotB then 1 else 0) []

/-- The global scheduler and the leaves start from a slot (17 R442). -/
def State.startFw (s : State) (slotB : Bool) : State :=
  (s.extend 1 (fwPart (s.fw.image slotB) 0)).extend 2 (fwPart (s.fw.image slotB) 1)

/-- 30 s of GTC. -/
def trialTime : Nat := 30000000000

/-- Behind the last context of a restoring the emergency ends, or the old firmware has restored what the switch saved.
-/
def State.afterRestores (s : State) (thermal : Bool) : State :=
  let s := { s with ctxs := Tab.mapVal s.ctxs fun _ c => if c.auto = some thermal then { c with auto := none } else c }
  if thermal then { s with pow := { s.pow with hold := false, releasing := false } }
  else if s.fw.reverting then ({ s with fw := { s.fw with reverting := false } }).completeBusy 0 0x31 3
  else s

/-! ### RESTORE (16 R416) -/

/-- A block of a save area passes its checks. -/
def State.blockOk (s : State) (h i : Nat) : Bool :=
  let c := s.ctx h
  let a := c.obj.savebase + 4096 * i
  let rd (o n : Nat) : Nat := s.peek (a + o) n
  let b := (List.range 0xFE0).map fun j => (s.peekByte (a + j)).toNat
  (s.readError a 4096).isNone && rd 0xFC0 8 = c.serial && rd 0xFC8 4 = i && rd 0xFCC 4 = h
    && rd 0xFE0 32 = s.tag b

/-- The first block of an image that fails: block 0, then those up to NBLK. -/
def State.badBlock (s : State) (h : Nat) : Option Nat :=
  if !s.blockOk h 0 then some 0
  else (List.range (s.peek ((s.ctx h).obj.savebase + 8) 8)).find? fun i => !s.blockOk h i

/-- A restore begins: every block is verified, and the first that fails ends it. -/
def State.beginRestore (s : State) (h : Nat) : State :=
  let c := s.ctx h
  match s.badBlock h with
  | none => s.putCtx h { c with st := .restoring, cause := 0, cinfo := 0 }
  | some b =>
    let d := { c with st := .faulted, cause := 0x0A02#16, cinfo := Word.of b, nest := false }
    (s.putCtx h { d with orig := 0, thr := 0, auto := none }).fatal h (c.groups.map Prod.fst) 0x0A02#16

/-- RESTORE. -/
def execRestore (h : Nat) (s : State) : Result :=
  let c := s.ctx h
  if c.st ≠ .saved ∧ !(c.st = .faulted ∧ c.cause = 0x0A02#16) then .next (s.finish 1)
  else
    let s := s.beginRestore h
    .next (if (s.ctx h).st = .restoring then s.startBusy 0x13 h else s.finish 0)

/-- The contexts of an order restored, one after another: a restore that fails goes to FAULTED, and the next
begins. -/
def State.restoreList (s : State) (thermal : Bool) : List Nat → State
  | [] => s.afterRestores thermal
  | h :: t =>
    match (s.ctx h).st with
    | .restoring => s
    | .saved =>
      let s := s.beginRestore h
      if (s.ctx h).st = .restoring then s else s.restoreList thermal t
    | _ => s.restoreList thermal t

/-- The next context of a switch or of the release mark is restored; a switch waits while an emergency
lasts, and goes on behind it. -/
def State.restoreNext (s : State) (thermal : Bool) : State :=
  if !thermal ∧ s.pow.hold then s
  else
    let t := s.restoreList thermal (s.autoOrder thermal)
    if thermal ∧ !t.pow.hold ∧ (t.fw.trial ∨ t.fw.reverting) then t.restoreList false (t.autoOrder false) else t

/-- What follows the last save: the new firmware runs on trial and restores the contexts (17 R442), or power
is removed (19 R474). -/
def State.afterSaves (s : State) (thermal : Bool) : State :=
  if thermal then { s with pow := { s.pow with cut := true, releasing := false } }
  else
    let s := s.startFw (!s.fw.active)
    let fw := { s.fw with trial := true, deadline := some (s.gtc.toNat + trialTime) }
    ({ s with fw := fw }).restoreNext false

/-- The next context of a saving freezes, behind every save that is under way and every restore of an earlier release;
in an emergency each thread that held a lease has 0x0902 queued (19 R474). -/
def State.saveNext (s : State) (thermal : Bool) : State :=
  let hs := s.autoOrder thermal
  if s.ctxs.any (fun c => c.2.st = .frozen) ∨ (thermal ∧ hs.any fun h => (s.ctx h).st = .restoring) then s
  else match hs.find? fun h => (s.ctx h).st = .running with
    | none => s.afterSaves thermal
    | some h =>
      let c := s.ctx h
      let s := s.freezeCtx h
      if thermal then c.stops.foldl (fun s t => s.post t ⟨0x0902#16, false, s.pow.tjmax.setWidth 64⟩) s else s

/-- SAVE_COMPLETE (16 R405): every unit of the context on the move has halted and its image is written. -/
def execSaveComplete (s : State) : Result :=
  let h := s.cur.ctx
  let c := s.ctx h
  if c.st ≠ .frozen ∨ !s.quietCtx h then .next s
  else
    let s := s.flushCtx h
    let s := ((s.writeImage h (c.serial + 1)).packCtx h).requestPasses c.clusters
    let s := s.completeBusy h 0x12 0
    let s := match c.auto with
      | some b => s.saveNext b
      | none => s
    .next (if s.pow.hold ∧ !s.pow.cut ∧ !s.pow.releasing then s.saveNext true else s)

/-! ### The commit of a restore (16 R417) -/

/-- Engines for those of an image, as the numbers before and now: each its own where that is free, or else the lowest
free one of the cluster (16 R416; log entry 12); none while one finds no place. -/
def State.engineHomes (s : State) (h : Nat) (taken : List Nat) : List Nat → Option (List (Nat × Nat))
  | [] => some []
  | e :: t =>
    let open_ (n : Nat) : Bool :=
      ((s.eng n).own.isNone || ((s.eng n).own = some h && (s.eng n).st = .free)) && !s.engineOff n && !taken.contains n
    match (e :: (List.range 16).map (16 * (e / 16) + ·)).find? open_ with
    | none => none
    | some n => (s.engineHomes h (n :: taken) t).map ((e, n) :: ·)

/-- What a restored engine becomes where it stands now: a launch keeps the number in its handle. -/
def Engine.moved (e : Engine) (old new : Nat) : Engine :=
  if old = new ∨ e.st = .free then e else { e with name := some (e.name.getD (old % 16)) }

/-- A timetable's unit whose engine is another now. -/
def TtUnit.moved (m : Nat → Nat) (u : TtUnit) : TtUnit := if u.kind = 2 then { u with armed := u.armed.map m } else u

/-- What a dispatched entry waits for where engines are others now. -/
def QWork.moved (m : Nat → Nat) : QWork → QWork
  | .engine e => .engine (m e)
  | w => w

/-- A queue whose engines are others now. -/
def Queue.moved (m : Nat → Nat) (q : Queue) : Queue :=
  { q with runs := q.runs.map fun r => { r with work := r.work.moved m },
           tables := q.tables.map fun t => { t with units := t.units.map (TtUnit.moved m) } }

/-- A record whose waiting engines are others now. -/
def FaultRec.moved (m : Nat → Nat) (f : FaultRec) : FaultRec :=
  let one : Waiter → Waiter
    | .copy e => .copy (m e)
    | w => w
  { f with waiters := f.waiters.map one, own := f.own.map fun o => (one o.1, o.2) }

/-- A context whose engines are others now: its kernels, queues, records and snapshots name those (log entry 12). -/
def Ctx.moved (m : Nat → Nat) (c : Ctx) : Ctx :=
  { c with kernels := Tab.mapVal c.kernels (fun _ k => { k with engines := k.engines.map m }),
           queues := Tab.mapVal c.queues (fun _ q => q.moved m), faults := c.faults.map (FaultRec.moved m),
           snaps := Tab.mapVal c.snaps (fun _ es => es.map fun e => (m e.1, e.2.moved e.1 (m e.1))),
           froze := c.froze.map m }

/-- The kernels of a context that come back with it. -/
def State.comeBack (s : State) (h : Nat) : List (Nat × Nat × Kernel) :=
  ((s.ctx h).kernels.filterMap fun e =>
    if e.2.away ∧ !e.2.alone then some (h, e.1, e.2) else none).foldr insertRequest []

/-- A thread as it resumes: one in a wait executes its instruction afresh. -/
def Thr.unpack (t : Thr) : Thr :=
  match t.st with
  | .off => t
  | .stopped => t
  | _ => { t with st := .ready }

/-- A suspended lease is requested again (19 R472). -/
def State.relet (s : State) (l : Nat × Nat × Nat) : State :=
  let (t, level, left) := l
  let d := (left + 999) / 1000
  if (s.leaseWhy d level).isSome then s.post t (leaseEnd level)
  else s.modThr t fun x => { x with lease := some (level, s.gtc.toNat + min left (1000 * s.pow.lmax.toNat)) }

/-- The context as it stands on the chip: engines, regions, threads, lanes and leases; none while a unit that
it needs is not free. -/
def State.unpackCtx (s : State) (h : Nat) (img : Image) : Option State :=
  match s.engineHomes h [] (img.engines.map Prod.fst) with
  | none => none
  | some homes =>
    let m (e : Nat) : Nat := (homes.lookup e).getD e
    let s := img.engines.foldl (fun s e => s.putEng (m e.1) (e.2.moved e.1 (m e.1))) s
    let s := s.putCtx h ((s.ctx h).moved m)
    let (s, left) := s.placeAll [] false (s.comeBack h)
    if left ∨ (List.range 8).any fun k => s.controllers k > 16 then none
    else
      let c := s.ctx h
      let engs := Tab.mapVal s.engs fun i e => if c.froze.contains i then e.goOn else e
      let thrs := Tab.mapVal s.thrs fun _ t => if t.ctx = h then t.unpack else t
      let lanes := Tab.mapVal s.lanes fun _ l =>
        if l.own = some h ∧ l.st = LaneSt.stopped then { l with st := .running } else l
      let s := s.putCtx h { c with st := .running, image := none, froze := [], stops := [] }
      some (img.leases.foldl State.relet { s with engs := engs, thrs := thrs, lanes := lanes })

/-- RESTORE_COMMIT (16 R416, R417): every block of the context on the move has verified. Where the critical mark is
reached again behind a release, the context is saved once more (19 R474). -/
def execRestoreCommit (s : State) : Result :=
  let h := s.cur.ctx
  let c := s.ctx h
  if c.st ≠ .restoring ∨ (s.pow.hold ∧ c.auto ≠ some true) then .next s
  else match s.unpackCtx h (c.image.getD {}) with
    | none => .next s
    | some s =>
      let s := (s.requestPasses c.clusters).completeBusy h 0x13 0
      .next (match c.auto with
        | some b =>
          if b ∧ s.pow.hold ∧ !s.pow.releasing then s.saveNext true
          else (s.putCtx h { s.ctx h with auto := none }).restoreNext b
        | none => s)

/-! ### KILL (16 R418, R419) -/

/-- A thread of a killed context: it issues no more; a wait on a barrier, a watch or a counter ends with a
cause that only its block records. -/
def Thr.killed (t : Thr) : Thr :=
  let waits : Bool := t.st = .bwait || t.st = .mwait || t.st = .cwait || (t.st = .ready && t.again)
  if t.st = .off then t
  else { t with st := .stopped, lease := none,
                inbox := if waits then t.inbox ++ [⟨0x0A04#16, false, 0⟩] else t.inbox }

/-- KILL. -/
def execKill (h : Nat) (s : State) : Result :=
  let c := s.ctx h
  if !c.named ∨ c.st = .killing then .next (s.finish 1)
  else
    let thrs := Tab.mapVal s.thrs fun _ t => if t.ctx = h then t.killed else t
    let d := { c with st := .killing, gen := c.gen + 1, acks := [0, 1, 2, 3, 4], nest := false }
    let s := ({ s with thrs := thrs }).putCtx h { d with orig := 0, thr := 0, cause := 0, cinfo := 0, auto := none }
    .next (s.startBusy 0x14 h)

/-- Requests of a killed context that an arbiter still holds are dropped: the combined writes of each, the posted
operations of the pool banks (1) and of the codecs (2), and the messages of Vetar egress (4). -/
def State.dropPending (s : State) (h n : Nat) : State :=
  let mine (b : BankOp) : Bool := b.src / 2 ^ 16 = h
  let own (k : Nat) : Bool := if k < 128 then (s.thr k).ctx = h else (s.eng (k - 128)).own = some h
  let s := { s with wc := s.wc.filter fun w => !(own w.1 && (arbitersOf w.2.base).contains n) }
  if n = 1 then { s with banks := s.banks.filter fun b => !(mine b && b.kind ≠ .merge) }
  else if n = 2 then { s with banks := s.banks.filter fun b => !(mine b && b.kind = .merge) }
  else if n = 4 then { s with msgs := s.msgs.filter fun m => m.src ≠ s.pkgid || m.sctx ≠ h }
  else s

/-- Every resource of a killed context comes back, its cores zeroed, its groups FREE and its queues DISABLED
(16 R418). -/
def State.releaseCtx (s : State) (h : Nat) : State :=
  let c := s.ctx h
  let s := c.groups.foldl (fun s g => s.putGroup h g.1 {}) s
  let s := c.queues.foldl (fun s q => s.putQueue h q.1 { q.2 with
    st := .disabled, kick := q.2.cons, pqn := none, runs := [], tables := [], err := 0, errcause := 0, errinfo := 0, head := none }) s
  let placed := c.kernels.filter fun e => e.2.state ≠ .waiting && !e.2.away
  let s := placed.foldl (fun s e => (List.range e.2.desc.cores).foldl (fun s n => s.clearSpm (e.2.spm n)) s) s
  let engs := Tab.mapVal s.engs fun _ e => if e.own = some h then e.giveBack h else e
  let lanes := Tab.mapVal s.lanes fun _ l => if l.own = some h then ({ serial := l.serial } : Lane) else l
  let mine (t : Nat) : Bool := (s.thr t).ctx = h && (s.thr t).st ≠ .off
  let thrs := Tab.mapVal s.thrs fun t x => if mine t then {} else x
  let s := { s with engs := engs, lanes := lanes, thrs := thrs, resvs := s.resvs.filter fun r => !mine r.1 }
  let s := { s with tlb := s.tlb.filter (fun t => t.asid ≠ c.xl.asid), steps := s.steps.filter fun e => e.2 ≠ h }
  let s := { s with counts := s.counts.filter fun e => e.1 / 2 ^ 40 ≠ h }
  let clus := Tab.mapVal s.clus fun _ k => { k with lastCtx := k.lastCtx.filter fun e => e.2 ≠ h }
  let s := { s with clus := clus, stepLast := s.stepLast.filter fun e => e.2 ≠ h }
  s.putCtx h { st := .released, serial := c.serial, gen := c.gen, energy := c.energy }

/-- ARBITER_ACK (16 R418): an arbiter holds no request of the old generation; with the last, the context is
RELEASED. -/
def execArbiterAck (h n : Nat) (s : State) : Result :=
  let c := s.ctx h
  if c.st ≠ .killing ∨ n ∉ c.acks then .next s
  else
    let left := c.acks.filter (· ≠ n)
    let s := (s.dropPending h n).putCtx h { c with acks := left }
    .next (if left = [] then ((s.releaseCtx h).requestPasses c.clusters).completeBusy h 0x14 0 else s)

/-! ### The thermal emergency (19 R473, R474) -/

/-- The critical mark is reached. -/
def State.critical (s : State) (tj : Byte) : Bool :=
  !tj.ult s.limits.tcrit || (s.pow.melt = 0xFFFF#16 && (s.pow.tjBefore s.gtc.toNat).ult tj)

/-- What the device does at the critical mark (19 R474): no new work is accepted, the store is LOCKED, every lease ends,
and every RUNNING context is saved; a context that a release mark has not yet restored stays saved. -/
def State.emergency (s : State) : State :=
  if s.pow.hold ∧ !s.pow.releasing then s
  else
    let holders (h : Nat) : List Nat :=
      (s.thrs.filter fun t => t.2.ctx = h && t.2.lease.isSome).map Prod.fst
    let mark (h : Nat) (c : Ctx) : Ctx :=
      if c.st = .running then { c with auto := some true, stops := holders h } else c
    let s := ({ s with ctxs := Tab.mapVal s.ctxs mark }).endLeases false
    let s := { s with pow := { s.pow with hold := true, releasing := false, store := .locked } }
    s.saveNext true

/-- THERMAL_CRITICAL: TJMAX takes the value, and the critical mark may be reached. -/
def execThermalCritical (tj : Byte) (s : State) : Result :=
  if s.boot = .recovery then .next s
  else
    let t := { s with pow := s.pow.sample s.gtc.toNat tj }
    .next (if s.critical tj then t.emergency else t)

/-- MELT_SENSOR_FAULT: in every state but LOCKED the store acts as at the critical mark (19 R467, R474; log entry 17).
-/
def execMeltSensorFault (s : State) : Result :=
  if s.boot = .recovery then .next s
  else
    let t := { s with pow := { s.pow with sensorOk := false } }
    .next (if s.pow.store = .locked then t else { t with pow := { t.pow with store := .locked } }.emergency)

/-- The release mark is reached. -/
def State.released (s : State) (tj : Byte) : Bool := !s.limits.trel.ult tj && s.pow.melt.toNat ≤ 0x4000

/-- The store behind the release mark (19 R467). -/
def StoreSt.unlock (m : Nat) (working : Bool) : StoreSt → StoreSt
  | .locked => if !working then .locked else if m > 0x4000 then .refreeze else if m = 0 then .solid else .melting
  | x => x

/-- THERMAL_RELEASE: TJMAX takes the value; at the release mark the store leaves LOCKED, power is restored, and the
contexts of the emergency are restored in the order in which they were saved. -/
def execThermalRelease (tj : Byte) (s : State) : Result :=
  let t := { s with pow := s.pow.sample s.gtc.toNat tj }
  if s.boot = .recovery then .next s
  else if !s.released tj ∨ (s.pow.hold ∧ !s.pow.cut) then .next t
  else
    let p := { t.pow with store := s.pow.store.unlock s.pow.melt.toNat s.pow.sensorOk }
    if s.pow.hold then .next ({ t with pow := { p with cut := false, releasing := true } }.restoreNext true)
    else .next { t with pow := p }

end Sys2Proof.Machine
end

