-- ==== Sys2Proof/Machine/Resource.lean ====
section
/-! DEFINITION. ASSIGN and RECLAIM (17 R430, 16 R402), and the commands of firmware update: FWLOAD, FWSWITCH,
the end of a trial and its watchdog (17 R440 to R442). -/
namespace Sys2Proof.Machine

/-! ### Resources (17 R430) -/

/-- The states in which a context may be given resources. -/
def CtxSt.takes (x : CtxSt) : Bool := 1 ≤ x.code && x.code ≤ 7

/-- Numbers from one up. -/
def unitsFrom (first count : Nat) : List Nat := (List.range count).map (first + ·)

/-- The address of a step of the explicit pool, by 12·die + step (13 R357). -/
def stepAddr (i : Nat) : Nat := poolBase + i / 12 * 2 ^ 28 + i % 12 * 2 ^ 24

/-- The free steps of a die, the lowest-numbered first. -/
def State.freeSteps (s : State) (die : Nat) : List Nat :=
  (List.range 12).filter fun i => (Tab.get? s.steps (12 * die + i)).isNone

/-- A mask of some numbers. -/
def maskNat (is : List Nat) : Nat := is.foldl (fun m i => m ||| 2 ^ i) 0

/-- A step given to a context: what another context left there is zeroed (16 R402). -/
def State.giveStep (s : State) (h i : Nat) : State :=
  let s := if Tab.get? s.stepLast i = some h then s
    else (s.zeroRange (stepAddr i) (2 ^ 24)).touched none (stepAddr i) (2 ^ 24)
  { s with steps := Tab.put s.steps i h, stepLast := Tab.put s.stepLast i h }

/-- A copy engine given to a context. -/
def State.giveEngine (s : State) (h e : Nat) : State :=
  if (s.eng e).own = some h then s else s.putEng e { (s.eng e).giveBack h with own := some h }

/-- A lane given to a context. -/
def State.giveLane (s : State) (h l : Nat) : State :=
  if (s.lane l).own = some h then s
  else s.putLane l { serial := (s.lane l).serial, own := some h, st := .idle }

/-- Another context holds a unit. -/
def heldByOther (own : Option Nat) (h : Nat) : Bool := own.any fun o => o ≠ h

/-- ASSIGN. -/
def execAssign (res : BitVec 8) (h : Nat) (first count : Word) (s : State) : Result :=
  let f := first.toNat
  let n := count.toNat
  if !(s.ctx h).st.takes ∨ n = 0 then .next (s.finish 1)
  else if res = 0 then
    if f + n > 128 ∨ (unitsFrom f n).any (fun e => s.engineOff e || heldByOther (s.eng e).own h) then
      .next (s.finish 1)
    else .next (((unitsFrom f n).foldl (fun s e => s.giveEngine h e) s).finish 0)
  else if res = 1 then
    if f + n > 512 ∨ (unitsFrom f n).any (fun l => s.laneOff l || heldByOther (s.lane l).own h) then
      .next (s.finish 1)
    else .next (((unitsFrom f n).foldl (fun s l => s.giveLane h l) s).finish 0)
  else
    let steps := (s.freeSteps f).take n
    if f ≥ 4 ∨ steps.length < n then .next (s.finish 1)
    else
      let a := s.cmdRecord + 0x20
      let s := steps.foldl (fun s i => s.giveStep h (12 * f + i)) s
      let s := if s.ringOk a true then s.pokeLE a 8 (maskNat steps) else s
      .next (s.finish 0)

/-- A copy engine that RECLAIM takes back. -/
def Engine.spare (e : Engine) (h : Nat) : Bool := e.own = some h && (e.st = .done || e.st = .free)

/-- Engines reserved for a unit of a timetable are free again (17 R438). -/
def State.unhold (s : State) (ctx key idx : Nat) : State :=
  let free (e : Engine) : Engine :=
    if e.own = some ctx ∧ e.held ∧ e.queue = some (key, idx) then { e with held := false, queue := none } else e
  { s with engs := Tab.mapVal s.engs fun _ e => free e }

/-- A unit of a timetable that loses what it reserved is armed no longer; the key is queue + 64·(unit + 1) (log entry
51). -/
def State.disarmUnit (s : State) (ctx key idx : Nat) : State :=
  let s := s.unhold ctx key idx
  let c := s.ctx ctx
  let kern (k : Kernel) : Kernel := if k.owner = some (key, idx) then { k with armed := false } else k
  let unit (u : TtUnit) : TtUnit := if u.entry + 1 = key / 64 ∧ !u.started then { u with armed := none } else u
  let table (t : Timetable) : Timetable := if t.idx = idx then { t with units := t.units.map unit } else t
  let queue (i : Nat) (x : Queue) : Queue := if i = key % 64 then { x with tables := x.tables.map table } else x
  s.putCtx ctx { c with kernels := Tab.mapVal c.kernels (fun _ k => kern k), queues := Tab.mapVal c.queues queue }

/-- A copy engine taken back from a context. -/
def State.takeEngine (s : State) (h e : Nat) : State :=
  let x := s.eng e
  let s := s.putEng e (x.giveBack h)
  if x.held then x.queue.elim s fun k => s.disarmUnit h k.1 k.2 else s

/-- A lane that RECLAIM takes back. -/
def Lane.spare (x : Lane) (h : Nat) : Bool := x.own = some h && (x.st = .idle || x.st = .done)

/-- A step taken back; its explicit lines are discarded, and watches on them fire (13 R357, 15 R399; log entry 52). -/
def State.takeStep (s : State) (i : Nat) : State :=
  { (s.zeroRange (stepAddr i) (2 ^ 24)).touched none (stepAddr i) (2 ^ 24) with steps := Tab.del s.steps i }

/-- RECLAIM. -/
def execReclaim (res : BitVec 8) (h : Nat) (first count mask : Word) (s : State) : Result :=
  let f := first.toNat
  let n := count.toNat
  if !(s.ctx h).st.takes ∨ n = 0 then .next (s.finish 1)
  else if res = 0 then
    if f + n > 128 ∨ (unitsFrom f n).any (fun e => !(s.eng e).spare h) then .next (s.finish 1)
    else .next (((unitsFrom f n).foldl (fun s e => s.takeEngine h e) s).finish 0)
  else if res = 1 then
    if f + n > 512 ∨ (unitsFrom f n).any (fun l => !(s.lane l).spare h) then .next (s.finish 1)
    else .next (((unitsFrom f n).foldl (fun s l => s.putLane l { serial := (s.lane l).serial }) s).finish 0)
  else
    let steps := (List.range 12).filter fun i => mask.getLsbD i
    let held (i : Nat) : Bool := Tab.get? s.steps (12 * f + i) = some h
    if f ≥ 4 ∨ mask.toNat ≥ 2 ^ 12 ∨ steps.length ≠ n ∨ !steps.all held then .next (s.finish 1)
    else .next ((steps.foldl (fun s i => s.takeStep (12 * f + i)) s).finish 0)

/-! ### Firmware images (17 R441) -/

/-- The bytes of SIG. -/
def sigLen : Nat := 3309

/-- Offset and length of a part. -/
def partRange (r : List Byte) (i : Nat) : Nat × Nat := (field r (0x18 + 8 * i) 4, field r (0x1C + 8 * i) 4)

/-- An image is well formed for its length. -/
def imageOk (r : List Byte) : Bool :=
  let sig := field r 0x30 4
  let ps := (List.range 3).map (partRange r)
  let part (p : Nat × Nat) : Bool := p.2 ≠ 0 && p.1 % 4096 = 0 && p.1 + p.2 ≤ sig
  let clash : Bool := (List.range 3).any fun i => (List.range 3).any fun j =>
    i < j && rangesMeet (nth ps i (0, 0)).1 (nth ps i (0, 0)).2 (nth ps j (0, 0)).1 (nth ps j (0, 0)).2
  field r 0 4 == 0x4957464F && field r 4 2 == 1 && zeroBytes r 6 8 && zeroBytes r 0xC 0x10
    && zeroBytes r 0x34 0x40 && ps.all part && !clash && sig + sigLen = r.length

/-- The signature of an image verifies. -/
def imageSigned (r : List Byte) : Bool :=
  let sig := field r 0x30 4
  Config.mlDsaVerify (Config.shake256 (r.take sig)) ((r.drop sig).take sigLen)

/-- The slot that is not active. -/
def Fw.other (f : Fw) : Nat := if f.active then 0 else 1

/-- An image in a slot. -/
def Fw.load (f : Fw) (r : List Byte) : Fw :=
  let i := f.other
  { f with images := f.images.set i r, good := f.good.set i true, fwver := f.fwver.set i (fieldW r 0x10),
           svn := f.svn.set i (Word.of (field r 8 4)) }

/-- Every byte of a range can be read by the device. -/
def State.rangeReadable (s : State) (a n : Nat) : Bool :=
  ringRegion a && ringRegion (a + n - 1) && (List.range n).all fun i => s.ringOk (a + i) false
    && (s.readError (a + i) 1).isNone

/-- FWLOAD (17 R440). -/
def execFwload (pa len : Word) (s : State) : Result :=
  let a := pa.toNat
  let n := len.toNat
  if n < 0x40 ∨ s.fw.trial ∨ !s.rangeReadable a n then .next (s.finish 1)
  else
    let r := (List.range n).map fun i => s.peekByte (a + i)
    let svn := nth s.fw.svn (if s.fw.active then 1 else 0) 0
    if !imageOk r ∨ !imageSigned r ∨ field r 8 4 < svn.toNat then .next (s.finish 1)
    else .next (({ s with fw := s.fw.load r }).finish 0)

/-! ### The switch (17 R442) -/

/-- FWSWITCH: every RUNNING context is saved; the new firmware then restores them on trial. -/
def execFwswitch (s : State) : Result :=
  if !nth s.fw.good s.fw.other false then .next (s.finish 1)
  else
    let mark (c : Ctx) : Ctx := if c.st = .running then { c with auto := some false } else c
    let s := { s with ctxs := Tab.mapVal s.ctxs fun _ c => mark c }
    .next ((s.startBusy 0x31 0).saveNext false)

/-- The value that ends a trial (17 R440). -/
def commitMagic : Word := 0x434F4D4D49542121

/-- FW_COMMIT: the running image ends its trial, unless the watchdog has expired. -/
def execFwCommit (v : Word) (s : State) : Result :=
  if v ≠ commitMagic ∨ !s.fw.trial ∨ s.fw.deadline.any (fun d => d ≤ s.gtc.toNat) then .next s
  else
    let fw := { s.fw with active := !s.fw.active, trial := false, deadline := none }
    .next (({ s with fw := fw }).completeBusy 0 0x31 0)

/-- FW_WATCHDOG: the old slot runs again and restores what the new one has not. -/
def execFwWatchdog (s : State) : Result :=
  if !s.fw.trial ∨ !(s.fw.deadline.any fun d => d ≤ s.gtc.toNat) then .next s
  else
    let s := s.startFw s.fw.active
    let fw := { s.fw with trial := false, deadline := none, reverting := true }
    .next (({ s with fw := fw }).restoreNext false)

end Sys2Proof.Machine
end

