-- ==== Sys2Proof/Machine/Queue.lean ====
section
/-! DEFINITION. Queues: QCTL (17 R435), `qsub` (R439), entries and what they dispatch (R432), arbitration
(R436), completion and errors (R437), timetables (R438). -/
namespace Sys2Proof.Machine

/-! ### QCTL (17 R435) -/

/-- The fields of a queue descriptor that system software writes, if they are valid (17 R431, R435). -/
def State.readQueue (s : State) (a : Nat) (x : Queue) : Option Queue :=
  let rd (o n : Nat) : Nat := s.peek (a + o) n
  let ring := rd 0 8
  let log := rd 8 1
  let flags := rd 0xA 1
  if ring % 4096 = 0 ∧ ringRegion ring ∧ 4 ≤ log ∧ log ≤ 16 ∧ rd 9 1 ≤ 7 ∧ flags < 4 ∧ flags % 2 = 1
      ∧ rd 0xB 5 = 0 then
    some { x with ring := ring, log := log, prio := rd 9 1, tsub := flags / 2 = 1 }
  else none

/-- A draining queue whose entries have all completed is DISABLED (17 R435). -/
def Queue.drained (x : Queue) : Queue :=
  if x.st = .draining ∧ x.done = x.cons then { x with st := .disabled } else x

/-- A queue as ENABLE leaves it: CONS := DONE := KICK. -/
def Queue.enabled (x : Queue) : Queue :=
  { x with st := .idle, cons := x.kick, done := x.kick, head := none, runs := x.runs.map fun r => { r with old := true } }

/-- QCTL ENABLE. -/
def execQctlEnable (h q : Nat) (s : State) : Result :=
  let c := s.ctx h
  let x := s.queue h q
  if !c.named ∨ x.st ≠ .disabled ∨ x.pqn.isNone then .next (s.finish 1)
  else match s.readQueue (c.obj.qtab + 64 * q) x with
    | none => .next (s.finish 1)
    | some y => .next ((s.putQueue h q y.enabled).finish 0)

/-- QCTL DISABLE. -/
def execQctlDisable (h q : Nat) (s : State) : Result :=
  let x := s.queue h q
  if !(s.ctx h).named ∨ !(x.st = .idle ∨ x.st = .active) then .next (s.finish 1)
  else .next ((s.putQueue h q ({ x with st := .draining } : Queue).drained).finish 0)

/-- QCTL RESET. -/
def execQctlReset (h q : Nat) (s : State) : Result :=
  let x := s.queue h q
  if !(s.ctx h).named ∨ x.st ≠ .error then .next (s.finish 1)
  else
    let y := { x with st := .disabled, kick := x.cons, err := 0, errcause := 0, erridx := 0, errinfo := 0 }
    .next ((s.putQueue h q y).finish 0)

/-! ### `qsub` (17 R439) -/

/-- The ring slot of entry n (17 R431). -/
def Queue.slot (x : Queue) (n : Nat) : Nat := x.ring + 64 * (n % 2 ^ x.log)

/-- `qsub` refuses the queue. -/
def Queue.refuses (x : Queue) (i : Nat) : Bool :=
  i > 63 || !x.tsub || !(x.st = .idle || x.st = .active) || x.kick - x.cons = 2 ^ x.log

/-- What stops a write of an entry's slot in the ring: a failed channel, or no memory that the device reaches (13 R378,
17 R443, 18 R461). -/
def State.slotError (s : State) (a : Nat) : Option (BitVec 16 × Nat) :=
  match s.failedAt a 64 with
  | some ch => some (0x0405#16, ch)
  | none => if s.ringOk a true then none else some (0x0306#16, a)

/-- `qsub`. -/
def execQsub (rd rs1 rs2 : Reg) (s : State) : Result :=
  let a := (s.reg rs2).toNat
  if a % 64 ≠ 0 then .next (s.trap 0x0511#16 (s.reg rs2))
  else (s.hostRecord a 64).andThen fun e s =>
    let i := (s.reg rs1).toNat
    let x := s.queue s.myCtx i
    if x.refuses i then .next (s.retireWith rd (BitVec.allOnes 64))
    else match s.slotError (x.slot x.kick) with
      | some (c, v) => .next (s.trap c (Word.of v))
      | none =>
        let s := (s.flushMine.settle (x.slot x.kick) 64).poke (x.slot x.kick) (e.map BitVec.toNat) (List.replicate 64 1)
        .next ((s.kick s.myCtx i (x.kick + 1)).retireWith rd (Word.of (x.kick + 1)))

/-! ### What a try of the front end comes to -/

/-- A value and the state; a resource that is not free; a fault that is awaited; an error of the queue with
its cause and ERRINFO. -/
inductive QTry (α : Type) where
  | ok (v : α) (s : State)
  | busy
  | stall (s : State)
  | fail (err : Nat) (cause : BitVec 16) (info : Word)

/-- A try used to go on. -/
def QTry.bind {α β : Type} (x : QTry α) (f : α → State → QTry β) : QTry β :=
  match x with
  | .ok v s => f v s
  | .busy => .busy
  | .stall s => .stall s
  | .fail e c i => .fail e c i

/-- A read of the front end for an entry: a replayable cause waits on a record like that of a host thread, any
other ends the entry with ERR 0x08 (17 R437; log entry 25). -/
def Rd.queue {α : Type} (x : Rd α) (s : State) (ctx q idx : Nat) (a : Acc) : QTry α :=
  match x with
  | .ok v s => .ok v s
  | .bad c i =>
    if replayable c then .stall (s.raiseFault ctx i c 0 0 a.bit (.queue (q + 64 * idx)))
    else .fail 8 c (Word.of i)

/-- An entry of a queue waits on a fault record. -/
def State.entryStalled (s : State) (ctx q idx : Nat) : Bool :=
  (s.ctx ctx).faults.any fun f => f.waiters.contains (.queue (q + 64 * idx))

/-! ### Starting units -/

/-- The kernel that an entry, or a unit of its timetable, has loaded. -/
def State.ownedKernel (s : State) (ctx key idx : Nat) : Option (Nat × Kernel) :=
  (s.ctx ctx).kernels.find? fun e => e.2.owner = some (key, idx)

/-- `kld` and `karg` for an entry (17 R432): a failure is ERR 0x03 with the cause of R153. -/
def State.loadUnit (s : State) (ctx q key idx clu a arg : Nat) : QTry Unit :=
  ((s.readKernel ctx clu a).queue s ctx q idx .read).bind fun r s =>
    match s.acceptKernel ctx clu r with
    | .error e => .fail 3 (BitVec.ofNat 16 e.cause) 0
    | .ok (h, k) =>
      let go (k : Kernel) (s : State) : QTry Unit := .ok () (s.enter ctx h { k with owner := some (key, idx) })
      if arg = 0 then go k s
      else if arg % 16 ≠ 0 then .fail 3 0x0511#16 0
      else ((s.readArgs ctx clu arg k).queue s ctx q idx .read).bind fun r s =>
        match r with
        | .error _ => .fail 3 0x0506#16 0
        | .ok k => go k s

/-- `kfork` for an entry: ERR 0x03 with the cause of R154, or nothing while a resource is not free. -/
def State.forkUnit (s : State) (ctx q idx kh : Nat) (k : Kernel) : QTry Unit :=
  match s.forkGroup ctx k with
  | some _ => .fail 3 0x0706#16 0
  | none =>
    ((s.forkReads ctx k).queue s ctx q idx .read).bind fun r s =>
      match r.1 with
      | .error _ => .fail 3 0x0602#16 0
      | .ok ls => if s.forkReady ctx kh k then .ok () (s.startRound ctx kh k ls r.2 false none) else .busy

/-- A copy record validated and an engine for it; an invalid record is ERR 0x05. -/
def State.copyUnit (s : State) (ctx q idx clu a : Nat) : QTry (Nat × Launch) :=
  ((s.readLaunch ctx clu a false).queue s ctx q idx .read).bind fun r s =>
    match r with
    | .error _ => .fail 5 0x0602#16 0
    | .ok l => match s.freeEngines ctx clu with
      | [] => .busy
      | en :: _ => .ok (en, l) s

/-- A job record checked for a lane that is free; an invalid record is ERR 0x06. -/
def State.laneUnit (s : State) (ctx q key idx l a : Nat) (st : LaneSt) : QTry Unit :=
  ((s.readJob ctx (laneClu l) a).queue s ctx q idx .read).bind fun r s =>
    match r with
    | .error _ => .fail 6 0x0B01#16 0
    | .ok j =>
      if s.laneFree ctx l then .ok () (s.putLane l { (s.lane l).launched j a st with queue := some (key, idx) })
      else .busy

/-! ### The head of a queue (17 R433, R436) -/

/-- The fields of an entry. -/
def qentOf : Instr → Option QEnt
  | .launch e => some e | .timetable e => some e | .copy e => some e | .lane e => some e
  | .wait e => some e | .signal e => some e | .mark e => some e | .fence e => some e
  | _ => none

/-- The bytes of the entry at the head: as they were read, or as memory holds them before (17 R433). -/
def State.headBytes (s : State) (x : Queue) : List Byte := x.head.getD (s.ringBytes (x.slot x.cons))

/-- The entry at the head; none where it does not decode. -/
def State.headInstr (s : State) (x : Queue) : Option Instr := (decodeQueue (s.headBytes x)).toOption

/-- No FENCE or WAITPREV holds an entry. -/
def Queue.unheld (x : Queue) (e : QEnt) : Bool :=
  !(x.runs.any fun r => r.work = .fence) && (!e.waitprev || x.runs.isEmpty)

/-- Nothing is dispatched while a context is in such a state (17 R435). -/
def CtxSt.holdsQueues (x : CtxSt) : Bool := x = .saved || x = .faulted || x = .killing

/-- Entries of the queue may be dispatched: it is ACTIVE, its context is not SAVED, FAULTED or KILLING, no emergency
lasts (19 R474), and no entry of it waits on a fault. -/
def State.dispatches (s : State) (ctx q : Nat) : Bool :=
  (s.queue ctx q).st = .active && !(s.ctx ctx).st.holdsQueues && !s.pow.hold
    && !(s.ctx ctx).faults.any fun f => f.waiters.any fun w => match w with | .queue n => n % 64 = q | _ => false

/-- An entry at the head of a queue is ready. -/
def State.headReady (s : State) (ctx q : Nat) (e : QEnt) : Bool :=
  s.dispatches ctx q && (s.queue ctx q).unheld e

/-- The entry at the head of a queue, if it is ready. -/
def State.readyHead (s : State) (ctx q : Nat) : Option Instr :=
  let x := s.queue ctx q
  if x.kick ≤ x.cons then none
  else (s.headInstr x).filter fun i => (qentOf i).any (s.headReady ctx q)

/-- What heads of queues compete for: loading and starting kernels of a cluster, the engines of a context in a
cluster, a lane. -/
inductive QKey where
  | load (clu : Nat)
  | fork (clu : Nat)
  | engines (ctx clu : Nat)
  | lane (l : Nat)
deriving DecidableEq, Repr

/-- What an entry at a head needs now (17 R436). -/
def State.headKeys (s : State) (ctx q : Nat) : Instr → List QKey
  | .launch e =>
    match s.ownedKernel ctx q (s.queue ctx q).cons with
    | none => [.load e.clu.toNat]
    | some (_, k) =>
      if k.state ≠ .loaded then []
      else if k.desc.ncopy = 0 then [.fork e.clu.toNat] else [.fork e.clu.toNat, .engines ctx e.clu.toNat]
  | .copy e => [.engines ctx e.clu.toNat]
  | .lane e => [.lane e.lane.toNat]
  | _ => []

/-- The effective priority of a head (17 R436). -/
def Queue.eff (x : Queue) (gtc : Nat) : Nat := max (x.prio - (gtc - x.since) / 64000) (min x.prio 1)

/-- The place of a queue in a round that starts after the queue served last. -/
def State.turn (s : State) (x : Queue) : Nat := (x.pqn.getD 0 + 1023 - s.served % 1024) % 1024

/-- A queue is served before another. -/
def State.servedBefore (s : State) (x y : Queue) : Bool :=
  let g := s.gtc.toNat
  x.eff g < y.eff g || (x.eff g = y.eff g && s.turn x < s.turn y)

/-- The key of a unit of a timetable: what it takes names it as its owner. -/
def TtUnit.key (u : TtUnit) (q : Nat) : Nat := q + 64 * (u.entry + 1)

/-- The unit of a timetable that is to be armed next: units are armed in entry order (17 R438). -/
def Timetable.toArm (t : Timetable) : Option TtUnit := t.units.find? fun u => !u.started && u.armed.isNone

/-- The units of a context's timetables may be armed. -/
def State.mayArm (s : State) (ctx q idx : Nat) : Bool :=
  (s.ctx ctx).st = .running && !s.pow.hold && !s.entryStalled ctx q idx

/-- What the unit that a timetable arms next needs now. -/
def State.unitKeys (s : State) (ctx q idx : Nat) (u : TtUnit) : List QKey :=
  if u.kind = 1 then
    match s.ownedKernel ctx (u.key q) idx with
    | none => [.load u.clu]
    | some (_, k) =>
      if k.state ≠ .loaded then []
      else if k.desc.ncopy = 0 then [.fork u.clu] else [.fork u.clu, .engines ctx u.clu]
  else if u.kind = 2 then [.engines ctx u.clu]
  else [.lane u.lane]

/-- What a queue needs now: its head, if it is ready, and the timetables that it arms (17 R436; log entry 26). -/
def State.needs (s : State) (ctx q : Nat) : List QKey :=
  let arm (t : Timetable) : List QKey :=
    if s.mayArm ctx q t.idx then t.toArm.toList.flatMap (s.unitKeys ctx q t.idx) else []
  (s.readyHead ctx q).toList.flatMap (s.headKeys ctx q) ++ (s.queue ctx q).tables.flatMap arm

/-- A queue that needs something yields to another that needs it too and is served before it. -/
def State.yields (s : State) (ctx q : Nat) (ks : List QKey) : Bool :=
  !ks.isEmpty && s.ctxs.any fun c => c.2.queues.any fun p =>
    (c.1 ≠ ctx || p.1 ≠ q) && s.servedBefore p.2 (s.queue ctx q) && (s.needs c.1 p.1).any ks.contains

/-! ### Dispatch (17 R432, R435) -/

/-- The entry at the head is dispatched: what it waits for is kept, and the next entry is the head. -/
def State.dispatched (s : State) (ctx q : Nat) (e : QEnt) (w : QWork) : State :=
  let x := s.queue ctx q
  let run : QRun := { idx := x.cons, work := w, ctr := e.ctr.toNat, ctrinc := e.ctrinc }
  let st : QueueSt := if x.cons + 1 = x.kick then .idle else x.st
  let y := { x with cons := x.cons + 1, since := s.gtc.toNat, runs := x.runs ++ [run] }
  s.putQueue ctx q { y with st := st, head := none }

/-- A queue has been served a resource. -/
def State.serve (s : State) (ctx q : Nat) : State := { s with served := ((s.queue ctx q).pqn).getD 0 }

/-- The entry at the head has been read: it is not read again (17 R433). -/
def State.keepHead (s : State) (ctx q : Nat) : State :=
  let c := s.ctx ctx
  let x := s.queue ctx q
  s.putCtx ctx { c with queues := Tab.put c.queues q { x with head := some (s.headBytes x) } }

/-- What an entry starts in a context that is being halted halts at once (16 R405). -/
def State.haltsToo (s : State) (ctx : Nat) : State := if (s.ctx ctx).st = .frozen then s.haltUnits ctx else s

/-- The head on the move as its kind acts, if it is ready and its turn has come. -/
def State.atHead (s : State) (i : Instr) (e : QEnt) (go : State → Nat → Nat → Queue → QTry Unit) : Result :=
  let ctx := s.cur.ctx
  let q := s.cur.queue
  let x := s.queue ctx q
  if !s.headReady ctx q e ∨ s.yields ctx q (s.headKeys ctx q i) then .next s
  else match go (s.keepHead ctx q) ctx q x with
    | .ok _ s => .next (s.haltsToo ctx)
    | .busy => .next (s.keepHead ctx q)
    | .stall s => .next s
    | .fail err cause info => .next (s.entryError ctx q err cause x.cons info)

/-- LAUNCH: `kld`, with `karg`; then, once the kernel is LOADED, `kfork`. -/
def execLaunch (e : QEnt) (s : State) : Result :=
  s.atHead (.launch e) e fun s ctx q x =>
    match s.ownedKernel ctx q x.cons with
    | none =>
      (s.loadUnit ctx q q x.cons e.clu.toNat e.addr0.toNat e.addr1.toNat).bind fun _ s => .ok () (s.serve ctx q)
    | some (kh, k) =>
      if k.state ≠ .loaded then .busy
      else (s.forkUnit ctx q x.cons kh k).bind fun _ s => .ok () ((s.serve ctx q).dispatched ctx q e (.kernel kh))

/-- COPY: `cstart`, once an engine is free. -/
def execCopy (e : QEnt) (s : State) : Result :=
  s.atHead (.copy e) e fun s ctx q x =>
    (s.copyUnit ctx q x.cons e.clu.toNat e.addr0.toNat).bind fun r s =>
      let s := s.launchCopy r.1 r.2 e.addr0.toNat ctx none (some (q, x.cons)) []
      .ok () ((s.serve ctx q).dispatched ctx q e (.engine r.1))

/-- LANE: `lstart`, once the lane is free. -/
def execLane (e : QEnt) (s : State) : Result :=
  s.atHead (.lane e) e fun s ctx q x =>
    (s.laneUnit ctx q q x.cons e.lane.toNat e.addr0.toNat .running).bind fun _ s =>
      .ok () ((s.serve ctx q).dispatched ctx q e (.lane e.lane.toNat))

/-- WAIT: it holds dispatch until the counter is at least VALUE. -/
def execWait (e : QEnt) (s : State) : Result :=
  s.atHead (.wait e) e fun s ctx q x =>
    ((s.readRecord ctx 0 e.addr0.toNat 8).queue s ctx q x.cons .read).bind fun r s =>
      if field r 0 8 ≥ e.value.toNat then .ok () (s.dispatched ctx q e .now) else .busy

/-- An add to a counter for an entry, as a release (17 R432, 10 R298, R308). -/
def State.entryAdd (s : State) (ctx q idx va : Nat) (v : Word) : QTry Unit :=
  ((s.counterPlace ctx 0 va).queue s ctx q idx .atomic).bind fun pa s =>
    .ok () ((s.flushCtx ctx).counterAdd pa v)

/-- SIGNAL. -/
def execSignal (e : QEnt) (s : State) : Result :=
  s.atHead (.signal e) e fun s ctx q x =>
    (s.entryAdd ctx q x.cons e.addr0.toNat e.value).bind fun _ s => .ok () (s.dispatched ctx q e .now)

/-- The place of 16 bytes that an entry writes. -/
def State.markPlace (s : State) (ctx va : Nat) : Rd Nat :=
  match s.hostXlate ctx 0 va .write with
  | .miss c a => .bad c a
  | .hit pa _ s =>
    if (s.failedAt pa 16).isSome then .bad 0x0405#16 va else .ok pa s

/-- 16 bytes stored by a queue: to device registers as two writes. -/
def State.markStore (s : State) (ctx q pa : Nat) (a b : Word) : State :=
  if regionOf pa = 3 then (s.devStore (pa + 8) 8 b.toNat).devStore pa 8 a.toNat
  else s.store (srcOf ctx (4096 + q)) pa (bytesOf a.toNat 8 ++ bytesOf b.toNat 8) (List.replicate 16 1)

/-- MARK: VALUE, then the GTC. -/
def execMark (e : QEnt) (s : State) : Result :=
  s.atHead (.mark e) e fun s ctx q x =>
    ((s.markPlace ctx e.addr0.toNat).queue s ctx q x.cons .write).bind fun pa s =>
      .ok () (((s.flushCtx ctx).markStore ctx q pa e.value s.gtc).dispatched ctx q e .now)

/-- FENCE: nothing is dispatched behind it until every earlier entry has completed. -/
def execFence (e : QEnt) (s : State) : Result :=
  s.atHead (.fence e) e fun s ctx q _ => .ok () (s.dispatched ctx q e .fence)

/-! ### Timetables (17 R438) -/

/-- One entry of a timetable. -/
def parseUnit (r : List Byte) (i : Nat) : TtUnit :=
  { entry := i, kind := field r 0 1, clu := field r 1 1, lane := field r 2 2, tstart := field r 8 8,
    desc := field r 0x10 8 }

/-- An entry of a timetable is valid. -/
def unitOk (r : List Byte) : Bool :=
  let k := field r 0 1
  1 ≤ k && k ≤ 3 && (k = 3 || field r 1 1 ≤ 7) && (k ≠ 3 || field r 2 2 ≤ 511) && zeroBytes r 4 8
    && zeroBytes r 0x18 0x20

/-- No number is below the one before it. -/
def rising : List Nat → Bool
  | a :: b :: t => a ≤ b && rising (b :: t)
  | _ => true

/-- A timetable record read: the timetable, or none if it is invalid. -/
def State.readTimetable (s : State) (ctx idx a : Nat) : Rd (Option Timetable) :=
  if a % 64 ≠ 0 then .ok none s
  else (s.readRecord ctx 0 a 64).bind fun h s =>
    let n := field h 4 2
    if field h 0 4 ≠ 0x4C425454 ∨ n < 1 ∨ n > 256 ∨ !zeroBytes h 7 64 then .ok none s
    else (s.readRecord ctx 0 (a + 64) (32 * n)).bind fun b s =>
      let rs := records b 32 n
      let us := (List.range n).map fun i => parseUnit (nth rs i []) i
      if rs.all unitOk ∧ rising (us.map TtUnit.tstart) then
        .ok (some { idx := idx, group := field h 6 1, units := us }) s
      else .ok none s

/-- TIMETABLE: the record is taken in; its units are armed and started by `timetableUnitStart`. -/
def execTimetable (e : QEnt) (s : State) : Result :=
  s.atHead (.timetable e) e fun s ctx q x =>
    ((s.readTimetable ctx x.cons e.addr0.toNat).queue s ctx q x.cons .read).bind fun r s =>
      match r with
      | none => .fail 1 0 0
      | some t =>
        let s := s.dispatched ctx q e .timetable
        let y := s.queue ctx q
        .ok () (s.putQueue ctx q { y with tables := y.tables ++ [t] })

/-- Engines reserved for a unit. -/
def State.hold (s : State) (key idx : Nat) (es : List Nat) : State :=
  es.foldl (fun s e => s.modEng e fun x => { x with held := true, queue := some (key, idx) }) s

/-- A unit is armed, or goes a step towards it: what it holds once it is. -/
def State.armUnit (s : State) (ctx q idx : Nat) (u : TtUnit) : QTry (Option Nat) :=
  let key := u.key q
  if u.kind = 1 then
    match s.ownedKernel ctx key idx with
    | none => (s.loadUnit ctx q key idx u.clu u.desc 0).bind fun _ s => .ok none s
    | some (kh, k) =>
      let es := s.freeEngines ctx u.clu
      if k.state ≠ .loaded ∨ s.controllers u.clu ≥ 16 ∨ es.length < k.desc.ncopy then .busy
      else .ok (some kh) ((s.hold key idx (es.take k.desc.ncopy)).putKernel ctx kh { k with armed := true })
  else if u.kind = 2 then
    (s.copyUnit ctx q idx u.clu u.desc).bind fun r s =>
      .ok (some r.1) ((s.modEng r.1 fun x => { x with launch := r.2, recva := u.desc }).hold key idx [r.1])
  else (s.laneUnit ctx q key idx u.lane u.desc .armed).bind fun _ s => .ok (some u.lane) s

/-- An armed unit starts. -/
def State.startUnit (s : State) (ctx q idx : Nat) (u : TtUnit) (n : Nat) : QTry Unit :=
  let key := u.key q
  if u.kind = 1 then
    match s.kernel? ctx n with
    | none => .busy
    | some k =>
      let k := { k with armed := false }
      let s := (s.unhold ctx key idx).putKernel ctx n k
      if k.state ≠ .loaded then .busy else s.forkUnit ctx q idx n k
  else if u.kind = 2 then .ok () (s.launchCopy n (s.eng n).launch (s.eng n).recva ctx none (some (key, idx)) [])
  else .ok () (s.modLane n fun x => { x with st := .running })

/-- A unit of a timetable replaced. -/
def State.putUnit (s : State) (ctx q idx : Nat) (u : TtUnit) : State :=
  let x := s.queue ctx q
  let one (t : Timetable) : Timetable :=
    if t.idx = idx then { t with units := t.units.map fun v => if v.entry = u.entry then u else v } else t
  s.putQueue ctx q { x with tables := x.tables.map one }

/-- The first unit that is not armed when the GTC has reached its TSTART. -/
def State.slipped (s : State) (ctx : Nat) (t : Timetable) : Option TtUnit :=
  let may : Bool := (s.ctx ctx).st = .running && !s.pow.hold
  t.units.find? fun u => !u.started && u.tstart ≤ s.gtc.toNat && (u.armed.isNone || !may)

/-- A slip: the group aborts if some unit has started, and the units that have not are released. -/
def State.slip (s : State) (ctx q : Nat) (t : Timetable) (entry : Nat) : State :=
  let s := if t.units.any (·.started) ∧ t.group ≠ 0xFF then s.abortGroup ctx t.group 0x0203#16 s.pkgid else s
  s.entryErrorAt ctx q 7 0x0203#16 t.idx entry 0

/-- A unit whose TSTART the GTC has reached: it starts, or the timetable slips. -/
def State.unitDue (s : State) (ctx q : Nat) (t : Timetable) (u : TtUnit) : State :=
  match s.slipped ctx t, u.armed with
  | some v, _ => s.slip ctx q t v.entry
  | none, none => s
  | none, some n =>
    match s.startUnit ctx q t.idx u n with
    | .ok _ s => s.putUnit ctx q t.idx { u with started := true }
    | .busy => s.slip ctx q t u.entry
    | .stall _ => s.slip ctx q t u.entry
    | .fail err cause info => s.entryError ctx q err cause t.idx info

/-- TIMETABLE_UNIT_START (17 R438): a unit of a timetable is armed, behind those before it and in its queue's turn, and
starts when the GTC equals its TSTART. -/
def execTimetableUnitStart (idx unit : Nat) (s : State) : Result :=
  let ctx := s.cur.ctx
  let q := s.cur.queue
  match (s.queue ctx q).tables.find? fun t => t.idx = idx with
  | none => .next s
  | some t =>
    match t.units.find? fun u => u.entry = unit with
    | none => .next s
    | some u =>
      if u.started then .next s
      else if u.tstart ≤ s.gtc.toNat then .next (s.unitDue ctx q t u)
      else if t.toArm ≠ some u ∨ !s.mayArm ctx q idx ∨ s.yields ctx q (s.unitKeys ctx q idx u) then .next s
      else match s.armUnit ctx q idx u with
        | .ok n s => .next ((s.serve ctx q).putUnit ctx q idx { u with armed := n })
        | .busy => .next s
        | .stall s => .next s
        | .fail err cause info => .next (s.entryError ctx q err cause idx info)

/-! ### Completion (17 R432, R437) -/

/-- How dispatched work stands: it goes on, it has completed, or it has failed. -/
inductive WorkEnd where
  | goes
  | done
  | failed (err : Nat) (cause : BitVec 16) (info : Word)
deriving DecidableEq, Repr

/-- How a unit stands that an entry has started. -/
def State.unitEnd (s : State) (ctx key idx : Nat) : QWork → WorkEnd
  | .kernel kh =>
    match s.kernel? ctx kh with
    | none => .done
    | some k =>
      if k.owner ≠ some (key, idx) ∨ k.state = .retired then .done
      else if k.state = .frozen then .failed 4 k.cause (Word.of kh) else .goes
  | .engine e =>
    let x := s.eng e
    if x.own ≠ some ctx ∨ x.queue ≠ some (key, idx) ∨ x.st = .done then .done
    else if x.st = .faulted then .failed 5 x.cause 0 else .goes
  | .lane l =>
    let x := s.lane l
    if x.own ≠ some ctx ∨ x.queue ≠ some (key, idx) ∨ x.st = LaneSt.done then .done
    else if x.st = LaneSt.failed then .failed 6 x.cause 0 else .goes
  | .timetable | .fence | .now => .goes

/-- What a unit of a timetable has started. -/
def TtUnit.work (u : TtUnit) (n : Nat) : QWork :=
  if u.kind = 1 then .kernel n else if u.kind = 2 then .engine n else .lane n

/-- How a timetable stands: the first unit that failed; all have finished; or it goes on. -/
def State.tableEnd (s : State) (ctx q : Nat) (t : Timetable) : WorkEnd :=
  let ends := t.units.map fun u =>
    match u.armed with
    | some n => if u.started then s.unitEnd ctx (u.key q) t.idx (u.work n) else .goes
    | none => .goes
  let bad : Option WorkEnd := ends.find? fun e => e ≠ .goes && e ≠ .done
  bad.getD (if ends.all (· = .done) then .done else .goes)

/-- How a dispatched entry stands. -/
def State.runEnd (s : State) (ctx q : Nat) (r : QRun) : WorkEnd :=
  let x := s.queue ctx q
  match r.work with
  | .now => .done
  | .fence => if x.runs.any fun o => o.idx < r.idx then .goes else .done
  | .timetable =>
    match x.tables.find? fun t => t.idx = r.idx with
    | none => .done
    | some t => s.tableEnd ctx q t
  | w => s.unitEnd ctx q r.idx w

/-- A FENCE or WAITPREV holds the head. -/
def State.headHeld (s : State) (x : Queue) : Bool :=
  (x.runs.any fun r => r.work = .fence)
    || (!x.runs.isEmpty && x.cons < x.kick && ((s.headInstr x).bind qentOf).any QEnt.waitprev)

/-- An entry completes: kernels that it launched are released (05 R156), and DONE counts it. -/
def State.endRun (s : State) (ctx q : Nat) (r : QRun) : State :=
  let s := s.leaveUnits ctx q r.idx
  let x := s.queue ctx q
  let y := { x with runs := x.runs.filter (·.idx ≠ r.idx), tables := x.tables.filter (·.idx ≠ r.idx) }
  let y := { y with done := if r.old then x.done else x.done + 1 }
  let free : Bool := s.headHeld x && !s.headHeld y
  s.putQueue ctx q ({ y with since := if free then s.gtc.toNat else x.since } : Queue).drained

/-- A lane whose failure its queue reports is idle again. -/
def State.idleLanes (s : State) (ctx q idx : Nat) : State :=
  let one (x : Lane) : Lane :=
    if x.own = some ctx ∧ x.st = LaneSt.failed ∧ ofEntry q idx x.queue then x.idle else x
  { s with lanes := Tab.mapVal s.lanes fun _ x => one x }

/-- A context in which dispatched entries complete: its units are on the chip. -/
def CtxSt.completes (x : CtxSt) : Bool := x = .ready || x = .running || x = .frozen

/-- QUEUE_ENTRY_COMPLETE: a dispatched entry completes with CTRINC added to its counter, or ends in error. -/
def execQueueEntryComplete (idx : Nat) (s : State) : Result :=
  let ctx := s.cur.ctx
  let q := s.cur.queue
  match (s.queue ctx q).runs.find? fun r => r.idx = idx with
  | none => .next s
  | some r =>
    if !(s.ctx ctx).st.completes ∨ s.entryStalled ctx q idx then .next s
    else match s.runEnd ctx q r with
      | .goes => .next s
      | .failed err cause info => .next ((s.entryError ctx q err cause idx info).idleLanes ctx q idx)
      | .done =>
        if r.ctr = 0 then .next (s.endRun ctx q r)
        else match s.entryAdd ctx q idx r.ctr r.ctrinc with
          | .ok _ s => .next (s.endRun ctx q r)
          | .busy => .next s
          | .stall s => .next s
          | .fail err cause info => .next (s.entryError ctx q err cause idx info)

/-! ### What a queue does next -/

/-- The next move of a queue: an instruction, or an entry at the head that cannot be dispatched, with its error
code, cause and ERRINFO. -/
inductive QMove where
  | run (i : Instr)
  | fail (err : Nat) (cause : BitVec 16) (info : Word)
deriving DecidableEq, Repr

/-- A dispatched entry that has ended. -/
def State.endedRun (s : State) (ctx q : Nat) : Option Instr :=
  let x := s.queue ctx q
  if !(s.ctx ctx).st.completes then none
  else (x.runs.find? fun r => s.runEnd ctx q r ≠ .goes && !s.entryStalled ctx q r.idx).map fun r =>
    .queueEntryComplete r.idx

/-- A context that is loading or killed starts no unit. -/
def CtxSt.keepsTime (x : CtxSt) : Bool := 2 ≤ x.code && x.code ≤ 7

/-- A unit of a timetable that is due. -/
def State.dueUnit (s : State) (ctx q : Nat) : Option Instr :=
  if !(s.ctx ctx).st.keepsTime then none
  else (s.queue ctx q).tables.findSome? fun t =>
    (t.units.find? fun u => !u.started && u.tstart ≤ s.gtc.toNat).map fun u => .timetableUnitStart t.idx u.entry

/-- A unit of a timetable that goes a step towards being armed. -/
def State.armable (s : State) (ctx q : Nat) : Option Instr :=
  (s.queue ctx q).tables.findSome? fun t =>
    if !s.mayArm ctx q t.idx then none
    else (t.toArm.filter fun u => !s.yields ctx q (s.unitKeys ctx q t.idx u) && match s.armUnit ctx q t.idx u with
      | .busy => false
      | _ => true).map fun u => .timetableUnitStart t.idx u.entry

/-- What stops the read of an entry of a ring, if anything: the cause and its address. -/
def State.entryError? (s : State) (a : Nat) : Option (BitVec 16 × Nat) :=
  if !s.ringOk a false then some (0x0306#16, a) else s.readError a 64

/-- The head of a queue: the device reads it when it dispatches it. -/
def State.headMove (s : State) (ctx q : Nat) : Option QMove :=
  let x := s.queue ctx q
  if !s.dispatches ctx q ∨ x.kick ≤ x.cons ∨ x.runs.any (·.work = .fence) then none
  else match if x.head.isSome then none else s.entryError? (x.slot x.cons) with
    | some (c, a) => some (.fail 8 c (Word.of a))
    | none => match s.headInstr x with
      | none => some (.fail 1 0 0)
      | some i => if (qentOf i).any x.unheld then some (.run i) else none

/-- What a queue does next. -/
def State.queueMove (s : State) (ctx q : Nat) : Option QMove :=
  match s.dueUnit ctx q <|> s.endedRun ctx q <|> s.armable ctx q with
  | some i => some (.run i)
  | none => s.headMove ctx q

end Sys2Proof.Machine
end

