-- ==== Sys2Proof/Machine/Link.lean ====
section
/-! DEFINITION. Vetar: `sigst` (18 R456), messages at their peer and their answers (R453, R455, R458), the
states of the ports (R448, R449, R459, R445), and the accesses of host-link agents (R461). -/
namespace Sys2Proof.Machine

/-! ### `sigst` (18 R456) -/

/-- `sigst`: a release of the thread's earlier accesses; the thread is switched out until the peer
acknowledges. -/
def execSigst (rs1 rs2 : Reg) (s : State) : Result :=
  let d := s.reg rs1
  let h := s.reg rs2
  if d.toNat % 64 ≠ 0 then .next (s.trap 0x0511#16 d)
  else (s.hostRecord d.toNat 128).andThen fun r s =>
    let len := field r 8 1
    if len > 64 ∨ !zeroBytes r 9 0x40 then .next (s.illegal ((encodeXpleotte (.sigst rs1 rs2)).getD 0))
    else match s.sigTarget s.myCtx h with
      | none => .next (s.trap 0x0302#16 h)
      | some (ep, e, dva, cva) =>
        match s.spend s.myClu (s.cost [4] (len + 8)) (.thread s.cur.thr) with
        | none => .next ((s.refuse s.myClu (s.cost [4] (len + 8)) (.thread s.cur.thr)).wait .budget)
        | some s =>
          let data := ((r.drop 0x40).take len).map BitVec.toNat
          let s := s.flushMine
          match s.send (.thread s.cur.thr) s.myCtx ep e (.signal data (fieldW r 0)) dva cva h.toNat with
          | .error (c, s) => .next (s.trap c (Word.of ((e.start + 63) % 64)))
          | .ok t => .next (t.modMe fun x => { x with st := .sigst, msg := s.msgIds })

/-! ### At the peer (18 R453, R455, R458) -/

/-- A message to a data slot and counter, not an access through a window. -/
def MsgKind.isSignal : MsgKind → Bool
  | .signal _ _ => true
  | _ => false

/-- A message may be performed: it has not been, its port does not hold it in SHEDDING, and no earlier message
of its ordered stream is still to be performed. -/
def State.mayArrive (s : State) (n : Nat) (m : Msg) : Bool :=
  let before (x : Msg) : Bool :=
    x.ord && m.ord && x.src = m.src && x.dst = m.dst && x.vc = m.vc && x.answer.isNone
  m.answer.isNone && (m.src ≠ s.pkgid || (s.port m.port).st ≠ .shedding) && !(s.msgs.take n).any before

/-- A message leaves. -/
def State.dropMsg (s : State) (m : Msg) : State := { s with msgs := s.msgs.filter fun x => x.id ≠ m.id || x.src ≠ m.src }

/-- A message has its answer: one of another package is sent back, one of an SPE is counted if it failed, and
any other waits for its sender. -/
def State.answerMsg (s : State) (m : Msg) (a : BitVec 16 × List Byte) : State :=
  if m.src ≠ s.pkgid then
    let s := s.dropMsg m
    { s with sent := s.sent ++ [.answer m.src m.sctx m.local_ a.1 a.2] }
  else if m.sender = .spe then
    let s := s.dropMsg m
    if a.1 = 0 then s else s.speFailed m.sctx m.ep a.1
  else { s with msgs := s.msgs.map fun x => if x.id = m.id ∧ x.src = m.src then { x with answer := some a } else x }

/-- A message of an SPE reaches another package: whether it is performed there is left open (log entry 2). -/
def State.speElsewhere (s : State) (m : Msg) : State :=
  let w := Config.freeWord s.draws
  { s with draws := s.draws + 1 }.answerMsg m (if w.getLsbD 63 then 0 else w.extractLsb' 0 16, [])

/-- A message reaches its destination. -/
def State.arrives (s : State) (n : Nat) (signal : Bool) : State :=
  match s.msgs[n]? with
  | none => s
  | some m =>
    if m.kind.isSignal ≠ signal ∨ !s.mayArrive n m then s
    else if m.dst = s.pkgid then
      let (a, s) := s.performMsg m
      s.answerMsg m a
    else if m.sender = .spe ∧ sameSystem m.dst s.pkgid then s.speElsewhere m
    else s

/-- SIGNAL_STORE_ARRIVAL (18 R455). -/
def execSignalStoreArrival (n : Nat) (s : State) : Result := .next (s.arrives n true)

/-- WINDOW_ACCESS (18 R453). -/
def execWindowAccess (n : Nat) (s : State) : Result := .next (s.arrives n false)

/-! ### Answers (18 R453, R456) -/

/-- What came back for a message: its answer here, or that of another package; packages of different systems
never exchange traffic (18 R460). -/
def State.outcome (s : State) (m : Msg) (cause : BitVec 16) (data : List Byte) : Option (BitVec 16 × List Byte) :=
  match m.answer with
  | some a => some a
  | none => if m.dst = s.pkgid ∨ !sameSystem m.dst s.pkgid then none else some (cause, data)

/-- SIGST_ACK (18 R456): the acknowledgement or the returned cause ends the wait of a `sigst`. -/
def execSigstAck (thr : Nat) (cause : BitVec 16) (s : State) : Result :=
  match s.msgs.find? fun m => m.sender = .thread thr && m.src = s.pkgid && m.id = (s.thr thr).msg with
  | none => .next s
  | some m =>
    match s.outcome m cause [] with
    | none => .next s
    | some a =>
      let s := s.dropMsg m
      if (s.thr thr).st ≠ .sigst then .next s
      else
        let s := s.modThr thr fun t => { t with st := .ready }
        .next (if a.1 = 0 then s.modThr thr fun t => { t with pc := t.pc + 4 }
               else s.trapThr thr a.1 (Word.of m.local_))

/-- The local address of an access through a window (18 R452). -/
def State.localVa (s : State) (m : Msg) : Nat :=
  let e := Tab.getD (s.ctx m.sctx).eps m.ep {}
  e.vbase + (m.va - e.rbase)

/-- WINDOW_RESPONSE (18 R453): the answer to the oldest access of an engine reaches it; a cause makes the
engine FAULTED with the local address. -/
def execWindowResponse (eng : Nat) (cause : BitVec 16) (data : List Byte) (s : State) : Result :=
  match s.msgs.find? fun m => m.sender = .engine eng && m.src = s.pkgid && (s.outcome m cause data).isSome with
  | none => .next s
  | some m =>
    match s.outcome m cause data with
    | none => .next s
    | some a =>
      let s := s.dropMsg m
      let x := s.eng eng
      if x.own ≠ some m.sctx ∨ m.local_ % 2 ^ 16 ≠ x.serial then .next s
      else if a.1 = 0 then
        .next (s.putEng eng { x with replies := Tab.put x.replies (m.local_ / 2 ^ 16) a.2 })
      else if x.st = .faulted ∨ x.st = .done then .next s
      else .next (s.abortEngine m.sctx eng (s.localVa m / 4096) a.1 (s.localVa m))

/-! ### Ports (18 R448, R449) -/

/-- Lanes of a port that are not disabled (01 R35). -/
def State.laneMask (s : State) (p : Nat) : BitVec 2 := ~~~(s.limits.vetdis.extractLsb' (2 * p) 2)

/-- A port starts TRAINING on its enabled lanes; one without any stays as it is. -/
def State.train (s : State) (p : Nat) : State :=
  if s.laneMask p = 0#2 then s
  else s.putPort p { s.port p with st := .training, lanes := 0, since := s.gtc.toNat, widen := false }

/-- RST of a port in DOWN or FAILED; the register does not exist in the recovery state (01 R37). -/
def execPortRst (p : Nat) (s : State) : Result :=
  .next (if s.boot ≠ .recovery ∧ p < 64 ∧ ((s.port p).st = .down ∨ (s.port p).st = .failed) then s.train p else s)

/-- 20 ms of GTC. -/
def trainTime : Nat := 20000000
/-- 2 µs of GTC. -/
def shedTime : Nat := 2000

/-- The reset order ends once no port is TRAINING (17 R444). -/
def State.settleBoot (s : State) : State :=
  if s.boot = .training ∧ (s.ports.all fun p => p.2.st ≠ .training) then { s with boot := .ready } else s

/-- Training ends with both lanes, or one, passing. -/
def execTrainingComplete (p : Nat) (lanes : BitVec 2) (s : State) : Result :=
  let x := s.port p
  let l := lanes &&& s.laneMask p
  if x.st ≠ .training ∨ l = 0#2 ∨ x.since + trainTime < s.gtc.toNat then .next s
  else .next (s.putPort p { x with st := if l = 3#2 then .up else .degraded, lanes := l }).settleBoot

/-- A port is FAILED: messages on it are lost, and those of SPEs are counted (18 R459). -/
def State.failPort (s : State) (p : Nat) : State :=
  let spes := s.msgs.filter fun m => m.port = p && m.src = s.pkgid && m.sender = .spe
  let s := (s.putPort p { s.port p with st := .failed, lanes := 0 }).losePort p
  spes.foldl (fun s m => (s.dropMsg m).speFailed m.sctx m.ep 0x0801#16) s

/-- No lane passes within 20 ms. -/
def execTrainingTimeout (p : Nat) (s : State) : Result :=
  let x := s.port p
  if x.st ≠ .training ∨ s.gtc.toNat < x.since + trainTime then .next s
  else .next (s.putPort p { x with st := .failed, lanes := 0 }).settleBoot

/-- A port sheds: it retrains on some lanes. -/
def Port.shed (x : Port) (gtc : Nat) (lanes : BitVec 2) (widen : Bool) : Port :=
  let n := if x.retrain = BitVec.allOnes 16 then x.retrain else x.retrain + 1
  { x with st := .shedding, lanes := lanes, since := gtc, widen := widen, retrain := n }

/-- A lane is lost, or too error-prone. -/
def execLaneLost (p : Nat) (l : Bool) (s : State) : Result :=
  let x := s.port p
  let gone : BitVec 2 := if l then 2#2 else 1#2
  match x.st with
  | .up => .next (s.putPort p (x.shed s.gtc.toNat (x.lanes &&& ~~~gone) false))
  | .degraded => .next (if x.lanes &&& gone ≠ 0#2 then s.failPort p else s)
  | _ => .next s

/-- Flits resent, counted in REPLAY; how many is left open (log entry 2). -/
def State.resend (s : State) (p least : Nat) : State :=
  let n := least + (Config.freeWord s.draws).toNat
  let x := s.port p
  { s.putPort p { x with replay := BitVec.ofNat 32 (min (x.replay.toNat + n) (2 ^ 32 - 1)) } with
    draws := s.draws + 1 }

/-- A shedding port retrains within 2 µs and resends from its replay buffer. -/
def execShedRetrainDone (p : Nat) (s : State) : Result :=
  let x := s.port p
  if x.st ≠ .shedding ∨ x.since + shedTime < s.gtc.toNat ∨ (x.widen ∧ s.laneMask p ≠ 3#2) then .next s
  else
    let y := if x.widen then { x with st := .up, lanes := 3#2, widen := false } else { x with st := .degraded }
    .next ((s.putPort p y).resend p 0)

/-- The retrain of a shedding port fails, or takes longer than 2 µs. -/
def execShedTimeout (p : Nat) (s : State) : Result :=
  .next (if (s.port p).st = .shedding then s.failPort p else s)

/-- Firmware requests widening of a DEGRADED port. -/
def execPortWiden (p : Nat) (s : State) : Result :=
  let x := s.port p
  .next (if s.boot ≠ .recovery ∧ x.st = .degraded then s.putPort p (x.shed s.gtc.toNat x.lanes true) else s)

/-- FLIT_REFUSED (18 R445): the sender resends from the refused flit on. -/
def execFlitRefused (p : Nat) (s : State) : Result :=
  .next (if (s.port p).usable then s.resend p 1 else s)

/-! ### Host-link agents (18 R461) -/

/-- Memory that a host agent reaches: HBM through the HDM range, and host memory. -/
def State.hostReaches (s : State) (pa n : Nat) : Bool :=
  s.boot ≠ .recovery && ((regionOf pa = 0 && pa + n ≤ s.hbmSize)
    || (8 ≤ regionOf pa && regionOf pa ≤ 15 && regionOf (pa + n - 1) = regionOf pa))

/-- A host-link agent reads or writes device memory, snoops a line, or sets the MSI-X controls. -/
def execHostLinkAgentAccess (a : LinkAccess) (s : State) : Result :=
  match a with
  | .read pa len => .next (s.settle pa len)
  | .write pa bytes =>
    let n := bytes.length
    if !s.hostReaches pa n then .next s
    else .next (s.store (srcOf 64 128) pa (bytes.map BitVec.toNat) (List.replicate n 1))
  | .snoop pa => .next (s.dropLines none pa 1)
  | .msix enable mask =>
    let t := { s with sys := { s.sys with msixOn := enable, msixMask := mask } }
    .next (if enable ∧ !mask ∧ s.sys.msixPend then
      ({ t with sys := { t.sys with msixPend := false } }).signalMsix else t)

end Sys2Proof.Machine
end

