-- ==== Sys2Proof/Machine/Boot.lean ====
section
/-! DEFINITION. The cold reset (17 R444) with the configuration record (01 R35, R36), measured boot (R39), and
the recovery state's flash commands (R37). -/
namespace Sys2Proof.Machine

/-! ### The configuration record (01 R35, R36) -/

/-- Bytes of the record. -/
def recordLen : Nat := 0x190 + sigLen

/-- The configuration record at flash offset 0. -/
def State.record (s : State) : List Byte := (List.range recordLen).map fun i => Memory.read s.flash i

/-- The offset of the first non-zero byte of some. -/
def firstNonZero (r : List Byte) (os : List Nat) : Option Nat := os.find? fun o => nth r o 0#8 ≠ 0#8

/-- Reserved bytes of the record. -/
def reservedBytes : List Nat := [6, 7] ++ [0xC, 0xD, 0xE, 0xF] ++ (List.range 14).map (0x182 + ·)

/-- Why a record fails verification: REASON and OFFSET of RSTAT (01 R36, R37). The checks run in the order of the cases
of R36, the signature last, and a TREL that is not less than TCRIT reports its own offset, 0x181;
the spec gives neither the order nor that offset (log entry 37). -/
def recordDefect (r : List Byte) : Option (Nat × Nat) :=
  if field r 0 4 ≠ 0x52434C4F then some (1, 0)
  else if field r 4 2 ≠ 1 then some (1, 4)
  else match firstNonZero r reservedBytes with
    | some o => some (2, o)
    | none =>
      match ((List.range 64).map (0x18 + ·)).find? fun o => (nth r o 0#8).toNat > 0x10 with
      | some o => some (2, o)
      | none =>
        if field r 0x180 1 ≤ field r 0x181 1 then some (2, 0x181)
        else if !Config.mlDsaVerify (Config.shake256 (r.take 0x190)) ((r.drop 0x190).take sigLen) then some (3, 0xFFFF)
        else none

/-- The limits that a record carries. -/
def parseLimits (r : List Byte) : Limits :=
  { coreret := BitVec.ofNat 1024 (field r 0x58 128), copydis := BitVec.ofNat 128 (field r 0x118 16),
    lanedis := BitVec.ofNat 512 (field r 0x128 64), vetdis := BitVec.ofNat 128 (field r 0x168 16),
    psust := BitVec.ofNat 16 (field r 0x178 2), psprint := BitVec.ofNat 16 (field r 0x17A 2),
    opmin := BitVec.ofNat 32 (field r 0x17C 4), tcrit := nth r 0x180 0#8, trel := nth r 0x181 0#8 }

/-! ### The cold reset (17 R444) -/

/-- What stays through a cold reset: module flash, host memory, the free values not yet drawn, and what the
machine has sent; every register is at its reset value. -/
def State.powerOn (s : State) : State :=
  let fw : Fw := { active := s.fw.active, fwver := s.fw.fwver, svn := s.fw.svn, good := s.fw.good, images := s.fw.images }
  { State.reset with flash := s.flash, fw := fw, mem := s.mem.filter (fun c => 8 ≤ regionOf c.1), draws := s.draws,
                     sched := s.sched, sent := s.sent }

/-- The recovery state with its reason (01 R37). -/
def State.recover (s : State) (reason offset : Nat) : State :=
  { s with boot := .recovery, recov := { rstat := Word.of (offset * 2 ^ 16 + reason) } }

/-- The boot ROM runs the image of a slot: one that FWLOAD put there whole, and whose signature verifies now
(01 R39). -/
def Fw.runs (f : Fw) (slotB : Bool) : Bool :=
  nth f.good (if slotB then 1 else 0) false && imageOk (f.image slotB) && imageSigned (f.image slotB)

/-- The firmware of the active slot is measured and started; the ports have still to train. -/
def State.startUp (s : State) : State :=
  let img := s.fw.image s.fw.active
  { (s.startFw s.fw.active).extend 3 (fwPart img 2) with boot := .training }

/-- The ports train in the reset order, unless they do already; PKGID can be written before (17 R444, 18 R447; log
entry 5). -/
def State.trainPorts (s : State) : State :=
  if s.boot = .training ∧ (s.ports.all fun p => p.2.st = .down) then
    ((List.range 64).foldl State.train s).settleBoot
  else s

/-- COLD_RESET: a module whose active slot holds no verified image stays as it is after power-on (log
entry 5). -/
def execColdReset (s : State) : Result :=
  let s := s.powerOn
  let puf := Config.pufOk s.draws
  let s := { s with draws := s.draws + 2, saveKey := (Config.freeWord (s.draws + 1)).toNat }
  if !puf then .next (s.recover 4 0xFFFF)
  else
    let s := { s with identKey := some (Config.identityKey s.flash) }
    let r := s.record
    match recordDefect r with
    | some (reason, offset) => .next (s.recover reason offset)
    | none =>
      let s := ({ s with limits := parseLimits r, chanRet := BitVec.ofNat 512 (field r 0xD8 64) }).extend 0 (r.take 0x190)
      .next (if s.fw.runs s.fw.active then s.startUp else s)

/-! ### Attestation and what firmware does of its own accord (01 R36, R38, R39) -/

/-- The SERIAL field of the configuration record (01 R35). -/
def serialBytes (r : List Byte) : List Byte := (r.drop 0x10).take 8

/-- The attestation quote over a nonce: a signature under the identity key over the digest of M0 to M7, SERIAL and
the nonce (01 R39); none without a key, or for a nonce above 64 bytes. -/
def State.quote (s : State) (nonce : List Byte) : Option (List Byte) :=
  match s.identKey with
  | none => none
  | some k =>
    if nonce.length > 64 then none
    else some (Config.mlDsaSign k
      (Config.shake256 (s.meas.flatMap measBytes ++ serialBytes s.record ++ nonce)))

/-- Firmware, or the fixed logic beside it, acts: only on a module that runs firmware (01 R37). -/
def State.firmwareMove (s : State) (a : FwAct) : State :=
  if !s.fwRuns then s
  else match a with
    | .extend i item => if 4 ≤ i ∧ i ≤ 7 then s.extend i item else s
    | .tighten l => if s.limits.tighter l then { s with limits := l } else s
    | .quote nonce =>
      match s.quote nonce with
      | some sig => { s with sent := s.sent ++ [.quote sig] }
      | none => s
    | .overPower w sus rail op buds => s.overPower w sus rail op buds

/-! ### Flash commands of the recovery state (01 R37) -/

/-- A flash command starts on the sector at FLOFF with the window's bytes: both are taken as it starts, so that a write
of FLOFF or of the window while BUSY does not reach it, which R37 leaves open (DESIGN CHOICE, log entry 86). -/
def State.startFlash (s : State) (code : Nat) : State :=
  if s.boot ≠ .recovery ∨ s.recov.busy ≠ 0 then s
  else { s with recov := { s.recov with busy := code, err := false, sector := s.recov.floff.toNat,
                                        data := s.recov.window } }

/-- FLASH_ERASE. -/
def execFlashErase (s : State) : Result := .next (s.startFlash 1)
/-- FLASH_PROGRAM. -/
def execFlashProgram (s : State) : Result := .next (s.startFlash 2)

/-- The bytes that a flash command leaves in its sector: those of the window; or, erased or failed, bytes that
the spec does not state (log entry 50). -/
def State.flashBytes (s : State) (err : Bool) (i : Nat) : Byte :=
  if s.recov.busy = 2 ∧ !err then Memory.read s.recov.data i else Config.flashByte s.draws (s.recov.sector + i)

/-- FLASH_DONE. The spec does not say where the firmware slots lie in module flash: no command reaches them here (DESIGN
CHOICE, log entry 86). -/
def execFlashDone (err : Bool) (s : State) : Result :=
  if s.boot ≠ .recovery ∨ s.recov.busy = 0 then .next s
  else
    let f := (List.range 4096).foldl (fun m i => Memory.write m (s.recov.sector + i) (s.flashBytes err i)) s.flash
    .next { s with flash := f, recov := { s.recov with busy := 0, err := err }, draws := s.draws + 1 }

end Sys2Proof.Machine
end

