-- ==== Sys2Proof/Machine/Dispatch.lean ====
section
/-! DEFINITION. One arm per constructor of `Instr`: each a direct call of its meaning. -/
namespace Sys2Proof.Machine

/-- The meaning of an instruction on the unit that is on the move. -/
def exec (i : Instr) (s : State) : Host.Outcome State Fault Refusal :=
  match i with
  -- custom-0 (04_encodings R115)
  | .kld rd rs1 => Sys2Proof.Machine.execKld rd rs1 s
  | .kfork rd rs1 => Sys2Proof.Machine.execKfork rd rs1 s
  | .krdv rd rs1 => Sys2Proof.Machine.execKrdv rd rs1 s
  | .karg rs1 rs2 => Sys2Proof.Machine.execKarg rs1 rs2 s
  | .kstop rs1 => Sys2Proof.Machine.execKstop rs1 s
  | .kres rs1 => Sys2Proof.Machine.execKres rs1 s
  | .kstat rd rs1 => Sys2Proof.Machine.execKstat rd rs1 s
  | .cstart rd rs1 => Sys2Proof.Machine.execCstart rd rs1 s
  | .cstep rs1 rs2 => Sys2Proof.Machine.execCstep rs1 rs2 s
  | .cwait rs1 rs2 => Sys2Proof.Machine.execCwait rs1 rs2 s
  | .cadd rs1 rs2 => Sys2Proof.Machine.execCadd rs1 rs2 s
  | .cstat rd rs1 => Sys2Proof.Machine.execCstat rd rs1 s
  | .cpub sc rs1 => Sys2Proof.Machine.execCpub sc rs1 s
  | .binit rs1 rs2 => Sys2Proof.Machine.execBinit rs1 rs2 s
  | .barr rs1 => Sys2Proof.Machine.execBarr rs1 s
  | .bwait rd rs1 => Sys2Proof.Machine.execBwait rd rs1 s
  | .bpois rs1 => Sys2Proof.Machine.execBpois rs1 s
  | .mwait c rd rs1 rs2 => Sys2Proof.Machine.execMwait c rd rs1 rs2 s
  | .gstep rs1 rs2 => Sys2Proof.Machine.execGstep rs1 rs2 s
  | .gabort rs1 rs2 => Sys2Proof.Machine.execGabort rs1 rs2 s
  | .gtab rd rs1 => Sys2Proof.Machine.execGtab rd rs1 s
  | .lease rd rs1 rs2 => Sys2Proof.Machine.execLease rd rs1 rs2 s
  | .qsub rd rs1 rs2 => Sys2Proof.Machine.execQsub rd rs1 rs2 s
  | .lstart rd rs1 rs2 => Sys2Proof.Machine.execLstart rd rs1 rs2 s
  | .lstat rd rs1 => Sys2Proof.Machine.execLstat rd rs1 s
  -- custom-1 (04_encodings R116)
  | .lda sc rd rs1 => Sys2Proof.Machine.execLda sc rd rs1 s
  | .stl sc rs1 rs2 => Sys2Proof.Machine.execStl sc rs1 rs2 s
  | .pfence sc => Sys2Proof.Machine.execPfence sc s
  | .patom op ty rd rs1 rs2 => Sys2Proof.Machine.execPatom op ty rd rs1 rs2 s
  | .predF32 rs1 rs2 => Sys2Proof.Machine.execPredF32 rs1 rs2 s
  | .predFx rs1 rs2 => Sys2Proof.Machine.execPredFx rs1 rs2 s
  | .stmc rs1 rs2 => Sys2Proof.Machine.execStmc rs1 rs2 s
  | .rchk rd rs1 => Sys2Proof.Machine.execRchk rd rs1 s
  | .sigst rs1 rs2 => Sys2Proof.Machine.execSigst rs1 rs2 s
  -- host-thread events
  -- op-ring ops of the PE slots
  | .nop kind f => Sys2Proof.Machine.execNop kind f s
  -- CPE (06_product_pe R160)
  | .mulw f => Sys2Proof.Machine.execMulw f s
  | .muls f => Sys2Proof.Machine.execMuls f s
  | .mulc f => Sys2Proof.Machine.execMulc f s
  | .dotx f => Sys2Proof.Machine.execDotx f s
  | .outer f => Sys2Proof.Machine.execOuter f s
  | .outerz f => Sys2Proof.Machine.execOuterz f s
  | .fold f => Sys2Proof.Machine.execFold f s
  | .pack f => Sys2Proof.Machine.execPack f s
  | .xtrc f => Sys2Proof.Machine.execXtrc f s
  | .addw f => Sys2Proof.Machine.execAddw f s
  | .subw f => Sys2Proof.Machine.execSubw f s
  | .shlw f => Sys2Proof.Machine.execShlw f s
  | .shrw f => Sys2Proof.Machine.execShrw f s
  | .clzw f => Sys2Proof.Machine.execClzw f s
  | .rndw f => Sys2Proof.Machine.execRndw f s
  | .sclda f => Sys2Proof.Machine.execSclda f s
  | .scldb f => Sys2Proof.Machine.execScldb f s
  | .accrd f => Sys2Proof.Machine.execAccrd f s
  | .accwr f => Sys2Proof.Machine.execAccwr f s
  | .accclr f => Sys2Proof.Machine.execAccclr f s
  | .drn f => Sys2Proof.Machine.execDrn f s
  | .bsel f => Sys2Proof.Machine.execBsel f s
  | .rowp f => Sys2Proof.Machine.execRowp f s
  | .gwset f => Sys2Proof.Machine.execGwset f s
  | .cset f => Sys2Proof.Machine.execCset f s
  -- APE (07_arith_seq_pe R191)
  | .add f => Sys2Proof.Machine.execAdd f s
  | .sub f => Sys2Proof.Machine.execSub f s
  | .adds f => Sys2Proof.Machine.execAdds f s
  | .subs f => Sys2Proof.Machine.execSubs f s
  | .mul f => Sys2Proof.Machine.execMul f s
  | .mulh f => Sys2Proof.Machine.execMulh f s
  | .mad f => Sys2Proof.Machine.execMad f s
  | .min f => Sys2Proof.Machine.execMin f s
  | .max f => Sys2Proof.Machine.execMax f s
  | .abs f => Sys2Proof.Machine.execAbs f s
  | .neg f => Sys2Proof.Machine.execNeg f s
  | .and f => Sys2Proof.Machine.execAnd f s
  | .or f => Sys2Proof.Machine.execOr f s
  | .xor f => Sys2Proof.Machine.execXor f s
  | .andn f => Sys2Proof.Machine.execAndn f s
  | .shl f => Sys2Proof.Machine.execShl f s
  | .shr f => Sys2Proof.Machine.execShr f s
  | .sra f => Sys2Proof.Machine.execSra f s
  | .rot f => Sys2Proof.Machine.execRot f s
  | .cmp f => Sys2Proof.Machine.execCmp f s
  | .sel f => Sys2Proof.Machine.execSel f s
  | .cnt f => Sys2Proof.Machine.execCnt f s
  | .lzc f => Sys2Proof.Machine.execLzc f s
  | .fadd f => Sys2Proof.Machine.execFadd f s
  | .fsub f => Sys2Proof.Machine.execFsub f s
  | .fmul f => Sys2Proof.Machine.execFmul f s
  | .fma f => Sys2Proof.Machine.execFma f s
  | .fmin f => Sys2Proof.Machine.execFmin f s
  | .fmax f => Sys2Proof.Machine.execFmax f s
  | .fcmp f => Sys2Proof.Machine.execFcmp f s
  | .frcp f => Sys2Proof.Machine.execFrcp f s
  | .frsq f => Sys2Proof.Machine.execFrsq f s
  | .fexp2 f => Sys2Proof.Machine.execFexp2 f s
  | .flog2 f => Sys2Proof.Machine.execFlog2 f s
  | .fcvt f => Sys2Proof.Machine.execFcvt f s
  | .bcast f => Sys2Proof.Machine.execBcast f s
  | .perm f => Sys2Proof.Machine.execPerm f s
  | .shufl f => Sys2Proof.Machine.execShufl f s
  | .rsum f => Sys2Proof.Machine.execRsum f s
  | .rmax f => Sys2Proof.Machine.execRmax f s
  | .rmin f => Sys2Proof.Machine.execRmin f s
  | .zip f => Sys2Proof.Machine.execZip f s
  | .unzip f => Sys2Proof.Machine.execUnzip f s
  | .ext f => Sys2Proof.Machine.execExt f s
  | .tunp f => Sys2Proof.Machine.execTunp f s
  | .tacc f => Sys2Proof.Machine.execTacc f s
  | .sat f => Sys2Proof.Machine.execSat f s
  | .clamp f => Sys2Proof.Machine.execClamp f s
  | .mov f => Sys2Proof.Machine.execMov f s
  | .mask f => Sys2Proof.Machine.execMask f s
  | .iota f => Sys2Proof.Machine.execIota f s
  | .lut f => Sys2Proof.Machine.execLut f s
  -- SPE (07_arith_seq_pe R212)
  | .pset f => Sys2Proof.Machine.execPset f s
  | .pcmp f => Sys2Proof.Machine.execPcmp f s
  | .pand f => Sys2Proof.Machine.execPand f s
  | .por f => Sys2Proof.Machine.execPor f s
  | .pnot f => Sys2Proof.Machine.execPnot f s
  | .iter f => Sys2Proof.Machine.execIter f s
  | .vcc f => Sys2Proof.Machine.execVcc f s
  | .sadd f => Sys2Proof.Machine.execSadd f s
  | .ssub f => Sys2Proof.Machine.execSsub f s
  | .sshl f => Sys2Proof.Machine.execSshl f s
  | .speBarr f => Sys2Proof.Machine.execSpeBarr f s
  | .bwt f => Sys2Proof.Machine.execBwt f s
  | .speSigst f => Sys2Proof.Machine.execSpeSigst f s
  | .kexit f => Sys2Proof.Machine.execKexit f s
  | .trapk f => Sys2Proof.Machine.execTrapk f s
  | .speHint f => Sys2Proof.Machine.execSpeHint f s
  -- MPE (08_stream R246)
  | .ld f => Sys2Proof.Machine.execLd f s
  | .ldk f => Sys2Proof.Machine.execLdk f s
  | .unf f => Sys2Proof.Machine.execUnf f s
  | .st f => Sys2Proof.Machine.execSt f s
  | .stk f => Sys2Proof.Machine.execStk f s
  | .ldx f => Sys2Proof.Machine.execLdx f s
  | .stx f => Sys2Proof.Machine.execStx f s
  | .lds f => Sys2Proof.Machine.execLds f s
  | .sts f => Sys2Proof.Machine.execSts f s
  | .atm f => Sys2Proof.Machine.execAtm f s
  | .sbar f => Sys2Proof.Machine.execSbar f s
  | .sadv f => Sys2Proof.Machine.execSadv f s
  | .pfh f => Sys2Proof.Machine.execPfh f s
  | .wsync f => Sys2Proof.Machine.execWsync f s
  | .vmsk f => Sys2Proof.Machine.execVmsk f s
  -- DPE op ring (09_drain R279, R280)
  | .dcvsOp f => Sys2Proof.Machine.execDcvsOp f s
  | .mpx8 f => Sys2Proof.Machine.execMpx8 f s
  | .mpx16 f => Sys2Proof.Machine.execMpx16 f s
  -- drain words (09_drain R265)
  | .dld dd => Sys2Proof.Machine.execDld dd s
  | .dldStream dd m st => Sys2Proof.Machine.execDldStream dd m st s
  | .dscl dd da db lt rm sat j => Sys2Proof.Machine.execDscl dd da db lt rm sat j s
  | .dbias dd da db lt rm sat nb => Sys2Proof.Machine.execDbias dd da db lt rm sat nb s
  | .dact dd da db rm sat fn => Sys2Proof.Machine.execDact dd da db rm sat fn s
  | .dclp dd da db lt j => Sys2Proof.Machine.execDclp dd da db lt j s
  | .dmax dd da db lt abs => Sys2Proof.Machine.execDmax dd da db lt abs s
  | .dmaxGrp dd da lt abs => Sys2Proof.Machine.execDmaxGrp dd da lt abs s
  | .dqnt dd da fmt sat rm => Sys2Proof.Machine.execDqnt dd da fmt sat rm s
  | .dqntScl dd da db fmt sat rm => Sys2Proof.Machine.execDqntScl dd da db fmt sat rm s
  | .dqntMks dd da fmt sat rm => Sys2Proof.Machine.execDqntMks dd da fmt sat rm s
  | .dcvt dd da db dlt rm sat slt hi => Sys2Proof.Machine.execDcvt dd da db dlt rm sat slt hi s
  | .dpack dd da cs => Sys2Proof.Machine.execDpack dd da cs s
  | .dmpk dd da nz80 w16 => Sys2Proof.Machine.execDmpk dd da nz80 w16 s
  | .dst da gf m st => Sys2Proof.Machine.execDst da gf m st s
  | .dloop g => Sys2Proof.Machine.execDloop g s
  | .dmov dd da => Sys2Proof.Machine.execDmov dd da s
  | .dmovImm dd fl v => Sys2Proof.Machine.execDmovImm dd fl v s
  | .dadd dd da db lt rm sat => Sys2Proof.Machine.execDadd dd da db lt rm sat s
  | .dmul dd da db lt rm sat => Sys2Proof.Machine.execDmul dd da db lt rm sat s
  | .dsel dd da db lt => Sys2Proof.Machine.execDsel dd da db lt s
  | .dcvs dd da q sat tgt => Sys2Proof.Machine.execDcvs dd da q sat tgt s
  | .dtab dd da db rm sat => Sys2Proof.Machine.execDtab dd da db rm sat s
  -- events of a timing domain; the domain is the one on the move
  | .foldComplete core cpe bank => Sys2Proof.Machine.execFoldComplete core cpe bank s
  | .placementPass cluster => Sys2Proof.Machine.execPlacementPass cluster s
  | .streamFillReturn core m st pos => Sys2Proof.Machine.execStreamFillReturn core m st pos s
  | .remoteArrival n => Sys2Proof.Machine.execRemoteArrival n s
  | .faultTimeout ctx fid => Sys2Proof.Machine.execFaultTimeout ctx fid s
  -- copy entries; the engine is the one on the move (10_copy R287)
  | .move e => Sys2Proof.Machine.execMove e s
  | .movec e => Sys2Proof.Machine.execMovec e s
  | .gath e => Sys2Proof.Machine.execGath e s
  | .scat e => Sys2Proof.Machine.execScat e s
  | .fill e => Sys2Proof.Machine.execFill e s
  | .redu e => Sys2Proof.Machine.execRedu e s
  | .pub e => Sys2Proof.Machine.execPub e s
  | .copyCnt e => Sys2Proof.Machine.execCopyCnt e s
  | .waits e => Sys2Proof.Machine.execWaits e s
  -- memory and error events
  | .predBankAdd n => Sys2Proof.Machine.execPredBankAdd n s
  | .atmBankOp n => Sys2Proof.Machine.execAtmBankOp n s
  | .codecMerge n => Sys2Proof.Machine.execCodecMerge n s
  | .wcBufferDrain n => Sys2Proof.Machine.execWcBufferDrain n s
  | .uncorrectableError pa => Sys2Proof.Machine.execUncorrectableError pa s
  | .channelFail ch => Sys2Proof.Machine.execChannelFail ch s
  -- system commands (17_queue R429)
  | .inval h va pages => Sys2Proof.Machine.execInval h va pages s
  | .frameset pa count attr => Sys2Proof.Machine.execFrameset pa count attr s
  | .replay h fid => Sys2Proof.Machine.execReplay h fid s
  | .abort h fid => Sys2Proof.Machine.execAbort h fid s
  | .create h obj => Sys2Proof.Machine.execCreate h obj s
  | .start h => Sys2Proof.Machine.execStart h s
  | .save h => Sys2Proof.Machine.execSave h s
  | .restore h => Sys2Proof.Machine.execRestore h s
  | .kill h => Sys2Proof.Machine.execKill h s
  | .assign res h first count => Sys2Proof.Machine.execAssign res h first count s
  | .reclaim res h first count mask => Sys2Proof.Machine.execReclaim res h first count mask s
  | .qctlEnable h q => Sys2Proof.Machine.execQctlEnable h q s
  | .qctlDisable h q => Sys2Proof.Machine.execQctlDisable h q s
  | .qctlReset h q => Sys2Proof.Machine.execQctlReset h q s
  | .fwload pa len => Sys2Proof.Machine.execFwload pa len s
  | .fwCommit v => Sys2Proof.Machine.execFwCommit v s
  -- context events
  | .arbiterAck h n => Sys2Proof.Machine.execArbiterAck h n s
  -- queues (17_queue R432 to R438); the queue is the one on the move
  | .kickWrite pqn v bytes => Sys2Proof.Machine.execKickWrite pqn v bytes s
  | .launch e => Sys2Proof.Machine.execLaunch e s
  | .timetable e => Sys2Proof.Machine.execTimetable e s
  | .copy e => Sys2Proof.Machine.execCopy e s
  | .lane e => Sys2Proof.Machine.execLane e s
  | .wait e => Sys2Proof.Machine.execWait e s
  | .signal e => Sys2Proof.Machine.execSignal e s
  | .mark e => Sys2Proof.Machine.execMark e s
  | .fence e => Sys2Proof.Machine.execFence e s
  | .queueEntryComplete idx => Sys2Proof.Machine.execQueueEntryComplete idx s
  | .timetableUnitStart idx unit => Sys2Proof.Machine.execTimetableUnitStart idx unit s
  -- device registers
  | .registerWrite src off bytes v => Sys2Proof.Machine.execRegisterWrite src off bytes v s
  | .portRst p => Sys2Proof.Machine.execPortRst p s
  | .energySelect bar v => Sys2Proof.Machine.execEnergySelect bar v s
  | .eloRead bar bytes => Sys2Proof.Machine.execEloRead bar bytes s
  | .flashDone err => Sys2Proof.Machine.execFlashDone err s
  -- Vetar
  | .signalStoreArrival n => Sys2Proof.Machine.execSignalStoreArrival n s
  | .sigstAck thr cause => Sys2Proof.Machine.execSigstAck thr cause s
  | .windowAccess n => Sys2Proof.Machine.execWindowAccess n s
  | .windowResponse eng cause data => Sys2Proof.Machine.execWindowResponse eng cause data s
  | .trainingComplete p lanes => Sys2Proof.Machine.execTrainingComplete p lanes s
  | .trainingTimeout p => Sys2Proof.Machine.execTrainingTimeout p s
  | .laneLost p l => Sys2Proof.Machine.execLaneLost p l s
  | .shedRetrainDone p => Sys2Proof.Machine.execShedRetrainDone p s
  | .shedTimeout p => Sys2Proof.Machine.execShedTimeout p s
  | .portWiden p => Sys2Proof.Machine.execPortWiden p s
  -- groups
  | .abortToken ctx g origin reason => Sys2Proof.Machine.execAbortToken ctx g origin reason s
  | .cstepReport ctx g pkg step => Sys2Proof.Machine.execCstepReport ctx g pkg step s
  | .agreementTimeout ctx g => Sys2Proof.Machine.execAgreementTimeout ctx g s
  | .agreementResult ctx g step nexcl => Sys2Proof.Machine.execAgreementResult ctx g step nexcl s
  -- power
  | .meltUpdate m => Sys2Proof.Machine.execMeltUpdate m s
  | .opChange rail op => Sys2Proof.Machine.execOpChange rail op s
  | .thermalCritical tj => Sys2Proof.Machine.execThermalCritical tj s
  | .thermalRelease tj => Sys2Proof.Machine.execThermalRelease tj s
  -- lanes; the lane is the one on the move
  -- the base host instruction set
  | .hostInstruction r compressed => Sys2Proof.Machine.execHostInstruction r compressed s
  | .flitRefused p => Sys2Proof.Machine.execFlitRefused p s
  | .hostLinkAgentAccess a => Sys2Proof.Machine.execHostLinkAgentAccess a s
  -- rows without a field; the unit they concern is the one on the move
  | .hret => Sys2Proof.Machine.execHret s
  | .yield => Sys2Proof.Machine.execYield s
  | .lrel => Sys2Proof.Machine.execLrel s
  | .hintC => Sys2Proof.Machine.execHintC s
  | .hintM => Sys2Proof.Machine.execHintM s
  | .hintW => Sys2Proof.Machine.execHintW s
  | .poolmk => Sys2Proof.Machine.execPoolmk s
  | .pfenceSc => Sys2Proof.Machine.execPfenceSc s
  | .asyncTrapDeliver => Sys2Proof.Machine.execAsyncTrapDeliver s
  | .hostMissReturn => Sys2Proof.Machine.execHostMissReturn s
  | .watchFire => Sys2Proof.Machine.execWatchFire s
  | .krdvWake => Sys2Proof.Machine.execKrdvWake s
  | .dend => Sys2Proof.Machine.execDend s
  | .land => Sys2Proof.Machine.execLand s
  | .rotate => Sys2Proof.Machine.execRotate s
  | .moveComplete => Sys2Proof.Machine.execMoveComplete s
  | .forkAccepted => Sys2Proof.Machine.execForkAccepted s
  | .domainResume => Sys2Proof.Machine.execDomainResume s
  | .drainBeat => Sys2Proof.Machine.execDrainBeat s
  | .drainPadWrite => Sys2Proof.Machine.execDrainPadWrite s
  | .faultQueueSpace => Sys2Proof.Machine.execFaultQueueSpace s
  | .copyArmedStart => Sys2Proof.Machine.execCopyArmedStart s
  | .copyBeat => Sys2Proof.Machine.execCopyBeat s
  | .waitsSatisfied => Sys2Proof.Machine.execWaitsSatisfied s
  | .fwswitch => Sys2Proof.Machine.execFwswitch s
  | .fwWatchdog => Sys2Proof.Machine.execFwWatchdog s
  | .contextLoaded => Sys2Proof.Machine.execContextLoaded s
  | .saveComplete => Sys2Proof.Machine.execSaveComplete s
  | .restoreCommit => Sys2Proof.Machine.execRestoreCommit s
  | .msixUnmask => Sys2Proof.Machine.execMsixUnmask s
  | .outboundLock => Sys2Proof.Machine.execOutboundLock s
  | .flashErase => Sys2Proof.Machine.execFlashErase s
  | .flashProgram => Sys2Proof.Machine.execFlashProgram s
  | .coldReset => Sys2Proof.Machine.execColdReset s
  | .intervalEnd => Sys2Proof.Machine.execIntervalEnd s
  | .leaseExpiry => Sys2Proof.Machine.execLeaseExpiry s
  | .laneByteStep => Sys2Proof.Machine.execLaneByteStep s
  | .laneCommit => Sys2Proof.Machine.execLaneCommit s
  | .meltSensorFault => Sys2Proof.Machine.execMeltSensorFault s

end Sys2Proof.Machine
end

