-- ==== Sys2Proof/Machine/Agents.lean ====
section
/-! DEFINITION. What each agent does when it moves (log entry 1): a host thread, a timing domain, a copy engine,
the front end of a queue, the command interface, a lane, the GTC, messages of other packages, and events; and
how the host places one instruction word. -/
namespace Sys2Proof.Machine

/-! ### Host threads -/

/-- A thread is held in a wait at its instruction, which has had no effect (16 R420). -/
def Thr.waits (t : Thr) : Bool :=
  match t.st with
  | .krdv _ | .kfork _ | .cwait | .bwait | .mwait | .faultWait => true
  | .off | .ready | .miss _ _ | .budget | .sigst | .stopped => false

/-- A host thread has something to do: it is ready, or a cause has arrived in its wait; its context runs, and no group
abort holds it outside a handler (16 R403, R420; 14 R384). -/
def State.canIssue (s : State) (t : Nat) : Bool :=
  let h := s.thr t
  (h.st = .ready || (h.waits && h.inbox ≠ [])) && (s.ctx h.ctx).st = .running
    && (h.holds.isEmpty || (h.act && !s.atHret t))

/-- The thread that a host core issues from: the one whose turn it is, else the next that can issue, taken round-robin:
a thread keeps the turn until it cannot issue or yields (08 R245, 16 R425; log entry 78). -/
def State.issuer (s : State) (clu : Nat) : Option Nat :=
  ((List.range 16).map fun i => 16 * clu + ((s.clu clu).turn + i) % 16).find? s.canIssue

/-- A host thread may issue. -/
def State.mayIssue (s : State) (t : Nat) : Bool := s.issuer (cluOf t) = some t

/-- A host thread moves, if it may: a cause that has arrived is delivered before its next instruction, or at the one it
waits in (16 R420, R422); else the instruction at its program counter executes, or its fetch ends in a cause. -/
def State.hostMove (s : State) (t : Nat) : Result :=
  if !s.mayIssue t then .next s
  else
    let s := { s.giveTurn (cluOf t) t with cur := { s.cur with thr := t } }
    if s.me.inbox ≠ [] then exec .asyncTrapDeliver s
    else match s.fetch with
      | .instr i s => exec i s
      | .stop cause info => .next (s.raise cause info .fetch)

/-! ### Timing domains -/

/-- The instruction of a site, if it is one. -/
def siteInstr (k : Kernel) (s : State) : Site → Option Instr
  | .op c sl =>
    let (opc, f) := (k.slotCfg c sl).at_ k.ms
    opInstr (slotKind sl) opc f
  | .word _ _ => s.drainEnv.bind fun e => decodeDrain? (nth e.d.image e.idx 0#32)
  | .beat _ => some .drainBeat
  | .pad _ => some .drainPadWrite

/-- The next site of a cycle acts. -/
def State.siteMove (s : State) (ctx kh : Nat) (k : Kernel) (x : Site) (rest : List Site) : Result :=
  let t := (s.modRun ctx kh fun r => { r with todo := rest }).atSite ctx kh k x
  match siteInstr k t x with
  | some i => exec i t
  | none => .next t

/-- A timing domain moves (05 R135 to R145). -/
def State.domainMove (s : State) (ctx kh : Nat) : Result :=
  match s.kernel? ctx kh with
  | none => .next s
  | some k =>
    if k.state ≠ .running ∨ !(s.ctx ctx).st.moves then .next s
    else
      let s := { s with cur := { s.cur with ctx := ctx, kern := kh, beat := none } }
      match k.run.phase with
      | .rotate => exec .rotate s
      | .check => exec .domainResume s
      | .issue =>
        match k.run.todo with
        | [] => exec .land s
        | x :: rest => s.siteMove ctx kh k x rest
      | .beats =>
        match s.beatsDue k with
        | [] => exec .land s
        | en :: _ =>
          let t := { s with cur := { s.cur with eng := en } }
          if (t.eng en).st = .armed then exec .copyArmedStart t else exec .copyBeat t

/-! ### Copy engines and lanes -/

/-- A free-running copy engine moves (10 R286, R287, R303); TIMED ones move with their domain. -/
def State.copyMove (s : State) (en : Nat) : Result :=
  let x := s.eng en
  let s := { s with cur := { s.cur with eng := en } }
  if !(x.own.any fun c => (s.ctx c).st.moves) then .next s
  else if x.bound.isSome then .next (s.settleEngine en)
  else if x.halted then .next (s.modEng en Engine.stopAt)
  else if x.st = .waiting then exec .waitsSatisfied s
  else if x.st ≠ .running ∨ x.launch.timed then .next s
  else match s.fetchEntry en with
    | .ok p s =>
      match copyKind p.1 p.2 with
      | some i => exec i s
      | none => .next s
    | .wait s => .next s
    | .fault cause info s => .next (s.faultEngine en cause info)

/-- A lane moves: it commits once every chunk is complete, else it runs a step (20 R488, R490). -/
def State.laneMove (s : State) (l : Nat) : Result :=
  let x := s.lane l
  let s := { s with cur := { s.cur with lane := l } }
  let ended : Bool := x.st = .running && x.loaded && x.complete && !x.halted && x.failing.isNone && x.bound ≠ some .failed
  if ended then exec .laneCommit s else exec .laneByteStep s

/-! ### Queues, commands, time -/

/-- The front end moves for a queue (17 R433 to R438). -/
def State.queueGo (s : State) (ctx q : Nat) : Result :=
  match s.queueMove ctx q with
  | none => .next s
  | some (.run i) => exec i { s with cur := { s.cur with ctx := ctx, queue := q } }
  | some (.fail err cause info) => .next (s.entryError ctx q err cause (s.queue ctx q).cons info)

/-- The next command executes, once the one before it has completed: none in an emergency or before the reset
order has ended (17 R428, R429, R442, R444; 19 R474). -/
def State.commandMove (s : State) : Result :=
  if s.boot ≠ .ready ∨ s.pow.hold ∨ s.sys.busy.isSome ∨ !s.sys.done.ult s.sys.kick then .next s
  else if !s.recordReadable s.cmdRecord then .next (s.finish 1)
  else match decodeCommand (s.ringBytes s.cmdRecord) with
    | .error _ => .next (s.finish 1)
    | .ok i => exec i s

/-- The TSTARTs of timetable units that have not started. -/
def State.starts (s : State) : List Nat :=
  s.ctxs.flatMap fun c =>
    if !c.2.st.keepsTime then []
    else c.2.queues.flatMap fun q => q.2.tables.flatMap fun t =>
      (t.units.filter fun u => !u.started).map TtUnit.tstart

/-- The GTC after n ticks: it does not pass the start of a timetable's unit before the unit has started or the
timetable has slipped (17 R438), nor the end of a trial before the watchdog has acted (17 R442). -/
def State.gtcAfter (s : State) (n : Nat) : Nat :=
  (s.starts ++ s.fw.deadline.toList).foldl (fun g t => min g (max t s.gtc.toNat)) (s.gtc.toNat + n)

/-! ### Messages of other packages, events -/

/-- A message of another package comes in on a port: fixed logic stamps its source (18 R445, R450, R460). -/
def State.takeMsg (s : State) (m : Msg) : State :=
  if s.boot ≠ .ready ∨ m.src = s.pkgid ∨ m.dst ≠ s.pkgid ∨ !sameSystem m.src s.pkgid
      ∨ !(s.port (m.port % 64)).usable ∨ (s.msgs.any fun x => x.src = m.src && x.id = m.id) then s
  else { s with msgs := s.msgs ++ [{ m with sender := .remote, answer := none }] }

/-! ### Errors in stores and on paths (13 R377) -/

/-- A second parity error of a transfer that a thread makes or waits on, or that an engine or a lane waits on, at a
core; an uncorrectable error in a word of a stream's window: the word of a LOAD stream fails, that of a STORE stream
does when it is read (13 R378, 08 R241), the physical address of a window word is left open (log entry 70); a parity
error in an RRF entry that has no copy (05 R150). -/
def State.upsetMove (s : State) : Upset → State
  | .thread t core =>
    match (s.thr t).st with
    | .miss _ _ => (s.modThr t fun h => { h with st := .ready }).trapThr t 0x0404#16 (Word.of core)
    | .off => s
    | _ => s.modThr t fun h => { h with upset := some core }
  | .entry ctx kh pe n => if n < 32 then s.modPe ctx kh pe fun p => { p with parity := p.parity ||| (1#32 <<< n) } else s
  | .engine en core =>
    let x := s.eng en
    if x.st = .running ∧ x.bound.isNone ∧ !x.ended then s.faultEngine en 0x0404#16 core else s
  | .lane l core =>
    let x := s.lane l
    match x.subs.findSome? SubStream.chunk with
    | some c => if x.st = .running ∧ x.bound.isNone then s.putLane l (x.failChunk c 0x0404#16 core).cycleEnd else s
    | none => s
  | .window ctx kh key w =>
    match s.kernel? ctx kh with
    | none => s
    | some k =>
      let x := k.run.stream key
      let info := (Config.freeWord s.draws).toNat
      let s := { s with draws := s.draws + 1 }
      match Tab.get? x.win w, k.strm? key with
      | some y, some d =>
        if d.store then s.putStream ctx kh key { x with win := Tab.put x.win w { y with bad := some info } }
        else
          let z := { x with win := Tab.put x.win w { y with data := 0, mask := 0 } }
          s.putStream ctx kh key { z with fails := z.fails ++ [⟨some w, none, 0x0402#16, info, false⟩] }
      | _, _ => s

/-- Instructions that are events of their own: they happen between the moves of the other agents. -/
def isEvent : Instr → Bool
  | .foldComplete .. | .placementPass .. | .streamFillReturn .. | .remoteArrival .. | .faultTimeout .. => true
  | .predBankAdd .. | .atmBankOp .. | .codecMerge .. | .wcBufferDrain .. => true
  | .uncorrectableError .. | .channelFail .. | .arbiterAck .. => true
  | .kickWrite .. | .registerWrite .. | .portRst .. | .energySelect .. | .eloRead .. | .flashDone .. => true
  | .signalStoreArrival .. | .sigstAck .. | .windowAccess .. | .windowResponse .. => true
  | .trainingComplete .. | .trainingTimeout .. | .laneLost .. | .shedRetrainDone .. | .shedTimeout .. => true
  | .portWiden .. | .abortToken .. | .cstepReport .. | .agreementTimeout .. | .agreementResult .. => true
  | .meltUpdate .. | .opChange .. | .thermalCritical .. | .thermalRelease .. | .fwCommit .. => true
  | .flitRefused .. | .hostLinkAgentAccess .. => true
  | .hostMissReturn | .watchFire | .krdvWake | .forkAccepted | .moveComplete | .faultQueueSpace => true
  | .fwWatchdog | .contextLoaded | .saveComplete | .restoreCommit | .msixUnmask | .outboundLock => true
  | .flashErase | .flashProgram | .coldReset | .intervalEnd | .leaseExpiry | .meltSensorFault => true
  | _ => false

/-! ### Placing one word -/

/-- The address at which the host's word stands. -/
def fetchAt : Nat := 0x10000

/-- A leaf that maps a page of HBM for every access. -/
def fetchLeaf : Word := Word.of (1 + 2 + 4 + 2 ^ 52 + 2 ^ 53 + fetchAt)

/-- A host instruction stands at the pc of thread 0, which runs in context 0 and moves next. -/
def State.withHostWord (s : State) (h : Half) : State :=
  let c := { s.ctx 0 with st := .running, eps := [], pubs := [] }
  let t := { s.thr 0 with st := .ready, ctx := 0, pc := Word.of fetchAt, inbox := [], holds := [] }
  let tlb : TlbEnt := { clu := 0, asid := c.xl.asid, va := fetchAt, pa := fetchAt, size := 4096, leaf := fetchLeaf }
  let mem := Memory.writeEn s.mem fetchAt (bytesOf h.toNat 4 ++ bytesOf 0 4) (List.replicate 8 1)
  let page (u : Nat) : Bool := rangesMeet u 128 fetchAt 4096
  let s := { s with mem := mem, tlb := tlb :: s.tlb, sched := [.host 0], frames := Tab.del s.frames (fetchAt / 4096) }
  let s := { s with poison := s.poison.filter (fun u => !page u), failedCh := [],
                    banks := s.banks.filter (fun b => !b.touches fetchAt 8) }
  ((s.putCtx 0 c).putThr 0 t).giveTurn 0 0

/-- A drain word is due in the domain of kernel 0 of context 0, which moves next: the word behind `dloop` of a
beat, or `dloop` itself in the prologue. -/
def State.withDrainWord (s : State) (h : Half) : State :=
  let loop : Bool := h.extractLsb' 26 6 = 0x0C#6
  let beat : Beat := { serial := 1, b := 0, n := 1, data := 0, lens := List.replicate 16 0, t0 := 0, t1 := 0 }
  let image := if loop then [h] else [0x30000000#32, h, 0x34000000#32]
  let d : DrainSt := { image := image, pos := if loop then 0 else 1, beats := if loop then [] else [beat] }
  let site : Site := if loop then .word 0 none else .word 0 (some (1, 0))
  let run : Run := { phase := .issue, todo := [site], drains := [(0, d)] }
  let k : Kernel := { state := .running, cfg := List.replicate 16 {}, run := run }
  let c := { s.ctx 0 with st := .running, kernels := Tab.put (s.ctx 0).kernels 0 k }
  { s.putCtx 0 c with sched := [.domain 0 0] }

end Sys2Proof.Machine
end

