-- ==== Sys2Proof/Machine/Step.lean ====
section
/-! DEFINITION. One step of the machine: the next agent of the schedule moves (log entry 1). -/
namespace Sys2Proof.Machine

/-- The next agent and the state that has taken it from the schedule. -/
def State.pick (s : State) : Agent × State :=
  match s.sched with
  | a :: t => (a, { s with sched := t })
  | [] => (Config.freeAgent s.draws, { s with draws := s.draws + 1 })

/-- The unit of an agent exists (01 R14, R24; 16 R401). -/
def Agent.exists_ : Agent → Bool
  | .host t => t < 128
  | .domain ctx kh => ctx < 64 && kh < 256
  | .copy e => e < 128
  | .queue ctx q => ctx < 64 && q < 64
  | .lane l => l < 512
  | .command | .clock _ | .arrival _ | .event _ _ | .firmware _ | .upset _ => true

/-- An agent moves. -/
def State.move (s : State) : Agent → Result
  | .host t => s.hostMove t
  | .domain ctx kh => s.domainMove ctx kh
  | .copy e => s.copyMove e
  | .queue ctx q => s.queueGo ctx q
  | .command => s.commandMove
  | .lane l => s.laneMove l
  | .clock n => .next { s with gtc := Word.of (s.gtcAfter n) }.trainPorts
  | .arrival m => .next (s.takeMsg m)
  | .event i f => if isEvent i then exec i { s with cur := f } else .next s
  | .firmware a => .next (s.firmwareMove a)
  | .upset u => .next (s.upsetMove u)

/-- One step. -/
def step (s : State) : Host.Outcome State Fault Refusal :=
  match s.pick with
  | (a, s) => if a.exists_ then s.move a else .fault .noSuchUnit

/-- The machine with one instruction word placed where `step` takes its next instruction: a host word, or a drain
word (log entry 6). -/
def State.withFetchWord (s : State) (nbits w : Nat) : State :=
  let h : Half := BitVec.ofNat 32 (w % 2 ^ nbits)
  if fOpc h = 0x0B#7 ∨ fOpc h = 0x2B#7 then s.withHostWord h
  else match decodeDrain? h with
    | some _ => s.withDrainWord h
    | none => s.withHostWord h

end Sys2Proof.Machine
end

