-- ==== Sys2Proof/WellFormed.lean ====
section
/-! DEFINITION. Well-formed instructions: the field values that the encodings of 04, 09, 10, 11, 16 and 17
admit, and for the machine's events the indices of units that the package has (01 R14, R24). -/
namespace Sys2Proof

/-- The fields of a base instruction that its 32-bit word can hold: even jump and branch offsets, and shift
amounts below 32 for the word forms. -/
def Rv.wf : Rv → Bool
  | .jal _ j => !j.getLsbD 0
  | .branch _ _ _ n => !n.getLsbD 0
  | .shift op _ _ n =>
    match op with
    | .slliw | .srliw | .sraiw | .roriw => !n.getLsbD 5
    | _ => true
  | _ => true

/-- The ring words of an op suit its kind and opcode (04 R95, R99, R100). -/
def opWf (i : Instr) (k : PeKind) (opc : Nat) (f : OpF) : Bool :=
  opInstr k opc f == some i && opLegal k opc f && opDestsOk k opc f

/-- The fields of a drain word suit its opcode (04 R107, 09 R265 to R278). -/
def Instr.drainWf : Instr → Bool
  | .dldStream _ _ n => n ≤ 11#4
  | .dscl _ _ _ lt _ _ j => !lt.getLsbD 0 && j.toNat < ltLanes lt
  | .dbias _ _ db lt rm _ nb => ltRm lt rm && db.toNat + nb.toNat ≤ 15
  | .dact _ _ _ rm t fn => fn ≠ 3#2 && (fn == 1#2 || (rm == 0 && !t))
  | .dclp _ _ _ lt j => j.toNat + 2 ≤ ltLanes lt
  | .dqnt _ _ fmt t _ => fmt ≤ 7#4 && qntSat fmt t
  | .dqntScl _ _ _ fmt t _ => fmt ≤ 7#4 && qntSat fmt t
  | .dqntMks _ _ fmt t rm => fmt ≤ 7#4 && !t && rm == 0
  | .dcvt _ _ db dlt rm t slt hi =>
    dlt ≠ slt && (dcvtWidens dlt slt || !hi) && (dcvtNarrows dlt slt || db == 0) && dcvtModes dlt slt rm t
  | .dpack _ _ cs => cs ≠ 3#2
  | .dst _ _ _ n => n ≤ 11#4
  | .dloop g => g == 0 || g == 1 || g == 3 || g == 7 || g == 15
  | .dadd _ _ _ lt rm _ => ltRm lt rm
  | .dmul _ _ _ lt rm _ => ltRm lt rm
  | .dcvs _ _ q _ tgt => tgt ≤ 4#3 && (2#3 ≤ tgt || q ≤ 1#2)
  | .dtab _ _ db _ _ => db ≤ 13#4
  | _ => true

/-- A context handle (16 R401). -/
def ctxWf (h : Nat) : Bool := h < 64
/-- A resource of ASSIGN and RECLAIM: copy engines, lanes, a pool partition (17 R430). -/
def resWf (r : BitVec 8) : Bool := r ≤ 2#8

/-- The fields of a system command (11 R320, R326; 16 R404; 17 R430, R435, R441). -/
def Instr.commandWf : Instr → Bool
  | .inval h va _ => ctxWf h && va.toNat % 4096 = 0
  | .frameset pa count attr =>
    pa.toNat % 4096 = 0 && 1 ≤ count.toNat && count.toNat ≤ 2 ^ 32 && (attr &&& ~~~0xFFFF000F#64) == 0
  | .replay h _ => ctxWf h
  | .abort h _ => ctxWf h
  | .create h _ => ctxWf h
  | .start h => ctxWf h
  | .save h => ctxWf h
  | .restore h => ctxWf h
  | .kill h => ctxWf h
  | .assign res h _ _ => resWf res && ctxWf h
  | .reclaim res h _ _ m => resWf res && ctxWf h && (res == 2 || m == 0)
  | .qctlEnable h q => ctxWf h && q < 64
  | .qctlDisable h q => ctxWf h && q < 64
  | .qctlReset h q => ctxWf h && q < 64
  | _ => true

/-- A port of the package (18 R448). -/
def portWf (p : Nat) : Bool := p < 64
/-- A physical address (11 R312). -/
def paWf (a : Nat) : Bool := a < 2 ^ 52
/-- A size of a register access (17 R427). -/
def sizeWf (n : Nat) : Bool := n = 1 || n = 2 || n = 4 || n = 8

/-- The units that an event of the machine names exist. -/
def Instr.eventWf : Instr → Bool
  | .foldComplete core _ _ => core < 128
  | .placementPass cluster => cluster < 8
  | .streamFillReturn core _ n _ => core < 128 && n ≤ 11
  | .faultTimeout ctx _ => ctxWf ctx
  | .uncorrectableError pa => paWf pa
  | .channelFail ch => ch < 512
  | .arbiterAck h _ => ctxWf h
  | .registerWrite _ _ bytes _ => sizeWf bytes
  | .kickWrite _ _ bytes => sizeWf bytes
  | .eloRead _ bytes => sizeWf bytes
  | .portRst p => portWf p
  | .sigstAck thr _ => thr < 128
  | .windowResponse eng _ _ => eng < 128
  | .trainingComplete p _ => portWf p
  | .trainingTimeout p => portWf p
  | .laneLost p _ => portWf p
  | .shedRetrainDone p => portWf p
  | .shedTimeout p => portWf p
  | .portWiden p => portWf p
  | .flitRefused p => portWf p
  | .abortToken ctx g _ _ => ctxWf ctx && g < 256
  | .cstepReport ctx g _ _ => ctxWf ctx && g < 256
  | .agreementTimeout ctx g => ctxWf ctx && g < 256
  | .agreementResult ctx g _ _ => ctxWf ctx && g < 256
  | .hostLinkAgentAccess a =>
    match a with
    | .read pa n => paWf (pa + n)
    | .write pa bs => paWf (pa + bs.length)
    | .snoop pa => paWf pa
    | .msix _ _ => true
  | _ => true

/-- A well-formed instruction. -/
def Instr.wf (i : Instr) : Bool :=
  match i.op?, i.copy?, i.queue? with
  | some (k, opc, f), _, _ => opWf i k opc f
  | none, some (kind, e), _ => e.ok kind
  | none, none, some (kind, e) => e.ok kind
  | none, none, none =>
    match i with
    | .hostInstruction r c => r.wf && (!c || (encodeC r).isSome)
    | _ => i.drainWf && i.commandWf && i.eventWf

end Sys2Proof
end

