-- ==== Sys2Proof/Safety.lean ====
section
/-! DEFINITION. What counts as a well-formed state, and the terms in which the statements speak of a step: an op
that issues, the state that an op's results leave behind, a host thread that goes on. -/
namespace Sys2Proof.Machine

/-! ### States -/

/-- Memory stands in its canonical form. -/
def State.Inv (s : State) : Prop := Memory.wf s.mem = true

/-- n bytes at a physical address are plain: no posted operation touches them, none lies on a codec page, and none is
poisoned or in a failed channel. -/
def State.plain (s : State) (pa n : Nat) : Prop :=
  (∀ b ∈ s.banks, b.touches pa n = false) ∧ (∀ i, i < n → s.isCodec (pa + i) = false) ∧ s.readError pa n = none

/-! ### Ops of PE slots -/

/-- The op with ring words f on the move issues in the environment e: the domain on the move holds it and its
predicate holds in its sense (04 R92). -/
def Issues (s : State) (f : OpF) (e : OpEnv) : Prop :=
  s.opEnv f = some e ∧ e.k.run.predicate e.core f.pi.toNat = !f.ps

/-- The state in which an op has issued: the charge of its energy class (19 R478), its landings, captures of
latches and records, and its effects at issue. -/
def issued (s : State) (e : OpEnv) (kind : PeKind) (opc : Nat) (x : Effect) : State :=
  let c := match energyClass kind opc e.f with
    | some n => s.charge e.ctx (128 * e.k.cluster + e.k.physCore e.core) (s.weight n)
    | none => s
  x.mach (c.modRun e.ctx e.kh (e.applyRun kind opc x))

/-- The landing at the end of cycle t + l - 1 of results in the destinations that the op names: the RRF entry when
WE is set, l0 and l1 when they capture results (04 R99, R100; 05 R136). -/
def resultLanding (e : OpEnv) (l : Nat) (two : Bool) (r1 r2 : Wide) : Landing :=
  ⟨e.t + l - 1, e.pe, e.ops, .dest (if e.f.we then some (renamed e.k.run.ro e.f.wa) else none)
    (e.f.l0c = 1) (e.f.l1c = 1) two r1 r2⟩

/-- The state in which an op of latency l has issued whose results are r1 and, where `two`, r2, with the further
effects `acts` in the cycle of its landing. -/
def lands (s : State) (e : OpEnv) (kind : PeKind) (opc l : Nat) (two : Bool) (r1 r2 : Wide)
    (acts : List LandAct := []) : State :=
  issued s e kind opc
    { lands := resultLanding e l two r1 r2 :: acts.map fun a => ⟨e.t + l - 1, e.pe, e.ops, a⟩,
      recs := e.record kind opc l 2 0 e.a e.b e.c }

/-- The APE op i of opcode opc issues, lands after l cycles, and its result has the lanes `v`, patterns of the
width of its type. -/
def ApeLanes (i : Instr) (s : State) (e : OpEnv) (opc l : Nat) (v : Nat → Nat) : Prop :=
  ∃ r : Wide, exec i s = .next (lands s e .ape opc l false r 0) ∧
    ∀ j, j < laneCount e.f.ty → laneNat e.f.ty r.toNat j = v j

/-- The same with a second result. -/
def ApeLanes2 (i : Instr) (s : State) (e : OpEnv) (opc l : Nat) (v w : Nat → Nat) : Prop :=
  ∃ r q : Wide, exec i s = .next (lands s e .ape opc l true r q) ∧
    ∀ j, j < laneCount e.f.ty → laneNat e.f.ty r.toNat j = v j ∧ laneNat e.f.ty q.toNat j = w j

/-- The low bits of an integer in the lane width of a type. -/
def low (ty : Nat) (v : Int) : Nat := lowBits v (typeWidth ty)

/-- A lane is all ones or zero. -/
def ones (ty : Nat) (b : Bool) : Nat := if b then 2 ^ typeWidth ty - 1 else 0

/-! ### Drain words -/

/-- The state in which a drain word has run: the charge of class 13 (19 R477), the registers that it leaves, its
landings and its change of the round. -/
def wordDone (s : State) (e : DEnv) (regs : BitVec 8192) (lens : List Nat) (ls : List Landing := [])
    (run : Run → Run := id) : State :=
  (s.charge e.ctx (128 * e.k.cluster + e.k.physCore e.core) (s.weight 13)).modRun e.ctx e.kh fun r =>
    e.step regs lens (run (r.addLandings ls))

/-- The drain word i writes v, of n bytes, into the register dd, and nothing into the others. -/
def DrainSets (i : Instr) (s : State) (e : DEnv) (dd : BitVec 4) (v : Wide) (n : Nat) : Prop :=
  exec i s = .next (wordDone s e (setLane e.regs dd.toNat v) (e.lens.set dd.toNat n))

/-- The drain word i writes into dd a value whose lanes, of the width of type ty, are `v`, with LEN 64. -/
def DrainLanes (i : Instr) (s : State) (e : DEnv) (dd : BitVec 4) (ty : Nat) (v : Nat → Nat) : Prop :=
  ∃ r : Wide, DrainSets i s e dd r 64 ∧ ∀ j, j < laneCount ty → laneNat ty r.toNat j = v j

/-! ### Host instructions -/

/-- A thread after an instruction of n bytes with the result v for rd; x0 discards it (00 R3). -/
def Thr.moved (h : Thr) (rd : Reg) (v : Word) (n : Nat) : Thr :=
  { h with x := if rd = 0 then h.x else h.x.set rd.toNat v, pc := h.pc + Word.of n }

/-- The instruction i at s leaves the state t, but that the thread on the move has become x. -/
def HostTo (i : Instr) (s t : State) (x : Thr) : Prop :=
  ∃ u, exec i s = .next u ∧ u.thr t.cur.thr = x ∧ (∀ n, n ≠ t.cur.thr → u.thr n = t.thr n)
    ∧ u = { t with thrs := u.thrs }

/-- The state u is t with the n bytes at pa now those of v: every other byte reads as before, the watches on the lines
written fire in the threads other than the one on the move, and those lines leave the L1 of every cluster but `keep` and
the pool of every die but that cluster's. -/
def Stored (t u : State) (keep : Option Nat) (pa n v : Nat) : Prop :=
  Memory.readLE u.mem pa n = v % 2 ^ (8 * n)
    ∧ (∀ a, a < pa ∨ pa + n ≤ a → Memory.read u.mem a = Memory.read t.mem a)
    ∧ (∀ k, k ≠ t.cur.thr → u.thr k = (t.thr k).wake pa n)
    ∧ (∀ k, u.clu k = if some k = keep then t.clu k
        else { t.clu k with lines := (t.clu k).lines.filter fun l => !rangesMeet (64 * l) 64 pa n })
    ∧ ∀ d, Tab.getD u.pools d [] = if some d = keep.map (· / 2) then Tab.getD t.pools d []
        else (Tab.getD t.pools d []).filter fun l => !rangesMeet (128 * l) 128 pa n

/-- The reservations that a write of n bytes at pa leaves. -/
def State.resvsLeft (t : State) (pa n : Nat) : Tab (Nat × Nat) :=
  t.resvs.filter fun e => !(e.2.1 < pa + n && pa < e.2.1 + e.2.2)

/-- The instruction i at s leaves the state t with n bytes at pa stored, the reservations on those bytes gone, and the
thread on the move become x. -/
def HostWrites (i : Instr) (s t : State) (keep : Option Nat) (pa n v : Nat) (x : Thr) : Prop :=
  ∃ u, exec i s = .next u ∧ u.thr t.cur.thr = x.wake pa n ∧ Stored t u keep pa n v
    ∧ u = { t with thrs := u.thrs, mem := u.mem, clus := u.clus, pools := u.pools, resvs := t.resvsLeft pa n }

/-- No write-combining buffer of the thread on the move holds a line of n bytes at pa. -/
def State.wcClear (t : State) (pa n : Nat) : Prop :=
  ∀ b, Tab.get? t.wc t.cur.thr = some b → rangesMeet b.base 128 pa n = false

/-- An access of n bytes of the thread on the move reaches the place pa of plain memory through a leaf, in the state t
that its translation and the count of its request leave: it is aligned, its line is at hand where the page is cached,
and no write-combining buffer of the thread holds bytes of its line; no parity error meets a transfer that is not
cached. -/
def HostReach (s : State) (va n : Nat) (a : Acc) (pa : Nat) (leaf : Word) (t : State) (multi : Bool := false) : Prop :=
  va % n = 0 ∧ regionOf pa ≠ 3 ∧ t.cur.thr < 128
    ∧ (∃ w, s.hostXlate s.myCtx s.myClu va a multi = .hit pa leaf w ∧ w.movingAt w.myCtx pa = false
      ∧ w.readError pa n = none ∧ (if cachedPol leaf then w.inL1 w.myClu pa = true else w.me.upset = none)
      ∧ t = if cachedPol leaf then w else w.countAccess w.myCtx w.myClu pa (leafAcnt leaf) false)
    ∧ t.plain pa n ∧ t.wcClear pa n

/-- An atomic of n bytes reaches plain memory at pa, its bytes paid for and its request counted, in the state t. -/
def AtomReach (s : State) (va n pa : Nat) (t : State) : Prop :=
  va % n = 0 ∧ ∃ leaf u w, s.hostXlate s.myCtx s.myClu va .atomic = .hit pa leaf u
    ∧ u.movingAt u.myCtx pa = false ∧ u.readError pa n = none ∧ u.me.upset = none
    ∧ u.spend u.myClu (u.cost (u.atomClasses pa) n) (.thread u.cur.thr) = some w
    ∧ t = w.countAtomic w.myCtx w.myClu pa (leafAcnt leaf) ∧ t.plain pa n

/-! ### Copy engines -/

/-- The copy entry of a kind (10 R287). -/
def copyEntry (kind : Nat) (e : CopyEnt) : Instr :=
  [Instr.move e, .movec e, .gath e, .scat e, .fill e, .redu e, .pub e, .copyCnt e, .waits e].getD (kind - 1) (.move e)

/-- The engine on the move, with the bounds of the entry in hand. -/
def State.atEntry (s : State) (e : CopyEnt) : State := s.modEng s.cur.eng fun x => { x with bounds := e.bounds }

/-- The engine on the move runs the entry e of a kind, in the surroundings c: it belongs to a context, nothing holds it,
and the entry may be performed. -/
def CopyReady (s : State) (kind : Nat) (e : CopyEnt) (c : CEnv) : Prop :=
  let x := s.eng s.cur.eng
  s.cenv s.cur.eng kind e = some c ∧ (x.st = .running ∨ kind = 9 ∧ x.st = .waiting) ∧ x.halted = false ∧ x.bound = none
    ∧ x.ended = false ∧ s.copyStalled c.ctx s.cur.eng = false ∧ (s.atEntry e).entryOk c = true

/-- The instruction i at s leaves the state t but for the engine on the move, which has become x. -/
def EngineTo (i : Instr) (s t : State) (x : Engine) : Prop :=
  ∃ u, exec i s = .next u ∧ u.eng s.cur.eng = x ∧ (∀ n, n ≠ s.cur.eng → u.eng n = t.eng n) ∧ u = { t with engs := u.engs }

/-- An engine bound for FAULTED with a cause (10 R304). -/
def Engine.failed (x : Engine) (cause : BitVec 16) (info : Nat) : Engine :=
  { x with bound := some .faulted, cause := cause, addr := info }

/-- The state t with an engine bound for FAULTED. -/
def State.engineFailed (t : State) (en : Nat) (cause : BitVec 16) (info : Nat) : State :=
  t.putEng en ((t.eng en).failed cause info)

/-- The bytes at some virtual addresses lie in a row at pa in plain memory, within one frame of a cached page that is
not counted and carries the format f, and the engine reaches them, and the lines that hold them, without a walk. -/
def CopySide (s : State) (c : CEnv) (a : Acc) (f : PageFmt) (vas : List Nat) (pa : Nat) (leaf : Word) : Prop :=
  0 < vas.length ∧ (∀ j, j < vas.length → s.hostXlate c.ctx c.clu (nth vas j 0) a = .hit (pa + j) leaf s)
    ∧ (a = .read → ∀ va, va ∈ vas → ∃ q l, s.hostXlate c.ctx c.clu (128 * (va / 128)) .read = .hit q l s ∧ leafAcnt l = false)
    ∧ (s.ctx c.ctx).windowOf (vas.headD 0) = none ∧ f.idx = leafFmt leaf ∧ f.codec = leafCodec leaf
    ∧ cachedPol leaf = true ∧ leafAcnt leaf = false ∧ s.movingAt c.ctx pa = false ∧ regionOf pa ≠ 3
    ∧ pa % 4096 + vas.length ≤ 4096 ∧ s.plain pa vas.length ∧ ∀ j, j < vas.length → s.plain (pa + j) 1

end Sys2Proof.Machine
end

