-- ==== Sys2Proof/Certificates/Slice0/Obligations.lean ====
section
/-! DEFINITION. The statements for the provers. -/
open Sys2Proof Sys2Proof.Machine

/-- R165, R166 and R170 to R173: products, sums and differences, shifts, leading zeros and rounding of wide
integers. R77 to R79, R167 to R169: packed polynomial products, packing and extraction under the GW sampled at
issue. A value out of range saturates under SAT; else its low bits are written and the first index goes into a
guard-overflow event in the landing cycle. -/
def Obligations.CpeArithmetic : Prop :=
  (∀ (f : OpF) (s : State) (e : OpEnv), Issues s f e →
    let a := e.a
    let b := e.b
    let ci := e.c % 2
    let n := min (b % 2 ^ 16) 512
    let one (i : Instr) (opc l : Nat) (r : Nat) : Prop :=
      exec i s = .next (lands s e .cpe opc l false (BitVec.ofNat 512 r) 0)
    let two (i : Instr) (opc l : Nat) (r q : Nat) : Prop :=
      exec i s = .next (lands s e .cpe opc l true (BitVec.ofNat 512 r) (BitVec.ofNat 512 q))
    let wide (v : Nat) : Int := if f.ty = 7 then sx v 512 else v
    let y : Int := if f.ty = 7 then sx (b * 2 ^ 512 + a) 1024 else (b * 2 ^ 512 + a : Nat)
    (f.ty = 7 ∨ f.ty = 8 →
      let p := lowBits (wide a * wide b) 1024
      two (.mulw f) 0x01 10 (p % 2 ^ 512) (p / 2 ^ 512)
      ∧ one (.rndw f) 0x0F 3
          (Fmt.f64.encFtz (.fin (y < 0) y.natAbs (sx e.c 16)) (Rm.of2 f.rmode) f.ftz f.sat))
    ∧ (cpeLegal 0x02 f = true →
      let w := 8 * f.width
      ∃ r q : Wide, exec (.muls f) s = .next (lands s e .cpe 0x02 8 true r q) ∧
        ∀ k, k < 512 / w →
          laneNat f.ty r.toNat k + 2 ^ w * laneNat f.ty q.toNat k
            = lowBits (laneInt f.ty a k * laneInt f.ty b k) (2 * w))
    ∧ two (.addw f) 0x0A 2 ((a + b + ci) % 2 ^ 512) ((a + b + ci) / 2 ^ 512)
    ∧ two (.subw f) 0x0B 2 ((2 ^ 512 + a - b - ci) % 2 ^ 512) (if a < b + ci then 1 else 0)
    ∧ one (.shlw f) 0x0C 1 ((a * 2 ^ n + e.c / 2 ^ (512 - n)) % 2 ^ 512)
    ∧ (f.modBits 0 0 = 0 → one (.shrw f) 0x0D 1 ((e.c * 2 ^ 512 + a) / 2 ^ n % 2 ^ 512))
    ∧ (f.modBits 0 0 = 1 → one (.shrw f) 0x0D 1 (lowBits (sx a 512 / (2 ^ n : Nat)) 512))
    ∧ one (.clzw f) 0x0E 2 (if a = 0 then 512 else 511 - a.log2))
  ∧ (∀ (f : OpF) (s : State) (e : OpEnv), Issues s f e →
    let w := Gw.of e.st.gw
    let s0 := w.ea + w.eb + w.g
    let n := 512 / s0
    let fa (i : Nat) : Int := sx (e.a / 2 ^ (s0 * i)) w.ea
    let fb (i : Nat) : Int := sx (e.b / 2 ^ (s0 * i)) w.eb
    let c (k : Nat) : Int := ((List.range n).map fun i =>
      ((List.range n).map fun j => if i + j = k then fa i * fb j else 0).sum).sum
    let note (o : Option Nat) : List LandAct := match o with | some i => [.event 0x0101#16 i] | none => []
    let first (m : Nat) (bad : Nat → Bool) : Option Nat := if f.sat then none else (List.range m).find? bad
    let fit (v : Int) (k : Nat) : Int := if f.sat then satS v k else v
    (∃ r q : Wide,
      exec (.mulc f) s = .next (lands s e .cpe 0x03 12 true r q (note (first (2 * n - 1) fun k => outS (c k) s0)))
      ∧ (∀ k, k < 2 * n - 1 → (r.toNat + 2 ^ 512 * q.toNat) / 2 ^ (s0 * k) % 2 ^ s0 = lowBits (fit (c k) s0) s0)
      ∧ r.toNat + 2 ^ 512 * q.toNat < 2 ^ (s0 * (2 * n - 1)))
    ∧ exec (.dotx f) s = .next (lands s e .cpe 0x04 12 true
        (BitVec.ofInt 512 (sx (lowBits (fit (c (n - 1)) s0) s0) s0)) 0
        (note (if !f.sat && outS (c (n - 1)) s0 then some (n - 1) else none)))
    ∧ (cpeLegal 0x08 f = true →
      let ew := if f.modBits 0 0 = 1 then w.eb else w.ea
      let v (i : Nat) : Int := if i < laneCount f.ty then laneInt f.ty e.a i else 0
      ∃ r : Wide, exec (.pack f) s = .next (lands s e .cpe 0x08 2 false r 0 (note (first n fun i => outS (v i) ew)))
        ∧ (∀ i, i < n → r.toNat / 2 ^ (s0 * i) % 2 ^ s0 = lowBits (fit (v i) ew) s0) ∧ r.toNat < 2 ^ (s0 * n))
    ∧ (cpeLegal 0x09 f = true →
      let v (k : Nat) : Int :=
        let j := e.c % 2 ^ 10 + k
        if s0 * j + s0 - 1 ≤ 1023 then sx ((e.b * 2 ^ 512 + e.a) / 2 ^ (s0 * j)) s0 else 0
      ∃ r : Wide,
        exec (.xtrc f) s = .next (lands s e .cpe 0x09 3 false r 0
          (note (first (laneCount f.ty) fun k => v k != satT f.ty (v k))))
        ∧ ∀ k, k < laneCount f.ty → laneNat f.ty r.toNat k = low f.ty (if f.sat then satT f.ty (v k) else v k)))

/-- R174 to R183: the CPE ops without results sample the selection, RM and their operands at issue, and their
one effect lands with the latency of R160; `nop` does nothing but its latch control. That `outer` and `outerz`
issue whatever fold is pending is the model's choice (log entry 81). R180 to R182: granule reads and writes, the
clear of a bank and the start of a drain. A read answers the granule as it stood at issue, also in the read-out;
an op that needs fold registers on which a fold is at work is late. R174 to R183: what the landings of scales,
row masks, selections, clears, writes, guard widths and modes do to a CPE, with the trap event that they raise;
a k-step in another mode than the bank's changes nothing. -/
def Obligations.CpeBankAccess : Prop :=
  (∀ (f : OpF) (s : State) (e : OpEnv), Issues s f e →
    let a := BitVec.ofNat 512 e.a
    let b := BitVec.ofNat 512 e.b
    let p := e.st
    let hi := f.modBits 0 0 = 1
    let is (i : Instr) (opc l : Nat) (act : LandAct) : Prop :=
      exec i s = .next (issued s e .cpe opc
        { lands := [⟨e.t + l - 1, e.pe, e.ops, act⟩], recs := e.record .cpe opc l 2 0 e.a e.b e.c })
    let prod (z : Bool) : LandAct :=
      .outer z f.wsel f.ty (f.sat && f.wsel ≤ 1) (f.ftz && 2 ≤ f.wsel) f.rmode p.sel p.rm a b
    is (.outer f) 0x05 8 (prod false) ∧ is (.outerz f) 0x06 8 (prod true)
    ∧ is (.fold f) 0x07 1 (.fold p.sel)
    ∧ is (.sclda f) 0x10 1 (.scale false hi a) ∧ is (.scldb f) 0x11 1 (.scale true hi a)
    ∧ is (.bsel f) 0x16 1 (.bsel hi) ∧ is (.rowp f) 0x17 1 (.rowp (Word.of e.a))
    ∧ is (.gwset f) 0x18 1 (.gwset (BitVec.ofNat 32 e.a))
    ∧ is (.cset f) 0x19 1 (.cset p.sel f.wsel f.ty (e.a % 64))
    ∧ (∀ kind, e.portLate kind 0 = false → exec (.nop kind f) s = .next (issued s e kind 0 {})))
  ∧ (∀ (f : OpF) (s : State) (e : OpEnv), Issues s f e →
    let p := e.st
    let k := p.bank p.sel
    let fr := f.modBits 0 0 = 1
    let g := e.a % 256
    let v := lane 512 (if f.modBits 0 0 = 1 then k.folds else k.cells) g
    let busy := p.folds.any fun x => x.bank = p.sel && !x.done
    let enqueue (r : Run) : Run :=
      let d := r.drain e.core
      r.putDrain e.core { d with queue := d.queue ++ [(decide (e.slot = 10), decide (f.modBits 0 0 = 1))] }
    let act (opc l : Nat) (x : LandAct) : State := issued s e .cpe opc
      { lands := [⟨e.t + l - 1, e.pe, e.ops, x⟩], recs := e.record .cpe opc l 2 0 e.a e.b e.c }
    ((¬fr ∨ busy = false) →
      exec (.accrd f) s = .next (issued s e .cpe 0x12
        { lands := [resultLanding e 2 false v 0, ⟨e.t + 1, e.pe, e.ops, .readOut v⟩],
          recs := e.record .cpe 0x12 2 1 0 v.toNat 0 0 })
      ∧ exec (.accwr f) s = .next (act 0x13 2 (.accwr p.sel fr g (BitVec.ofNat 512 e.b))))
    ∧ (fr → busy = true → exec (.accrd f) s = .next (s.late e) ∧ exec (.accwr f) s = .next (s.late e))
    ∧ (busy = false → exec (.accclr f) s = .next (act 0x14 1 (.accclr p.sel)))
    ∧ (busy = true → exec (.accclr f) s = .next (s.late e))
    ∧ exec (.drn f) s = .next (issued s e .cpe 0x15 { run := enqueue }))
  ∧ (∀ (p : Pe) (cyc : Nat),
    (∀ isB hi v, ∃ q, p.cpeLand cyc (.scale isB hi v) = (q, none)
      ∧ (∀ m, m < 64 → lane 16 (if isB then q.eb else q.ea) m
          = if (m / 32 = 1) = (hi = true) then lane 16 v (m % 32) else lane 16 (if isB then p.eb else p.ea) m)
      ∧ q = if isB then { p with eb := q.eb } else { p with ea := q.ea })
    ∧ (∀ v, p.cpeLand cyc (.rowp v) = ({ p with rm := v }, none))
    ∧ (∀ b, p.cpeLand cyc (.bsel b) = ({ p with sel := b }, none))
    ∧ (∀ b, p.cpeLand cyc (.accclr b) = (p.setBank b {}, none))
    ∧ (∀ b fr g v, ∃ k, p.cpeLand cyc (.accwr b fr g v) = (p.setBank b k, none)
      ∧ (g < 256 → ∀ m, m < 256 → lane 512 (if fr then k.folds else k.cells) m
          = if m = g then v else lane 512 (if fr then (p.bank b).folds else (p.bank b).cells) m)
      ∧ k = if fr then { p.bank b with folds := k.folds } else { p.bank b with cells := k.cells })
    ∧ (∀ v, let w := Gw.of v
      let ok := 1 ≤ w.ea ∧ w.ea ≤ 32 ∧ 1 ≤ w.eb ∧ w.eb ≤ 32 ∧ w.ea + w.eb + w.g ≤ 64
      p.cpeLand cyc (.gwset v) = if ok then ({ p with gw := v &&& 0x3F3F3F#32 }, none) else (p, some (0x0102#16, 0)))
    ∧ (∀ b w ty n, ty ≠ 0xB → p.cpeLand cyc (.cset b w ty n)
        = (p.setBank b { p.bank b with mode := if ty = 0 then none else some ⟨w, ty⟩, fk := 0 }, none))
    ∧ (∀ w ty sat ftz rm b m x y, (p.bank b).mode ≠ some ⟨w, ty⟩ →
        p.cpeLand cyc (.outer false w ty sat ftz rm b m x y) = (p, some (0x0103#16, 0))))

/-- R81: a matching k-step of integer elements that do not fold adds the product of element i of A and element j
of B into cell (i, j), of 32 bits at w = 1 and 64 at w = 2, in the rows that RM selects, wrapping, or saturating
under SAT; the first cell that leaves its range makes a guard-overflow event unless SAT is set. R81, R174: a
matching k-step at w = 4 or w = 8 adds the product of element i of A and element j of B to float cell (i, j),
FP32 or FP64, with one rounding for the sum of each cell under RMODE and FTZ, in the rows that RM selects;
`outerz` starts the sums afresh, with 0 in the other rows, and sets the mode. It makes no event and captures
nothing. R81, R82, R174 to R176, R179, 02 R63, R66: a matching k-step of block-float elements adds the products
of the signed q to the integer cells and steps FK, which `outerz` begins at 1 with the fold registers at 0;
where FK comes to the fold interval, 32 or 16, it captures the cells with the scales as they stand, clears them
and FK. A `fold` captures so where the mode is `.bq` at w = 1 or w = 2 and FK is not 0, and does nothing
otherwise. The adders bring the oldest capture into the fold registers: the NaN under the exponent 0x8000, no
change for a sum of 0, else one exact sum rounded once. `cset` to `.bq` sets FK, at most one below the interval. -/
def Obligations.CpeOuterProduct : Prop :=
  (∀ (p : Pe) (cyc w ty : Nat) (sat ftz z b : Bool) (rm : BitVec 2) (m : Word) (x y : Wide),
    (w = 0 ∧ (ty = 1 ∨ ty = 2)) ∨ (w = 1 ∧ (ty = 3 ∨ ty = 4)) →
    (z = false → (p.bank b).mode = some ⟨w, ty⟩) →
    let n := 64 / 2 ^ w
    let bits := 32 * 2 ^ w
    let cell (k : Bank) (c : Nat) : Nat := k.cells.toNat / 2 ^ (bits * c) % 2 ^ bits
    let old (c : Nat) : Int := if z then 0 else sx (cell (p.bank b) c) bits
    let new (c : Nat) : Int :=
      if m.getLsbD (c / n) then old c + laneInt ty x.toNat (c / n) * laneInt ty y.toNat (c % n) else old c
    ∃ k : Bank,
      p.cpeLand cyc (.outer z w ty sat ftz rm b m x y) = (p.setBank b k,
        if sat then none
        else ((List.range (n * n)).find? fun c => m.getLsbD (c / n) && outS (new c) bits).map fun c => (0x0101#16, c))
      ∧ (∀ c, c < n * n → cell k c = lowBits (if sat then satS (new c) bits else new c) bits)
      ∧ k.mode = some ⟨w, ty⟩
      ∧ (z = false → k.folds = (p.bank b).folds ∧ k.fk = (p.bank b).fk))
  ∧ (∀ (p : Pe) (cyc w ty : Nat) (sat ftz z b : Bool) (rm : BitVec 2) (m : Word) (x y : Wide),
    (w = 2 ∧ ty = 9) ∨ (w = 3 ∧ ty = 10) → (z = false → (p.bank b).mode = some ⟨w, ty⟩) →
    let n := 64 / 2 ^ w
    let bits := 8 * 2 ^ w
    let fm := if w = 2 then Fmt.f32 else Fmt.f64
    let r := Rm.of2 rm
    let cell (k : Bank) (c : Nat) : Nat := k.folds.toNat / 2 ^ (bits * c) % 2 ^ bits
    let el (v : Wide) (i : Nat) : Val := fm.decFtz (v.toNat / 2 ^ (bits * i) % 2 ^ bits) ftz
    let prod (c : Nat) : Val := (el x (c / n)).mul (el y (c % n))
    let sum (c : Nat) : Val := if z then prod c else (fm.decFtz (cell (p.bank b) c) ftz).add (prod c) r
    ∃ k : Bank, p.cpeLand cyc (.outer z w ty sat ftz rm b m x y) = (p.setBank b k, none)
      ∧ (∀ c, c < n * n → cell k c = if m.getLsbD (c / n) then fm.encFtz (sum c) r ftz % 2 ^ bits
          else if z then 0 else cell (p.bank b) c)
      ∧ k.mode = some ⟨w, ty⟩ ∧ k.cells = (p.bank b).cells ∧ (z = false → k.fk = (p.bank b).fk))
  ∧ (∀ (p : Pe) (cyc w : Nat) (sat ftz z b : Bool) (rm : BitVec 2) (m : Word) (x y : Wide), w ≤ 1 →
    let n := 64 / 2 ^ w
    let bits := 32 * 2 ^ w
    let fi := 32 / 2 ^ w
    let old := p.bank b
    let cell (v : BitVec 131072) (c : Nat) : Nat := v.toNat / 2 ^ (bits * c) % 2 ^ bits
    let q (v : Wide) (i : Nat) : Int := sx (v.toNat / 2 ^ (8 * 2 ^ w * i)) (8 * 2 ^ w)
    let sum (c : Nat) : Int :=
      let u := if z then 0 else sx (cell old.cells c) bits
      if m.getLsbD (c / n) then u + q x (c / n) * q y (c % n) else u
    let holds (v : BitVec 131072) : Prop :=
      ∀ c, c < n * n → cell v c = lowBits (if sat then satS (sum c) bits else sum c) bits
    let afresh (k : Bank) : Prop := ∀ c, lane 32 k.folds c = if z = true ∧ c < n * n then 0 else lane 32 old.folds c
    let fk := if z then 1 else (old.fk.toNat + 1) % 64
    let cleared (k : Bank) : Prop := (∀ c, c < n * n → cell k.cells c = 0) ∧ k.fk = 0 ∧ k.mode = some ⟨w, 11⟩
    let caught (v : BitVec 131072) : Fold := { bank := b, cap := cyc, w := w, cells := v, ea := p.ea, eb := p.eb }
    let land := p.cpeLand cyc (.outer z w 11 sat ftz rm b m x y)
    ((z = false → old.mode = some ⟨w, 11⟩) →
      land.2 = (if sat then none
        else ((List.range (n * n)).find? fun c => m.getLsbD (c / n) && outS (sum c) bits).map fun c => (0x0101#16, c))
      ∧ (fk ≠ fi → ∃ k, land.1 = p.setBank b k ∧ holds k.cells ∧ afresh k ∧ k.fk.toNat = fk ∧ k.mode = some ⟨w, 11⟩)
      ∧ (fk = fi → ∃ k v, holds v ∧ cleared k ∧ afresh k
        ∧ land.1 = ({ p with folds := p.folds ++ [caught v] } : Pe).setBank b k))
    ∧ (old.mode = some ⟨w, 11⟩ → old.fk ≠ 0 → ∃ k, cleared k ∧ k.folds = old.folds
      ∧ p.cpeLand cyc (.fold b) = (({ p with folds := p.folds ++ [caught old.cells] } : Pe).setBank b k, none))
    ∧ ((old.fk = 0 ∨ ∀ v, v ≤ 1 → old.mode ≠ some ⟨v, 11⟩) → p.cpeLand cyc (.fold b) = (p, none))
    ∧ (∀ f, p.folds.find? (fun g => g.bank = b && !g.done) = some f → f.w = w → ∃ k,
      p.finishFold b = ({ p with folds := p.folds.map fun g => if g = f then { g with done := true } else g } : Pe).setBank b k
      ∧ k = { old with folds := k.folds }
      ∧ ∀ c, c < 4096 → lane 32 k.folds c =
          let ea := lane 16 f.ea (c / n)
          let eb := lane 16 f.eb (c % n)
          let v := sx (cell f.cells c) bits
          let reg := lane 32 old.folds c
          if n * n ≤ c then reg else if ea = 0x8000 ∨ eb = 0x8000 then BitVec.ofNat 32 Fmt.f32.nan
          else if v = 0 then reg
          else BitVec.ofNat 32 (Fmt.f32.enc ((Fmt.f32.dec reg.toNat).add
            (.fin (v < 0) v.natAbs (ea.toInt + eb.toInt)) .rne) .rne))
    ∧ (∀ j, p.cpeLand cyc (.cset b w 11 j)
      = (p.setBank b { old with mode := some ⟨w, 11⟩, fk := BitVec.ofNat 6 (min j (fi - 1)) }, none)))

/-- R193: the integer ops act lane by lane, wrapping, or saturating by the type where the op or its SAT bit says
so; the float forms of `abs` and `neg` change the sign bit alone, a NaN becoming the canonical one. R194 and
`mov` of R208: `and`, `or`, `xor`, `andn` and `mov` complete with the bitwise result of the whole operands.
R195: the shifts, with the count read as a natural number whatever the type. R196, 02 R44: comparison,
selection, which under a float type writes the canonical NaN for a NaN, and the counts of set and of leading
zero bits. -/
def Obligations.ApeIntegers : Prop :=
  (∀ (f : OpF) (s : State) (e : OpEnv), Issues s f e →
    let x := laneInt f.ty e.a
    let y := laneInt f.ty e.b
    let z := laneInt f.ty e.c
    let p := laneNat f.ty e.a
    let fm := typeFmt f.ty
    let sat (v : Int) : Int := if f.sat then satT f.ty v else v
    let is (i : Instr) (opc l : Nat) (v : Nat → Int) : Prop := ApeLanes i s e opc l fun j => low f.ty (v j)
    (f.tyInt = true →
      is (.add f) 0x01 1 (fun j => x j + y j) ∧ is (.sub f) 0x02 1 (fun j => x j - y j)
      ∧ is (.adds f) 0x03 1 (fun j => satT f.ty (x j + y j))
      ∧ is (.subs f) 0x04 1 (fun j => satT f.ty (x j - y j))
      ∧ is (.mul f) 0x05 3 (fun j => sat (x j * y j))
      ∧ is (.mulh f) 0x06 3 (fun j => x j * y j / (2 ^ typeWidth f.ty : Nat))
      ∧ is (.mad f) 0x07 3 (fun j => sat (x j * y j + z j))
      ∧ is (.min f) 0x08 1 (fun j => if x j ≤ y j then x j else y j)
      ∧ is (.max f) 0x09 1 (fun j => if x j ≥ y j then x j else y j)
      ∧ is (.abs f) 0x0A 1 (fun j => sat (x j).natAbs) ∧ is (.neg f) 0x0B 1 (fun j => sat (-(x j))))
    ∧ (typeFloat f.ty = true →
      ApeLanes (.abs f) s e 0x0A 1
        (fun j => if (fm.dec (p j)).isNan then fm.nan else p j % 2 ^ (fm.width - 1))
      ∧ ApeLanes (.neg f) s e 0x0B 1
        (fun j => if (fm.dec (p j)).isNan then fm.nan else p j ^^^ 2 ^ (fm.width - 1))))
  ∧ (∀ (f : OpF) (s : State) (e : OpEnv), Issues s f e →
    let a := BitVec.ofNat 512 e.a
    let b := BitVec.ofNat 512 e.b
    exec (.and f) s = .next (lands s e .ape 0x0C 1 false (a &&& b) 0)
    ∧ exec (.or f) s = .next (lands s e .ape 0x0D 1 false (a ||| b) 0)
    ∧ exec (.xor f) s = .next (lands s e .ape 0x0E 1 false (a ^^^ b) 0)
    ∧ exec (.andn f) s = .next (lands s e .ape 0x0F 1 false (a &&& ~~~b) 0)
    ∧ exec (.mov f) s = .next (lands s e .ape 0x31 1 false a 0))
  ∧ (∀ (f : OpF) (s : State) (e : OpEnv), Issues s f e → f.tyInt = true →
    let w := typeWidth f.ty
    let x := laneNat f.ty e.a
    let n := laneNat f.ty e.b
    ApeLanes (.shl f) s e 0x10 1 (fun j => if n j ≥ w then 0 else x j * 2 ^ n j % 2 ^ w)
    ∧ ApeLanes (.shr f) s e 0x11 1 (fun j => if n j ≥ w then 0 else x j / 2 ^ n j)
    ∧ ApeLanes (.sra f) s e 0x12 1 (fun j => lowBits (sx (x j) w / (2 ^ min (n j) (w - 1) : Nat)) w)
    ∧ ApeLanes (.rot f) s e 0x13 1 (fun j => (x j * 2 ^ (n j % w) + x j / 2 ^ (w - n j % w)) % 2 ^ w))
  ∧ (∀ (f : OpF) (s : State) (e : OpEnv), Issues s f e →
    let w := typeWidth f.ty
    let a := laneNat f.ty e.a
    let b := laneNat f.ty e.b
    let c := laneNat f.ty e.c
    let x := laneInt f.ty e.a
    let y := laneInt f.ty e.b
    (f.tyInt = true → f.modBits 2 0 ≤ 5 →
      ApeLanes (.cmp f) s e 0x14 1 fun j => ones f.ty
        ([x j == y j, x j != y j, decide (x j < y j), decide (x j ≤ y j), decide (x j > y j),
          decide (x j ≥ y j)].getD (f.modBits 2 0) false))
    ∧ (f.tyAny = true → ApeLanes (.sel f) s e 0x15 1 fun j =>
        let v := if c j ≠ 0 then a j else b j
        if typeFloat f.ty = true ∧ ((typeFmt f.ty).dec v).isNan = true then (typeFmt f.ty).nan else v)
    ∧ (f.tyInt = true →
      ApeLanes (.cnt f) s e 0x16 2 (fun j => ((List.range w).filter fun k => (a j).testBit k).length)
      ∧ ApeLanes (.lzc f) s e 0x17 2 fun j => if a j = 0 then w else w - 1 - (a j).log2))

/-- R197: each lane is the exact result encoded once in the format under RMODE, FTZ and SAT. R198:
minimumNumber, maximumNumber and the float comparisons, with a subnormal input read as zero under FTZ. The
special cases of R199's table for the four functions of one operand, as patterns of the format, and for finite
non-zero operands the encoding of the exact quotient, or of the model's value of the function. R200: `fcvt`
among s32, s64, f32 and f64, with its lanes mapped by the two widths. -/
def Obligations.ApeFloats : Prop :=
  (∀ (f : OpF) (s : State) (e : OpEnv), Issues s f e → typeFloat f.ty = true →
    let fm := typeFmt f.ty
    let rm := Rm.of2 f.rmode
    let d (v : Nat) (j : Nat) : Val := fm.decFtz (laneNat f.ty v j) f.ftz
    let is (i : Instr) (opc l : Nat) (v : Nat → Val) : Prop :=
      ApeLanes i s e opc l fun j => fm.encFtz (v j) rm f.ftz f.sat
    is (.fadd f) 0x18 3 (fun j => (d e.a j).add (d e.b j) rm)
    ∧ is (.fsub f) 0x19 3 (fun j => (d e.a j).add (d e.b j).negate rm)
    ∧ is (.fmul f) 0x1A 4 (fun j => (d e.a j).mul (d e.b j))
    ∧ is (.fma f) 0x1B 4 (fun j => ((d e.a j).mul (d e.b j)).add (d e.c j) rm))
  ∧ (∀ (f : OpF) (s : State) (e : OpEnv), Issues s f e → typeFloat f.ty = true →
    let fm := typeFmt f.ty
    let x (j : Nat) : Val := fm.decFtz (laneNat f.ty e.a j) f.ftz
    let y (j : Nat) : Val := fm.decFtz (laneNat f.ty e.b j) f.ftz
    let o (j : Nat) : Option Ordering := (x j).cmp (y j)
    let put (v : Val) : Nat := fm.enc v .rne
    let pick (j : Nat) (first : Bool) : Nat :=
      if (x j).isNan && (y j).isNan then fm.nan else if (x j).isNan then put (y j)
      else if (y j).isNan then put (x j) else if first then put (x j) else put (y j)
    ApeLanes (.fmin f) s e 0x1C 3 (fun j => pick j (o j == some .lt || (o j == some .eq && (x j).neg?)))
    ∧ ApeLanes (.fmax f) s e 0x1D 3 (fun j => pick j (o j == some .gt || (o j == some .eq && !(x j).neg?)))
    ∧ ApeLanes (.fcmp f) s e 0x1E 3 fun j => ones f.ty
        ([o j == some .eq, o j != some .eq, o j == some .lt, o j == some .lt || o j == some .eq,
          o j == some .gt, o j == some .gt || o j == some .eq, o j == none, o j != none].getD
            (f.modBits 2 0) false))
  ∧ (∀ (f : OpF) (s : State) (e : OpEnv), Issues s f e → typeFloat f.ty = true →
    let fm := typeFmt f.ty
    let d (j : Nat) : Val := fm.decFtz (laneNat f.ty e.a j) f.ftz
    let other (v : Val) : Nat := fm.encFtz v (Rm.of2 f.rmode) f.ftz f.sat
    let one := fm.bias * 2 ^ fm.fbits
    ApeLanes (.frcp f) s e 0x1F 6 (fun j => match d j with
      | .nan => fm.nan | .inf n => fm.signBit n | .fin n 0 _ => fm.infCode n
      | v => other ((Val.fin false 1 0).div v))
    ∧ ApeLanes (.frsq f) s e 0x20 6 (fun j => match d j with
      | .nan => fm.nan | .inf true => fm.nan | .inf false => 0 | .fin n 0 _ => fm.infCode n
      | .fin true _ _ => fm.nan | v => other v.rsqrt)
    ∧ ApeLanes (.fexp2 f) s e 0x21 8 (fun j => match d j with
      | .nan => fm.nan | .inf true => 0 | .inf false => fm.infCode false | .fin _ 0 _ => one
      | v => other v.exp2)
    ∧ ApeLanes (.flog2 f) s e 0x22 8 (fun j => match d j with
      | .nan => fm.nan | .inf true => fm.nan | .inf false => fm.infCode false
      | .fin _ 0 _ => fm.infCode true | .fin true _ _ => fm.nan | v => other v.log2))
  ∧ (∀ (f : OpF) (s : State) (e : OpEnv), Issues s f e → apeLegal 0x23 f = true →
    let src := fcvtSrc (f.modBits 1 0)
    let rm := Rm.of2 f.rmode
    let w := typeWidth f.ty
    let ws := typeWidth src
    let real (p : Nat) : Val := if typeFloat src then (typeFmt src).decFtz p f.ftz else Val.ofInt (sx p ws)
    let cv (x j : Nat) : Nat :=
      let p := laneNat src x j
      if typeFloat f.ty then (typeFmt f.ty).encFtz (real p) rm f.ftz f.sat
      else if typeFloat src then lowBits ((real p).toInt rm true w) w
      else lowBits (if f.sat && w < ws then satS (sx p ws) w else sx p ws) w
    (w = ws → ApeLanes (.fcvt f) s e 0x23 2 (cv e.a))
    ∧ (w = 64 → ws = 32 → ApeLanes2 (.fcvt f) s e 0x23 2 (cv e.a) fun j => cv e.a (j + 8))
    ∧ (w = 32 → ws = 64 → ApeLanes (.fcvt f) s e 0x23 2 fun j => if j < 8 then cv e.a j else cv e.b (j - 8)))

/-- R201: the reductions, to lane 0 with every other lane zero: the sum of the lanes that take part, exact and
then wrapped or clamped, or their extreme; floats by the tree of R69. R202: the lane movement ops move bit
patterns. -/
def Obligations.ApeLaneMovement : Prop :=
  (∀ (f : OpF) (s : State) (e : OpEnv), Issues s f e →
    let n := laneCount f.ty
    let x := laneInt f.ty e.a
    let p := laneNat f.ty e.a
    let part (j : Nat) : Bool := f.modBits 0 0 = 0 || laneNat f.ty e.b j ≠ 0
    let fm := typeFmt f.ty
    let rm := Rm.of2 f.rmode
    let first (v : Nat) (j : Nat) : Nat := if j = 0 then v else 0
    let tree (g : Nat → Nat → Nat) (off : Nat) : Nat :=
      (treeFold g n.log2 ((List.range n).map fun j => if part j then p j else off)).headD 0
    let extreme (mx : Bool) (v : Int) : Prop :=
      (∀ j, j < n → part j = true → if mx then x j ≤ v else v ≤ x j)
      ∧ ((∃ j, j < n ∧ part j = true ∧ x j = v)
        ∨ ((∀ j, j < n → part j = false) ∧ v = satT f.ty (if mx then -(2 ^ 64 : Int) else 2 ^ 64)))
    (f.tyInt = true →
      let sum := ((List.range n).map fun j => if part j then x j else 0).sum
      ApeLanes (.rsum f) s e 0x27 5 (first (low f.ty (if f.sat then satT f.ty sum else sum)))
      ∧ (∃ v, extreme true v ∧ ApeLanes (.rmax f) s e 0x28 5 (first (low f.ty v)))
      ∧ (∃ v, extreme false v ∧ ApeLanes (.rmin f) s e 0x29 5 (first (low f.ty v))))
    ∧ (typeFloat f.ty = true →
      ApeLanes (.rsum f) s e 0x27 5 (first (tree (fun a b =>
        fm.encFtz ((fm.decFtz a f.ftz).add (fm.decFtz b f.ftz) rm) rm f.ftz f.sat) 0))
      ∧ ApeLanes (.rmax f) s e 0x28 5 (first (tree (floatExtreme fm f.ftz true) (fm.infCode true)))
      ∧ ApeLanes (.rmin f) s e 0x29 5 (first (tree (floatExtreme fm f.ftz false) (fm.infCode false)))))
  ∧ (∀ (f : OpF) (s : State) (e : OpEnv), Issues s f e → f.tyAny = true →
    let n := laneCount f.ty
    let a := laneNat f.ty e.a
    let b := laneNat f.ty e.b
    let ab (k : Nat) : Nat := if k < n then a k else if k < 2 * n then b (k - n) else 0
    ApeLanes (.bcast f) s e 0x24 2 (fun _ => if e.b % 2 ^ 64 < n then a (e.b % 2 ^ 64) else 0)
    ∧ ApeLanes (.perm f) s e 0x25 2 (fun j => if b j < n then a (b j) else 0)
    ∧ ApeLanes (.shufl f) s e 0x26 2 (fun j => a (j ^^^ (e.b % 64 % n)))
    ∧ ApeLanes (.ext f) s e 0x2C 2 (fun j => ab (j + e.c % 2 ^ 64))
    ∧ ApeLanes2 (.zip f) s e 0x2A 2 (fun j => if j % 2 = 0 then a (j / 2) else b (j / 2))
        (fun j => if j % 2 = 0 then a (n / 2 + j / 2) else b (n / 2 + j / 2))
    ∧ ApeLanes2 (.unzip f) s e 0x2B 2 (fun j => if j < n / 2 then a (2 * j) else b (2 * (j - n / 2)))
        (fun j => if j < n / 2 then a (2 * j + 1) else b (2 * (j - n / 2) + 1)))

/-- R203 to R205: unpacking and accumulating ternary digits; an op that finds a bad code sets the sticky bit
and, under BCTRAP, raises trap event 0x0104, both in its landing cycle. R206 to R208: saturation to fewer bits,
clamping, and the table and mask ops. -/
def Obligations.ApeTernaryTables : Prop :=
  (∀ (f : OpF) (s : State) (e : OpEnv), Issues s f e →
    let g := e.b % 2 ^ 64
    let byte (k : Nat) : Nat := e.a / 2 ^ (8 * k) % 256
    let note (bad : Bool) : List LandAct :=
      if bad then .sticky :: (if e.k.desc.bctrap then [.event 0x0104#16 0] else []) else []
    let bad1 := g ≤ 4 ∧ ∃ j, j < 12 ∧ 243 ≤ byte (12 * g + j)
    let bad2 := ∃ k, k < 64 ∧ byte k ≠ 0 ∧ byte k ≠ 1 ∧ byte k ≠ 255
    let term (k : Nat) : Int :=
      if byte k = 1 then laneInt f.ty e.b k else if byte k = 255 then -laneInt f.ty e.b k else 0
    (f.typ = 0xC →
      ∃ (r : Wide) (bad : Bool), exec (.tunp f) s = .next (lands s e .ape 0x2D 3 false r 0 (note bad))
        ∧ (bad = true ↔ bad1) ∧ (5 ≤ g → r = 0)
        ∧ (∀ j, 60 ≤ j → j < 64 → lane 8 r j = 0#8)
        ∧ ∀ j k, g ≤ 4 → j < 12 → k < 5 →
          if byte (12 * g + j) < 243 then
            lane 8 r (5 * j + k) = BitVec.ofInt 8 ((byte (12 * g + j) / 3 ^ k % 3 : Nat) - 1)
          else lane 8 r (5 * j + k) = 0#8)
    ∧ (f.typ = 1 ∨ f.typ = 2 →
      ∃ (r : Wide) (bad : Bool), exec (.tacc f) s = .next (lands s e .ape 0x2E 2 false r 0 (note bad))
        ∧ (bad = true ↔ bad2)
        ∧ ∀ k, k < 16 →
          let v := sx (e.c / 2 ^ (32 * k)) 32 + (term (4 * k) + term (4 * k + 1) + term (4 * k + 2) + term (4 * k + 3))
          lane 32 r k = BitVec.ofInt 32 (if f.sat then satS v 32 else v)))
  ∧ (∀ (f : OpF) (s : State) (e : OpEnv), Issues s f e →
    let n := laneCount f.ty
    let x := laneInt f.ty e.a
    let a := laneNat f.ty e.a
    let nb := f.modBits 4 0 + 1
    let fm := typeFmt f.ty
    let sgn := typeSigned f.ty
    (apeLegal 0x2F f = true → ApeLanes (.sat f) s e 0x2F 1 fun j => low f.ty (satI sgn (x j) nb))
    ∧ (f.tyInt = true →
      ApeLanes (.clamp f) s e 0x30 1 (fun j => low f.ty (min (max (x j) (laneInt f.ty e.b j)) (laneInt f.ty e.c j)))
      ∧ ApeLanes (.mask f) s e 0x32 1 (fun j => ones f.ty (e.a.testBit j))
      ∧ ApeLanes (.iota f) s e 0x33 1 (fun j => low f.ty (x 0 + j * laneInt f.ty e.b 0))
      ∧ ApeLanes (.lut f) s e 0x34 2 (fun j =>
          let k := min (a j) (2 * n - 1)
          if k < n then laneNat f.ty e.b k else laneNat f.ty e.c (k - n)))
    ∧ (typeFloat f.ty = true →
      ApeLanes (.clamp f) s e 0x30 1 fun j =>
        if (fm.dec (a j)).isNan then fm.nan
        else floatExtreme fm f.ftz false (floatExtreme fm f.ftz true (a j) (laneNat f.ty e.b j)) (laneNat f.ty e.c j)))

/-- R211, R214: the predicate ops read predicates as they stand at the start of the cycle and write one of p1 to
p7 of their own core at its end. R211: a predicate landing changes that bit of that core's p1 to p7 and nothing
else. -/
def Obligations.SpePredicates : Prop :=
  (∀ (f : OpF) (s : State) (e : OpEnv), Issues s f e →
    let p (i : Nat) : Bool := e.k.run.predicate e.core i
    let pd := f.modBits 8 5
    let px := f.modBits 4 1
    let nx := f.mod.getLsbD 0
    let is (i : Instr) (opc : Nat) (v : Bool) : Prop :=
      exec i s = .next (issued s e .spe opc { lands := [⟨e.t, e.pe, e.ops, .pred e.core pd v⟩] })
    let x := readInt (f.ty = 7) e.a 64
    let y := readInt (f.ty = 7) e.b 64
    is (.pset f) 0x01 (e.a != 0)
    ∧ is (.pcmp f) 0x02 ([x == y, x != y, decide (x < y), decide (x ≥ y)].getD (f.modBits 1 0) false)
    ∧ is (.pand f) 0x03 (p pd && (p px != nx))
    ∧ is (.por f) 0x04 (p pd || (p px != nx))
    ∧ is (.pnot f) 0x05 (!p px))
  ∧ (∀ (s : State) (ctx kh cyc pe ops core pd : Nat) (v : Bool) (k : Kernel),
    s.kernel? ctx kh = some k → 1 ≤ pd → pd ≤ 7 →
    ∃ r : Run, s.landOne ctx kh ⟨cyc, pe, ops, .pred core pd v⟩ = s.putKernel ctx kh { k with run := r }
      ∧ (∀ c i, i < 16 → r.predicate c i = if c = core ∧ i = pd then v else k.run.predicate c i)
      ∧ r = { k.run with preds := r.preds })

/-- R215: the iteration number of a stage, all ones where no such iteration exists (the model takes iteration m
to exist while m < LIM, log 89), the VCC, sums and differences, and shifts of 64-bit values. R216 to R218: an
arrival counts at the end of the cycle at a barrier of the op's own core, 24 cycles later at another core's,
from the store buffer in strict mode (from there as it leaves, and not before those 24 cycles, R221), and
nowhere for an identifier out of range; a wait answers the generation, or all ones for a barrier that is not its
own core's, and is late while the generation is the one named. R220 to R224: a signal-store, charged its 8 bytes
of data and 8 more (log entry 29), leaves at the end of the cycle, or stands in the store buffer in strict mode,
once the byte budget pays for it; `kexit` leaves its request, `.now` prevailing; `trapk` raises event 0x0705
with its immediate; a hint changes no value. -/
def Obligations.SpeScalars : Prop :=
  (∀ (f : OpF) (s : State) (e : OpEnv), Issues s f e →
    let is (i : Instr) (opc : Nat) (v : Nat) : Prop :=
      exec i s = .next (lands s e .spe opc 1 false (BitVec.ofNat 512 v) 0)
    let x := readInt (f.ty = 7) e.a 64
    let y := readInt (f.ty = 7) e.b 64
    let fit (v : Int) : Nat :=
      lowBits (if f.modBits 0 0 = 1 then (if f.ty = 7 then satS v 64 else satN v 64) else v) 64
    let a := e.a % 2 ^ 64
    let n := e.b % 2 ^ 64
    let st := f.modBits 2 0
    let m := e.k.run.iter
    is (.iter f) 0x06 (if st ≤ m ∧ m - st < e.k.run.lim then (m - st) % 2 ^ 64 else 2 ^ 64 - 1)
    ∧ is (.vcc f) 0x07 (e.k.run.vcc % 2 ^ 64)
    ∧ is (.sadd f) 0x08 (fit (x + y)) ∧ is (.ssub f) 0x10 (fit (x - y))
    ∧ is (.sshl f) 0x09 (
        if f.modBits 1 0 = 0 then (if n ≥ 64 then 0 else a * 2 ^ n % 2 ^ 64)
        else if f.modBits 1 0 = 1 then (if n ≥ 64 then 0 else a / 2 ^ n)
        else lowBits (sx e.a 64 / (2 ^ min n 63 : Nat)) 64))
  ∧ (∀ (f : OpF) (s : State) (e : OpEnv), Issues s f e →
    let num := e.a % 128
    let core := e.a / 128 % 128
    let out := e.a ≥ 2 ^ 14 ∨ num > 95 ∨ core ≥ e.k.desc.cores
    let i := 96 * core + num
    let b := e.k.bar i
    let gen := barGen b
    let peek := f.modBits 0 0 = 1
    let wait (v : Nat) (g : Run → Run) : State :=
      issued s e .spe 0x0B { lands := [resultLanding e 1 false (BitVec.ofNat 512 v) 0], run := g }
    let poison (r : Run) : Run := r.addEvent e.pe e.ops 0 0x0702#16 (Word.of e.a)
    let put (g : Kernel → Kernel) (s : State) : State := s.modKernel e.ctx e.kh g
    let queued (k : Kernel) : Kernel := { k with buffer := k.buffer ++ [.arrive i (if core = e.core then none else some (e.t + 24))] }
    let sent (k : Kernel) : Kernel := { k with arrivals := k.arrivals ++ [⟨e.t + 24, i, false⟩] }
    (out → exec (.speBarr f) s = .next (issued s e .spe 0x0A {})
      ∧ exec (.bwt f) s = .next (wait (2 ^ 64 - 1) id))
    ∧ (¬out →
      (e.k.run.strict = true → exec (.speBarr f) s = .next (issued s e .spe 0x0A { mach := put queued }))
      ∧ (e.k.run.strict = false → core = e.core →
        exec (.speBarr f) s = .next (issued s e .spe 0x0A { lands := [⟨e.t, e.pe, e.ops, .arrive i⟩] }))
      ∧ (e.k.run.strict = false → core ≠ e.core →
        exec (.speBarr f) s = .next (issued s e .spe 0x0A { mach := put sent }))
      ∧ (core ≠ e.core → exec (.bwt f) s = .next (wait (2 ^ 64 - 1) id))
      ∧ (core = e.core → (peek ∨ (barState b ≠ 3 ∧ gen ≠ e.b % 2 ^ 16)) → exec (.bwt f) s = .next (wait gen id))
      ∧ (core = e.core → ¬peek → barState b = 3 → exec (.bwt f) s = .next (wait gen poison))
      ∧ (core = e.core → ¬peek → barState b ≠ 3 → gen = e.b % 2 ^ 16 → exec (.bwt f) s = .next (s.late e))))
  ∧ (∀ (f : OpF) (s : State) (e : OpEnv), Issues s f e →
    let paid := s.spend e.k.cluster (s.cost [4] 16) (.op e.ctx e.kh e.pe)
    let hold (k : Kernel) : Kernel :=
      { k with buffer := k.buffer ++ [.signal e.core (Word.of e.a) (Word.of e.b) (Word.of e.c)] }
    let ask (r : Run) : Run := { r with kexit := some (decide (f.modBits 0 0 = 1) || r.kexit == some true) }
    (paid = none → exec (.speSigst f) s = .next ((s.refuse e.k.cluster (s.cost [4] 16) (.op e.ctx e.kh e.pe)).late e))
    ∧ (∀ t, paid = some t →
      (e.k.run.strict = true →
        exec (.speSigst f) s = .next (issued t e .spe 0x0C { mach := fun u => u.modKernel e.ctx e.kh hold }))
      ∧ (e.k.run.strict = false → exec (.speSigst f) s = .next (issued t e .spe 0x0C
          { lands := [⟨e.t, e.pe, e.ops, .signal (Word.of e.a) (Word.of e.b) (Word.of e.c)⟩] })))
    ∧ exec (.kexit f) s = .next (issued s e .spe 0x0D { run := ask })
    ∧ exec (.trapk f) s = .next (issued s e .spe 0x0E
        { run := fun r => r.addEvent e.pe e.ops 0 0x0705#16 (f.mod.setWidth 64) })
    ∧ exec (.speHint f) s = .next (issued s e .spe 0x0F {}))

/-- R247, R248, R256: a read of a word that stands in the window lands its data after 6 cycles (8 for `unf`) and, for
`ld` of PART 0 and `unf`, moves U on by 64; `ld` of PART 1 or 2 delivers the exponents of the fold group; a word
beyond U + PREF or beyond the last word reads zero; a word on its way makes the op late; a word below the tail reads
zero and raises event 0x0202, whether or not its fill is on its way. `vmsk` delivers the mask of the word at U. -/
def Obligations.MpeWindowReads : Prop :=
  ∀ (f : OpF) (s : State) (e : OpEnv) (d : StreamDesc), Issues s f e → (∀ opc, e.portLate .mpe opc = false) →
    let key := streamKey e.core (e.slot = 3) f.stream
    let x := e.k.run.stream key
    e.k.strm? key = some d →
    let gives (i : Instr) (opc l : Nat) (v : Wide) (n : Nat) : Prop := ∃ g : Run → Run,
      exec i s = .next (issued s e .mpe opc { lands := [resultLanding e l false v 0], run := g,
                                              recs := e.record .mpe opc l 1 0 v.toNat 0 0 })
      ∧ ((g e.k.run).stream key).u = x.u + n
    let fails (i : Instr) (opc l : Nat) : Prop :=
      exec i s = .next (issued s e .mpe opc
        { lands := [resultLanding e l false 0 0], recs := e.record .mpe opc l 1 0 0 0 0,
          run := fun r => r.addEvent e.pe e.ops 0 0x0202#16 (peInfo e.core e.slot e.ops f.stream) })
    let word (w : Nat) : Wide := ((Tab.get? x.win w).map WinWord.data).getD 0
    let w := x.u / 64
    let p : Int := x.u + 64 * sx e.a 16
    (x.wordLate w = false →
      (f.modBits 1 0 = 0 → gives (.ld f) 0x01 6 (word w) 64)
      ∧ (f.modBits 1 0 = 1 → gives (.ld f) 0x01 6 (lane 512 (Tab.getD x.exps (w / groupWords d.deliv) 0) 0) 0)
      ∧ (f.modBits 1 0 = 2 → gives (.ld f) 0x01 6 (lane 512 (Tab.getD x.exps (w / groupWords d.deliv) 0) 1) 0)
      ∧ gives (.unf f) 0x09 8 (word w) 64)
    ∧ (x.wordLate w = true → exec (.ld f) s = .next (s.late e) ∧ exec (.unf f) s = .next (s.late e))
    ∧ (p ≥ x.u + x.pref → gives (.ldk f) 0x02 6 0 0)
    ∧ (p < x.u + x.pref → p < 64 * d.tail x → fails (.ldk f) 0x02 6)
    ∧ (p < x.u + x.pref → 64 * d.tail x ≤ p →
        (x.wordLate (p / 64).toNat = false → gives (.ldk f) 0x02 6 (word (p / 64).toNat) 0)
        ∧ (x.wordLate (p / 64).toNat = true → exec (.ldk f) s = .next (s.late e)))
    ∧ (e.k.headLate e.core e.slot f.stream = false →
      gives (.vmsk f) 0x0F 1 (BitVec.ofNat 512
        (if d.kind = .indexed then x.lastMask.toNat else ((Tab.get? x.win w).map fun y => y.mask.toNat).getD 0)) 0)

/-- R244, R249, R251: a store of a word or of indexed lanes, its translations at hand, its bytes paid for and no
`sbar` holding it, lands in the issuing core's scratchpad after 4 cycles (8 for `stx`) and in another core's
after 24, and its record lasts to the last of these, where it writes a scratchpad of the region at all (R257);
`st` moves U on by 64, `stk` and `stx` leave it; `st` into a window that write-backs keep full is late; `stk` of
a word below the tail raises event 0x0202 and writes nothing. R250, R251: `lds` reads 64 bytes of a scratchpad
of the region as they stand at issue, `sts` writes the bytes of B that C enables, both after 4 cycles, or 24
with RMT; a core outside the region reads zero and writes nothing. `ldx` gathers its valid lanes, the others
zero, and lands after 8 cycles with the mask of the lanes that it read. -/
def Obligations.MpeStores : Prop :=
  (∀ (f : OpF) (s t : State) (e : OpEnv) (d : StreamDesc), Issues s f e → (∀ opc, e.portLate .mpe opc = false) →
    let key := streamKey e.core (e.slot = 3) f.stream
    let x := e.k.run.stream key
    e.k.strm? key = some d → x.fmt.isSome = true → x.failed = false →
    let plan (w : Nat) : StorePlan := s.storePlan e.ctx e.k x (d.storeElems x w (BitVec.ofNat 512 e.a))
    let paid (p : StorePlan) : Prop :=
      p.wait = none ∧ p.walks = [] ∧ p.held = false ∧ (p.near.length = 0 ∨ e.k.run.heldNow key = false)
        ∧ s.spend e.k.cluster (s.cost [0] p.near.length) (.op e.ctx e.kh e.pe) = some t
    let stores (i : Instr) (opc l far pos n : Nat) (p : StorePlan) : Prop := ∃ g : Run → Run,
      let ls := nearLands e.k key e.core e.pe e.ops (l - 1) far p.near
      let last := ls.foldl (fun m y => max m (y.cyc + 1 - e.t)) l
      exec i s = .next (issued t e .mpe opc
        { lands := ls, run := g, recs := if ls.isEmpty then [] else e.record .mpe opc last 2 pos e.a e.b e.c })
      ∧ ((g e.k.run).stream key).u = x.u + n
    let w := x.u / 64
    let back := 64 * (1 + e.b % 2 ^ 16)
    let v := (x.u - back) / 64
    let elems := (indexLanes (d.bits x) (nth d.bounds 0 0) e.a).map fun l =>
      (l.1, d.elemVa x l.2, laneBytes (d.bits x) (BitVec.ofNat 512 e.b) l.1)
    (d.full x = true → exec (.st f) s = .next (s.late e))
    ∧ (d.full x = false → paid (plan w) → stores (.st f) 0x03 4 23 (64 * w) 64 (plan w))
    ∧ (back ≤ x.u → d.tail x ≤ v → paid (plan v) → stores (.stk f) 0x04 4 23 (64 * v) 0 (plan v))
    ∧ (x.u < back ∨ v < d.tail x → exec (.stk f) s = .next (issued s e .mpe 0x04
        { run := fun r => r.addEvent e.pe e.ops 0 0x0202#16 (peInfo e.core e.slot e.ops f.stream) }))
    ∧ (paid (s.storePlan e.ctx e.k x elems true) →
        stores (.stx f) 0x06 8 23 0 0 (s.storePlan e.ctx e.k x elems true)))
  ∧ (∀ (f : OpF) (s t : State) (e : OpEnv) (d : StreamDesc), Issues s f e → (∀ opc, e.portLate .mpe opc = false) →
    let rmt := f.mod.getLsbD 0
    let core := if f.modBits 0 0 = 1 then e.a / 2 ^ 21 % 128 else e.core
    let pa := e.k.spm core + 64 * (e.a / 64 % 2 ^ 15)
    let l := if rmt then 24 else 4
    let key := streamKey e.core (e.slot = 3) f.stream
    let x := e.k.run.stream key
    let gives (u : State) (i : Instr) (opc l : Nat) (v : Wide) (more : List Landing) : Prop :=
      exec i s = .next (issued u e .mpe opc { lands := resultLanding e l false v 0 :: more,
                                              recs := e.record .mpe opc l 1 0 v.toNat 0 0 })
    let mask := (List.range 64).map fun j => if e.c.testBit j then 1 else 0
    (core < e.k.desc.cores → s.spend e.k.cluster (s.cost [0] 64) (.op e.ctx e.kh e.pe) = some t →
      (e.k.run.strict = false → t.plain pa 64 →
        gives t (.lds f) 0x07 l (BitVec.ofNat 512 (Memory.readLE t.mem pa 64)) [])
      ∧ exec (.sts f) s = .next (issued t e .mpe 0x08
          { lands := [⟨e.t + l - 1, e.pe, e.ops, .bytes pa (bytesOf e.b 64) mask⟩],
            recs := e.record .mpe 0x08 l 2 0 e.a e.b e.c }))
    ∧ (e.k.desc.cores ≤ core → gives s (.lds f) 0x07 l 0 [] ∧ exec (.sts f) s = .next (issued s e .mpe 0x08 {}))
    ∧ (∀ pf, e.k.strm? key = some d → x.fmt = some pf → x.failed = false →
      let n := 512 / d.bits x
      let got (j : Nat) : Option Nat :=
        let v := sx (e.a / 2 ^ (d.bits x * j)) 32
        if 0 ≤ v ∧ v < nth d.bounds 0 0 then
          match s.ldxLane e.ctx e.k d x pf v.toNat with | .ok b => some b | _ => none
        else none
      (∀ j v, j < n → v = sx (e.a / 2 ^ (d.bits x * j)) 32 → 0 ≤ v → v < nth d.bounds 0 0 →
        ∃ b, s.ldxLane e.ctx e.k d x pf v.toNat = .ok b ∧ b < 2 ^ d.bits x) →
      e.ldxHeld x = false →
      ∃ (r : Wide) (m : Word),
        gives s (.ldx f) 0x05 8 r [⟨e.t + 7, e.pe, e.ops, .ldxMask key m⟩]
        ∧ (∀ j, j < n → r.toNat / 2 ^ (d.bits x * j) % 2 ^ d.bits x = (got j).getD 0)
        ∧ ∀ j, j < 64 → m.getLsbD j = (decide (j < n) && (got j).isSome)))

/-- R252 to R255: an atomic message joins those of the round once its bytes are paid for, at the classes of the
place that it goes to (19 R463); `sbar` puts its order in force; `sadv` moves U; `pfh` sets PREF; `wsync` writes
back the words below U of a STORE stream, or refills the words from U on of a LOAD stream. R278 to R280: `dcvs`
in the op ring replaces one chunk of the conversion register by the codes of sixteen FP32 lanes; the
masked-packed forms replace all of it by the codes of their groups and move the byte position on, or wait for
the bytes; a first byte below the tail raises event 0x0202 (08 R237). -/
def Obligations.MpeControl : Prop :=
  (∀ (f : OpF) (s t : State) (e : OpEnv) (d : StreamDesc), Issues s f e → (∀ opc, e.portLate .mpe opc = false) →
    let key := streamKey e.core (e.slot = 3) f.stream
    let x := e.k.run.stream key
    let n := if f.ty = 7 ∨ f.ty = 8 then 8 else 4
    let msg : AtmMsg := ⟨e.pe, e.ops, key, e.t, e.a % 2 ^ 57 / n * n, f.modBits 4 2, f.ty, Word.of e.b⟩
    let hold : SbarHold := ⟨e.core, BitVec.ofNat 24 e.a, BitVec.ofNat 24 (e.a / 2 ^ 24), e.t⟩
    let does (u : State) (i : Instr) (opc : Nat) (g : Run → Run) : Prop :=
      exec i s = .next (issued u e .mpe opc { run := g })
    let on (g : StreamSt → StreamSt) (r : Run) : Run := r.putStream key (g (r.stream key))
    let classes := ((s.aimOf e.ctx e.k.cluster msg.va).map s.atomClasses).getD [2]
    (s.spend e.k.cluster (s.cost classes n) (.op e.ctx e.kh e.pe) = some t → does t (.atm f) 0x0A fun r => { r with atms := r.atms ++ [msg] })
    ∧ does s (.sbar f) 0x0B (fun r => { r with sbars := r.sbars ++ [hold] })
    ∧ (e.k.strm? key = some d →
      (∃ g, does s (.sadv f) 0x0C g ∧ ((g e.k.run).stream key).u = x.u + 64 * (e.a % 2 ^ 16))
      ∧ (groupWords d.deliv = 1 → ∃ g, does s (.pfh f) 0x0D g
        ∧ ((g e.k.run).stream key).pref = max 64 (min (64 * (e.a % 2 ^ 32 / 64)) (2 ^ d.wlog - d.ret)))
      ∧ (d.store = true → does s (.wsync f) 0x0E (on fun y => d.writeBack e.t (· < x.u / 64) y))
      ∧ (d.store = false → d.kind ≠ .indexed → x.failed = false →
        does s (.wsync f) 0x0E (on fun y => y.refillFrom e.t (y.u / 64) d))))
  ∧ (∀ (f : OpF) (s : State) (e : OpEnv) (d : StreamDesc), Issues s f e →
    let g := cvtFmt (f.modBits 2 0)
    let n := 16 * g.width
    let q := f.modBits 6 5
    let key := streamKey e.core (f.mod.getLsbD 4) f.stream
    let x := e.k.run.stream key
    let land (m v : Wide) : Landing := ⟨e.t + 1, e.pe, e.ops, .cr m v (f.l0c = 1) (f.l1c = 1)⟩
    let mpx (i : Instr) (esz : Nat) : Prop :=
      (∀ cs p, expandGroups (d.byteAt x) esz (4 / esz) x.bp = .ok (cs, p) →
        let v := joinLanes (8 * esz) cs
        ∃ h : Run → Run,
          exec i s = .next (issued s e .dpe 0x12 { lands := [land (BitVec.allOnes 512) (BitVec.ofNat 512 v)], run := h,
                                                   recs := e.record .dpe 0x12 2 1 0 v 0 0 })
          ∧ ((h e.k.run).stream key).bp = p
          ∧ (x.failed = false → x.bp / 64 < d.tail x → 0x0202#16 ∈ (h e.k.run).events.map TrapEvent.cause))
      ∧ (∀ p, expandGroups (d.byteAt x) esz (4 / esz) x.bp = .error p → ∃ t, exec i s = .next (State.late t e))
    (f.modBits 2 0 ≤ 4 → q * n + n ≤ 512 →
      ∃ m v : Wide,
        exec (.dcvsOp f) s = .next (issued s e .dpe 0x12
          { lands := [land m v], recs := e.record .dpe 0x12 2 1 0 v.toNat 0 0 })
        ∧ (∀ j, j < 512 → m.getLsbD j = decide (q * n ≤ j ∧ j < q * n + n))
        ∧ (∀ j, j < 16 → v.toNat / 2 ^ (q * n + g.width * j) % 2 ^ g.width
            = g.enc (Fmt.f32.dec (laneNat 9 e.a j)) .rne (f.mod.getLsbD 3) % 2 ^ g.width)
        ∧ (∀ j, j < 512 → m.getLsbD j = false → v.getLsbD j = false))
    ∧ (e.k.strm? key = some d → mpx (.mpx8 f) 1 ∧ mpx (.mpx16 f) 2))

/-- R270, R265, 02 R44: the lanewise arithmetic of drain words, each float result rounded once under RMODE and
SAT, integers wrapping or clamped under SAT, a NaN that `dsel` selects made the canonical one; `dmax` with ABS
compares the exact magnitudes and writes the low bits of the larger (log entry 64). R271, R272: the activations
and the piecewise-linear function, on FP32 lanes. -/
def Obligations.DrainArithmetic : Prop :=
  (∀ (dd da db : BitVec 4) (lt rm : BitVec 2) (sat abs : Bool) (j nb : BitVec 4) (s : State) (e : DEnv),
    s.drainEnv = some e →
    let ty := ltTy lt
    let w := typeWidth ty
    let fm := typeFmt ty
    let m := Rm.of2 rm
    let x (i : Nat) : Nat := laneNat ty (e.r da) i
    let y (i : Nat) : Nat := laneNat ty (e.r db) i
    let z (i : Nat) : Nat := laneNat ty (e.reg (db.toNat + e.b % (nb.toNat + 1))) i
    let flt (v : Val) : Nat := fm.enc v m sat
    let int (v : Int) : Nat := lowBits (if sat then satS v w else v) w
    let d (n : Nat) : Val := fm.dec n
    let n (v : Nat) : Int := sx v w
    let is (i : Instr) (v : Nat → Nat) : Prop := DrainLanes i s e dd ty v
    let top (a b : Nat) : Nat := floatExtreme fm false true a b
    let mag (v : Nat) : Nat := if abs then v % 2 ^ (w - 1) else v
    let size (v : Nat) : Int := if abs then (n v).natAbs else n v
    (typeFloat ty = true →
      is (.dadd dd da db lt rm sat) (fun i => flt ((d (x i)).add (d (y i)) m))
      ∧ is (.dmul dd da db lt rm sat) (fun i => flt ((d (x i)).mul (d (y i))))
      ∧ is (.dscl dd da db lt rm sat j) (fun i => flt ((d (x i)).mul (d (y j.toNat))))
      ∧ is (.dbias dd da db lt rm sat nb) (fun i => flt ((d (x i)).add (d (z i)) m))
      ∧ is (.dclp dd da db lt j) (fun i => if (d (x i)).isNan then fm.nan
          else floatExtreme fm false false (top (x i) (y j.toNat)) (y (j.toNat + 1)))
      ∧ is (.dmax dd da db lt abs) (fun i => top (mag (x i)) (mag (y i))))
    ∧ (typeFloat ty = false →
      is (.dadd dd da db lt rm sat) (fun i => int (n (x i) + n (y i)))
      ∧ is (.dmul dd da db lt rm sat) (fun i => int (n (x i) * n (y i)))
      ∧ is (.dbias dd da db lt rm sat nb) (fun i => int (n (x i) + n (z i)))
      ∧ is (.dclp dd da db lt j) (fun i => lowBits (min (max (n (x i)) (n (y j.toNat))) (n (y (j.toNat + 1)))) w)
      ∧ is (.dmax dd da db lt abs) (fun i => lowBits (max (size (x i)) (size (y i))) w))
    ∧ is (.dsel dd da db lt) (fun i =>
        let v := if laneNat ty (e.r dd) i ≠ 0 then x i else y i
        if typeFloat ty = true ∧ (d v).isNan = true then fm.nan else v))
  ∧ (∀ (dd da db : BitVec 4) (rm fn : BitVec 2) (sat : Bool) (s : State) (e : DEnv), s.drainEnv = some e →
    let f (r i : Nat) : Val := Fmt.f32.dec (laneNat 9 (e.reg r) i)
    let x (i : Nat) : Nat := laneNat 9 (e.r da) i
    let v (i : Nat) : Val := f da.toNat i
    let enc (u : Val) : Nat := Fmt.f32.enc u (Rm.of2 rm) sat
    let act (g : Nat → Nat) : Prop := DrainLanes (.dact dd da db rm sat fn) s e dd 9 fun i =>
      if (v i).isNan then Fmt.f32.nan else g i
    let p (i : Nat) : Val := ((v i).add (f (db.toNat + 2) 0).negate .rne).mul (f (db.toNat + 2) 1)
    let fused (i j : Nat) : Nat := enc (((f db.toNat j).mul (v i)).add (f (db.toNat + 1) j) (Rm.of2 rm))
    (fn = 0 → act fun i => if (v i).isZero ∨ (v i).neg? then 0 else x i)
    ∧ (fn = 1 → act fun i => if (v i).neg? ∧ !(v i).isZero then enc ((v i).mul (f db.toNat 0)) else x i)
    ∧ (fn = 2 → act fun i => x i % 2 ^ 31)
    ∧ DrainLanes (.dtab dd da db rm sat) s e dd 9 fun i => match p i with
      | .nan => Fmt.f32.nan
      | .inf neg => fused i (if neg then 0 else 15)
      | .fin neg m ex => fused i (max 0 (min (roundInt .rdn neg m ex) 15)).toNat)

/-- R273: a word `dmax.grp` takes the maximum of its beat's lanes, NaN lanes skipped, with that of the beats of
the group before it: float lanes by maximumNumber (07 R198), with their sign cleared under ABS, integer lanes as
signed numbers, under ABS as exact magnitudes (log entry 64); the words behind it see the group's maximum in
every lane of the register that it names, or the canonical NaN where every lane was NaN. R274: conversion among
the lane types, the upper source lanes under HI, and two sources when it narrows. -/
def Obligations.DrainConvert : Prop :=
  (∀ (dd da : BitVec 4) (lt : BitVec 2) (abs : Bool) (s : State) (e : DEnv) (b : Beat),
    s.drainEnv = some e → e.beat = some b →
    let ty := ltTy lt
    let best (d : DrainSt) : Option Int :=
      (d.groups.find? fun x => x.serial = b.serial && x.g = b.b / b.size d.image).bind GroupMax.best
    0 < b.n →
    (∃ g : Run → Run, exec (.dmaxGrp dd da lt abs) s = .next (wordDone s e e.regs e.lens [] g)
      ∧ best ((g e.k.run).drain e.core) = foldMax ty abs (e.r da) (best (e.k.run.drain e.core)))
    ∧ (∀ o, typeFloat ty = false →
      foldMax ty abs (e.r da) o
        = (List.range (laneCount ty)).foldl (fun o i =>
            let x := sx (laneNat ty (e.r da) i) (typeWidth ty)
            let y : Int := if abs then x.natAbs else x
            some (match o with | none => y | some z => max y z)) o)
    ∧ (∀ (o : Option Nat), typeFloat ty = true →
      let fm := typeFmt ty
      let greater (x y : Nat) : Bool :=
        (fm.dec x).cmp (fm.dec y) == some .gt || ((fm.dec x).cmp (fm.dec y) == some .eq && !(fm.dec x).neg?)
      foldMax ty abs (e.r da) (o.map Int.ofNat)
        = ((List.range (laneCount ty)).foldl (fun o i =>
            let x := laneNat ty (e.r da) i
            let y := if abs then x % 2 ^ (typeWidth ty - 1) else x
            if (fm.dec x).isNan then o else match o with
              | none => some y
              | some z => if (fm.dec z).isNan then some (fm.enc (fm.dec y) .rne)
                  else some (fm.enc (fm.dec (if greater y z then y else z)) .rne)) o).map Int.ofNat)
    ∧ (∀ (d : DrainSt) (kg : Nat), progWall d.image = some kg → b.k = kg + 1 →
      let w := nth d.image (progLoop d.image + 1 + kg) 0
      let dst := (w.extractLsb' 22 4).toNat
      let t := ltTy (w.extractLsb' 12 2)
      ∀ i, i < laneCount t → laneNat t ((lane 512 (d.beatRegs b).1 dst).toNat) i
        = match best d with | some v => lowBits v (typeWidth t) | none => (typeFmt t).nan % 2 ^ typeWidth t))
  ∧ (∀ (dd da db : BitVec 4) (dlt slt rm : BitVec 2) (sat hi : Bool) (s : State) (e : DEnv), s.drainEnv = some e →
    let td := ltTy dlt
    let ts := ltTy slt
    let w := typeWidth td
    let src (i : Nat) : Nat :=
      if typeWidth td = 64 ∧ typeWidth ts = 32 then laneNat ts (e.r da) (if hi then i + 8 else i)
      else if typeWidth td = 32 ∧ typeWidth ts = 64 then
        (if i < 8 then laneNat ts (e.r da) i else laneNat ts (e.r db) (i - 8))
      else laneNat ts (e.r da) i
    let int (i : Nat) : Int := sx (src i) (typeWidth ts)
    let flt (i : Nat) : Val := (typeFmt ts).dec (src i)
    let is (v : Nat → Nat) : Prop := DrainLanes (.dcvt dd da db dlt rm sat slt hi) s e dd td v
    let enc (v : Val) : Nat := (typeFmt td).enc v (Rm.of2 rm) sat
    (typeFloat td = true → typeFloat ts = true → is fun i => enc (flt i))
    ∧ (typeFloat td = true → typeFloat ts = false → is fun i => enc (Val.ofInt (int i)))
    ∧ (typeFloat td = false → typeFloat ts = true → is fun i => lowBits ((flt i).toInt (Rm.of2 rm) true w) w)
    ∧ (typeFloat td = false → typeFloat ts = false → is fun i => lowBits (if sat then satS (int i) w else int i) w))

/-- R275: `dqnt` encodes each FP32 lane, or its exact quotient by a scale, once in a format, and makes from a
group maximum the least power of two, no less than 2^-126, that scales it to at most QMAX. R276 to R278: codes
packed from byte 0 (of the low bits of each lane: log entry 54), the masked-packed form, and `dcvs` into the
bytes of its place. -/
def Obligations.DrainQuantise : Prop :=
  (∀ (dd da db fmt : BitVec 4) (rm : BitVec 2) (sat : Bool) (s : State) (e : DEnv), s.drainEnv = some e → fmt < 8 →
    let k := fmt.toNat
    let x (i : Nat) : Val := Fmt.f32.dec (laneNat 9 (e.r da) i)
    let sc := Fmt.f32.dec (laneNat 9 (e.r db) 0)
    let fm := [Fmt.t8, .t6, .e4m3, .e5m2, .bf16, .f16].getD k .t8
    let n := if k = 6 then 8 else 16
    let code (v : Val) : Nat :=
      if k < 6 then fm.enc v (Rm.of2 rm) sat else lowBits (v.toInt (Rm.of2 rm) true n) n
    let qmax : Nat × Int :=
      [(4, 0), (4, 0), (448, 0), (57344, 0), (255, 120), (65504, 0), (127, 0), (32767, 0)].getD k (0, 0)
    let scale (v : Val) : Prop := DrainSets (.dqntMks dd da fmt sat rm) s e dd (BitVec.ofNat 512 (Fmt.f32.enc v .rne)) 4
    let fits (m : Nat) (ex p : Int) : Prop := cmpMag m ex qmax.1 (qmax.2 + p) ≠ .gt
    DrainLanes (.dqnt dd da fmt sat rm) s e dd 9 (fun i => code (x i))
    ∧ DrainLanes (.dqntScl dd da db fmt sat rm) s e dd 9 (fun i =>
        if sc.isZero ∨ sc.isInf ∨ sc.isNan then (if k < 6 then fm.nan else 0) else code ((x i).div sc))
    ∧ (match x 0 with
      | .fin _ m ex =>
        (m = 0 → scale (.fin false 1 0))
        ∧ (m ≠ 0 → ∃ p : Int, scale (.fin false 1 p) ∧ -126 ≤ p ∧ fits m ex p
            ∧ (p = -126 ∨ ¬fits m ex (p - 1)))
      | _ => scale .nan))
  ∧ (∀ (dd da : BitVec 4) (cs q : BitVec 2) (tgt : BitVec 3) (nz80 w16 sat : Bool) (s : State) (e : DEnv),
    s.drainEnv = some e →
    let x (i : Nat) : Nat := laneNat 9 (e.r da) i
    let n := [8, 16, 6].getD cs.toNat 8
    let esz := if w16 then 2 else 1
    let code (i : Nat) : Nat := x i % 2 ^ (8 * esz)
    let set (i : Nat) : Bool := code i ≠ 0 && !(nz80 && code i = 2 ^ (8 * esz - 1))
    let rank (i : Nat) : Nat := ((List.range i).filter set).length
    let g := [Fmt.bf16, .f16, .e4m3, .e5m2, .t8].getD tgt.toNat .t8
    let at_ := q.toNat * (16 * g.width)
    (cs ≠ 3 → ∃ r : Wide, DrainSets (.dpack dd da cs) s e dd r (2 * n)
      ∧ (∀ i, i < 16 → r.toNat / 2 ^ (n * i) % 2 ^ n = x i % 2 ^ n) ∧ r.toNat < 2 ^ (16 * n))
    ∧ (∃ r : Wide, DrainSets (.dmpk dd da nz80 w16) s e dd r (2 + esz * rank 16)
      ∧ (∀ i, i < 16 → r.getLsbD i = set i)
      ∧ (∀ i, i < 16 → set i = true → r.toNat / 2 ^ (16 + 8 * esz * rank i) % 2 ^ (8 * esz) = code i)
      ∧ r.toNat < 2 ^ (16 + 8 * esz * rank 16))
    ∧ (tgt ≤ 4 → at_ + 16 * g.width ≤ 512 → ∃ r : Wide, DrainSets (.dcvs dd da q sat tgt) s e dd r 64
      ∧ (∀ i, i < 16 → r.toNat / 2 ^ (at_ + g.width * i) % 2 ^ g.width
          = g.enc (Fmt.f32.dec (x i)) .rne sat % 2 ^ g.width)
      ∧ ∀ j, j < 512 → j < at_ ∨ at_ + 16 * g.width ≤ j → r.getLsbD j = (e.r dd).testBit j))

/-- R258, R267 to R269: the beat or a stream's word enters a register; a register is copied with its length or set from
an immediate; `dst` appends the low LEN bytes of a register to the stream's partial word and writes the word when it is
full; `dloop` ends the prologue and `dend` a beat, at no charge, whose drain's partial words are to be padded in the
next cycle when no other beat of it is left. Each of `dld`, `dldStream`, `dmov`, `dmovImm`, `dst`, `dloop` and `dend` so
completes, answering the next state given: `dld` and `dend` in a beat, `dldStream` where the word at U has arrived,
`dst` where its word is not yet full or the window takes it. -/
def Obligations.DrainMovement : Prop :=
  ∀ (dd da st g : BitVec 4) (m fl gf : Bool) (v : BitVec 12) (s : State) (e : DEnv), s.drainEnv = some e →
    let key := streamKey e.core m st.toNat
    let x := e.k.run.stream key
    let regs (v : Wide) : BitVec 8192 := setLane e.regs dd.toNat v
    let lens := e.lens.set dd.toNat 64
    let serial := (e.beat.map Beat.serial).getD 0
    let first (b : Beat) : Prop := b.b % max 1 (b.size e.d.image) = 0
    let bytes := e.d.part serial key ++ bytesOf (e.r da) (e.len da)
    let part (r : Run) : List Nat := (r.drain e.core).part serial key
    let keeps (h : Run → Run) : Prop := ∀ r, h r = { r with drains := (h r).drains }
      ∧ ∀ c, c ≠ e.core → (h r).drain c = r.drain c
    let moves (h : Run → Run) : Prop := ∀ r, (∀ q, q ≠ key → (h r).stream q = r.stream q)
      ∧ ((e.k.strm? key).isSome = true → ((h r).stream key).u = (r.stream key).u + 64)
    let full := 64 ≤ bytes.length
    let stores := gf = false ∨ ∀ b, e.beat = some b → first b
    (∀ b, e.beat = some b → DrainSets (.dld dd) s e dd b.data 64)
    ∧ (∀ d, e.k.strm? key = some d →
      (x.wordLate (x.u / 64) = true → exec (.dldStream dd m st) s = .next (s.lateWord e))
      ∧ (x.wordLate (x.u / 64) = false → d.tail x ≤ x.u / 64 → ∃ h : Run → Run,
        exec (.dldStream dd m st) s
          = .next (wordDone s e (regs (((Tab.get? x.win (x.u / 64)).map WinWord.data).getD 0)) lens [] h)
        ∧ moves h ∧ ∀ r, h r = { r with streams := (h r).streams, events := (h r).events }))
    ∧ DrainSets (.dmov dd da) s e dd (BitVec.ofNat 512 (e.r da)) (e.len da)
    ∧ DrainLanes (.dmovImm dd fl v) s e dd 5 (fun _ =>
        if fl then Fmt.f32.enc (Val.ofInt v.toInt) .rne else lowBits v.toInt 32)
    ∧ (∀ b, e.beat = some b → 0 < b.n → gf = true → ¬first b →
      exec (.dst da gf m st) s = .next (wordDone s e e.regs e.lens))
    ∧ (stores → ¬full → ∃ h : Run → Run, exec (.dst da gf m st) s = .next (wordDone s e e.regs e.lens [] h)
        ∧ keeps h ∧ ∀ r, part (h r) = bytes)
    ∧ (stores → full → ∀ t, s.putOut e key (bytes.take 64) = .wait t →
        exec (.dst da gf m st) s = .next (t.lateWord e))
    ∧ (stores → full → ∀ t ls run, s.putOut e key (bytes.take 64) = .go t ls run → ∃ h : Run → Run,
        exec (.dst da gf m st) s = .next (wordDone t e e.regs e.lens ls h) ∧ moves h
        ∧ (∀ r, h r = { r with streams := (h r).streams, events := (h r).events, drains := (h r).drains })
        ∧ ∀ r, part (h r) = bytes.drop 64)
    ∧ exec (.dloop g) s = .next (s.modRun e.ctx e.kh fun r =>
        r.putDrain e.core { r.drain e.core with pos := e.idx + 1 })
    ∧ (∀ b, e.beat = some b → ∃ h : Run → Run, exec .dend s = .next (s.modRun e.ctx e.kh h) ∧ keeps h
      ∧ ∀ r, let d := r.drain e.core
        let y := (h r).drain e.core
        let more := (∃ c, c ∈ d.beats ∧ c.serial = b.serial ∧ c.b ≠ b.b) ∨ ∃ c, d.cur = some c ∧ c.serial = b.serial
        (∀ c, c ∈ y.beats ↔ c ∈ d.beats ∧ ¬(c.serial = b.serial ∧ c.b = b.b))
        ∧ (more → y.pads = d.pads) ∧ (¬more → y.pads = d.pads ++ [(r.vcc + 1, b.serial)])
        ∧ y = { d with beats := y.beats, pads := y.pads, groups := y.groups })

/-- 00 R3: integer results go to rd, x0 discarding them, and the thread goes on behind the instruction; nothing
else of the machine changes. 00 R3: jumps link the address behind them and branches go to their target when
their condition holds. -/
def Obligations.HostIntegers : Prop :=
  (∀ (s : State) (c : Bool) (rd rs1 rs2 : Reg) (imm : BitVec 20) (i12 : BitVec 12) (sh : BitVec 6)
    (iop : ImmOp) (sop : ShiftOp) (aop : AluOp) (uop : UnaryOp),
    let h := s.me
    let a := h.reg rs1
    let b := h.reg rs2
    let up : Word := (imm ++ 0#12 : BitVec 32).signExtend 64
    let is (r : Rv) (v : Word) : Prop := HostTo (.hostInstruction r c) s s (h.moved rd v (if c then 2 else 4))
    is (.lui rd imm) up ∧ is (.auipc rd imm) (h.pc + up)
    ∧ is (.immOp iop rd rs1 i12) (immResult iop a (i12.signExtend 64))
    ∧ is (.shift sop rd rs1 sh) (shiftResult sop a sh.toNat)
    ∧ is (.alu aop rd rs1 rs2) (aluResult aop a b)
    ∧ is (.unary uop rd rs1) (unaryResult uop a)
    ∧ (aop = .mulhu → (aluResult aop a b).toNat = a.toNat * b.toNat / 2 ^ 64)
    ∧ (aop = .mulh → (aluResult aop a b).toInt = a.toInt * b.toInt / (2 ^ 64 : Nat))
    ∧ (aop = .div → a.toInt ≠ -(2 ^ 63 : Nat) → b ≠ 0 → (aluResult aop a b).toInt = a.toInt.tdiv b.toInt)
    ∧ (aop = .div → b = 0 → aluResult aop a b = BitVec.allOnes 64)
    ∧ (aop = .rem → b = 0 → aluResult aop a b = a))
  ∧ (∀ (s : State) (c : Bool) (rd rs1 rs2 : Reg) (j : BitVec 21) (i12 : BitVec 12) (b : BitVec 13) (op : BranchOp),
    let h := s.me
    let n := if c then 2 else 4
    let link := h.pc + Word.of n
    let x := h.reg rs1
    let y := h.reg rs2
    let taken : Prop := match op with
      | .beq => x = y | .bne => x ≠ y | .blt => x.toInt < y.toInt | .bge => y.toInt ≤ x.toInt
      | .bltu => x.toNat < y.toNat | .bgeu => y.toNat ≤ x.toNat
    HostTo (.hostInstruction (.jal rd j) c) s s { h.moved rd link n with pc := h.pc + j.signExtend 64 }
    ∧ HostTo (.hostInstruction (.jalr rd rs1 i12) c) s s
        { h.moved rd link n with pc := (x + i12.signExtend 64) &&& ~~~1#64 }
    ∧ (taken → HostTo (.hostInstruction (.branch op rs1 rs2 b) c) s s { h with pc := h.pc + b.signExtend 64 })
    ∧ (¬taken → HostTo (.hostInstruction (.branch op rs1 rs2 b) c) s s { h with pc := link }))

/-- 00 R3: a load of plain memory answers its bytes, little-endian, extended by its sign; a misaligned one traps
with 0x0511 (04 R124); one whose translation fails raises that cause. 00 R3: a store changes the bytes that it
names and no other, wakes the threads that watch their lines and takes these from the other clusters' L1;
through a page of POL 3 it enters the thread's write-combining buffer (13 R356); a misaligned one traps with
0x0511 (04 R124). -/
def Obligations.HostLoadsStores : Prop :=
  (∀ (s t : State) (c : Bool) (op : LoadOp) (rd rs1 : Reg) (imm : BitVec 12) (f : FFmt) (pa : Nat) (leaf : Word),
    let va := (s.me.reg rs1 + imm.signExtend 64).toNat
    let len := if c then 2 else 4
    let (n, sgn) : Nat × Bool := match op with
      | .lb => (1, true) | .lh => (2, true) | .lw => (4, true) | .ld => (8, true)
      | .lbu => (1, false) | .lhu => (2, false) | .lwu => (4, false)
    let fn := match f with | .s => 4 | .d => 8
    let v := Memory.readLE t.mem pa n
    let w := Memory.readLE t.mem pa fn
    let i := Instr.hostInstruction (.load op rd rs1 imm) c
    (HostReach s va n .read pa leaf t →
      HostTo i s t (t.me.moved rd (if sgn then BitVec.ofInt 64 (sx v (8 * n)) else BitVec.ofNat 64 v) len))
    ∧ (HostReach s va fn .read pa leaf t → HostTo (.hostInstruction (.fload f rd rs1 imm) c) s t
        { t.me with pc := t.me.pc + Word.of len,
                    f := t.me.f.set rd.toNat (match f with
                      | .s => BitVec.allOnes 32 ++ BitVec.ofNat 32 w | .d => BitVec.ofNat 64 w) })
    ∧ (va % n ≠ 0 → exec i s = .next (s.trap 0x0511#16 (Word.of va)))
    ∧ (∀ e a, va % n = 0 → s.hostXlate s.myCtx s.myClu va .read = .miss e a → exec i s = .next (s.raise e a .read)))
  ∧ (∀ (s t : State) (c : Bool) (op : StoreOp) (rs1 rs2 : Reg) (imm : BitVec 12) (f : FFmt) (pa : Nat) (leaf : Word),
    let va := (s.me.reg rs1 + imm.signExtend 64).toNat
    let len := if c then 2 else 4
    let n := match op with | .sb => 1 | .sh => 2 | .sw => 4 | .sd => 8
    let fn := match f with | .s => 4 | .d => 8
    let i := Instr.hostInstruction (.store op rs1 rs2 imm) c
    let after : Thr := { t.me with pc := t.me.pc + Word.of len }
    let mine := some (t.cur.thr / 16)
    let combines (i : Instr) (n v : Nat) : Prop :=
      va % n = 0 → s.hostXlate s.myCtx s.myClu va .write = .hit pa leaf t → t.movingAt t.myCtx pa = false →
      regionOf pa ≠ 3 → t.failedAt pa n = none → leafPol leaf = 3 →
      exec i s = .next ((t.wcStore t.cur.thr pa (bytesOf (v % 2 ^ (8 * n)) n)
        (if leafAcnt leaf then some (t.myCtx, t.myClu) else none)).retireN len)
    (t.Inv → leafPol leaf ≠ 3 → HostReach s va n .write pa leaf t → t.me = s.me →
      HostWrites i s t mine pa n (s.me.reg rs2).toNat after)
    ∧ (t.Inv → leafPol leaf ≠ 3 → HostReach s va fn .write pa leaf t → t.me = s.me →
      HostWrites (.hostInstruction (.fstore f rs1 rs2 imm) c) s t mine pa fn s.me.f[rs2.toNat].toNat after)
    ∧ combines i n (s.me.reg rs2).toNat
    ∧ combines (.hostInstruction (.fstore f rs1 rs2 imm) c) fn s.me.f[rs2.toNat].toNat
    ∧ (va % n ≠ 0 → exec i s = .next (s.trap 0x0511#16 (Word.of va)))
    ∧ (∀ e a, va % n = 0 → s.hostXlate s.myCtx s.myClu va .write = .miss e a → exec i s = .next (s.raise e a .write)))

/-- 00 R3: `lr` answers the word and holds a reservation on it; `sc` stores and answers 0 where the reservation stands,
else answers 1 and stores nothing, and ends it, and with the store every other reservation on those bytes; a
read-modify-write answers the old value. With RL set, each of them first performs what the thread has posted (13 R363). -/
def Obligations.HostAtomics : Prop :=
  ∀ (s t : State) (dbl aq rl : Bool) (op : AmoOp) (rd rs1 rs2 : Reg) (pa : Nat) (leaf : Word),
    let n := if dbl then 8 else 4
    let va := (s.me.reg rs1).toNat
    let x := (s.me.reg rs2).toNat % 2 ^ (8 * n)
    let old := Memory.readLE t.mem pa n
    let ext (v : Nat) : Word := BitVec.ofInt 64 (sx v (8 * n))
    let r := if rl then s.flushMine else s
    let sc := Instr.hostInstruction (.sc dbl aq rl rd rs1 rs2) false
    let new : Nat := match op with
      | .swap => x | .add => (old + x) % 2 ^ (8 * n) | .xor => old ^^^ x | .and => old &&& x | .or => old ||| x
      | .min => if sx old (8 * n) < sx x (8 * n) then old else x
      | .max => if sx old (8 * n) < sx x (8 * n) then x else old
      | .minu => if old < x then old else x | .maxu => if old < x then x else old
    let freed (u : State) : Prop := ∀ k q m, Tab.get? u.resvs k = some (q, m) → pa + n ≤ q ∨ q + m ≤ pa
    (r.me = s.me → t.me = s.me → HostReach r va n .read pa leaf t → t.hostPa va .read = some pa →
      ∃ u, exec (.hostInstruction (.lr dbl aq rl rd rs1) false) s = .next u
      ∧ u.me = s.me.moved rd (ext old) 4 ∧ Tab.get? u.resvs t.cur.thr = some (pa, n)
      ∧ (∀ k, k ≠ t.cur.thr → u.thr k = t.thr k) ∧ u = { t with resvs := u.resvs, thrs := u.thrs })
    ∧ (r.me = s.me → t.me = s.me → t.cur = r.cur → t.resvs = r.resvs → r.plain pa n → r.wcClear pa n →
      HostReach r va n .write pa leaf t →
      (Tab.get? r.resvs r.cur.thr ≠ some (pa, n) → ∃ u, exec sc s = .next u
        ∧ u.me = s.me.moved rd 1 4 ∧ Tab.get? u.resvs r.cur.thr = none
        ∧ (∀ k, k ≠ r.cur.thr → u.thr k = r.thr k) ∧ u = { r with resvs := u.resvs, thrs := u.thrs })
      ∧ (t.Inv → leafPol leaf ≠ 3 → Tab.get? r.resvs r.cur.thr = some (pa, n) → ∃ u, exec sc s = .next u
        ∧ u.me = (s.me.moved rd 0 4).wake pa n ∧ Stored t u (some (t.cur.thr / 16)) pa n x
        ∧ Tab.get? u.resvs t.cur.thr = none ∧ freed u
        ∧ u = { t with thrs := u.thrs, mem := u.mem, clus := u.clus, pools := u.pools, resvs := u.resvs })
      ∧ (leafPol leaf = 3 → Tab.get? r.resvs r.cur.thr = some (pa, n) → ∃ u, exec sc s = .next u
        ∧ Tab.get? u.resvs t.cur.thr = none ∧ freed u))
    ∧ (t.Inv → r.me = s.me → t.me = s.me → AtomReach r va n pa t →
      HostWrites (.hostInstruction (.amo op dbl aq rl rd rs1 rs2) false) s t none pa n new (s.me.moved rd (ext old) 4))
    ∧ (r.me = s.me → va % n ≠ 0 → exec sc s = .next (r.trap 0x0511#16 (Word.of va)))

/-- 04 R118 to R123: which CSRs answer, what the thread's own ones hold, what a write keeps; a set or clear
whose operand names register 0 writes nothing; every other address, and a write to a read-only one, is illegal
(R119). 00 R3, 02 R44: float results, singles boxed in their registers, with the exception flags that they raise
added to `fcsr`; a sum, product or quotient is the exact one encoded once; a reserved rounding mode is illegal. -/
def Obligations.HostFloats : Prop :=
  (∀ (s : State) (op : CsrOp) (rd rs1 : Reg) (addr : BitVec 12),
    let h := s.me
    let a := addr.toNat
    let r := Rv.csr op rd rs1 addr
    let i := Instr.hostInstruction r false
    let z : Word := rs1.setWidth 64
    let x := h.reg rs1
    let bad := exec i s = .next (s.illegal (encodeRv r))
    let new (old : Word) : Option Word := match op with
      | .rw => some x | .rwi => some z
      | .rs => if rs1 = 0 then none else some (old ||| x)
      | .rc => if rs1 = 0 then none else some (old &&& ~~~x)
      | .rsi => if rs1 = 0 then none else some (old ||| z)
      | .rci => if rs1 = 0 then none else some (old &&& ~~~z)
    let has (a : Nat) (v : Word) : Prop := s.csrRead a = some v
    ((s.csrRead a).isSome = true ↔ 1 ≤ a ∧ a ≤ 3 ∨ 0x800 ≤ a ∧ a ≤ 0x807 ∨ 0xCC0 ≤ a ∧ a ≤ 0xCC5 ∨ 0xCD0 ≤ a ∧ a ≤ 0xCD3)
    ∧ has 0x800 h.htvec ∧ has 0x801 h.hcause ∧ has 0x802 h.hepc ∧ has 0x803 h.htval ∧ has 0x804 h.kctl
    ∧ has 0x805 h.scsel ∧ has 0x806 h.aesel ∧ has 0x807 h.esel ∧ has 0xCC2 (s.pow.melt.setWidth 64) ∧ has 0xCC4 s.gtc
    ∧ has 0x003 (h.fcsr.setWidth 64) ∧ has 0x002 ((h.fcsr >>> 5).setWidth 64) ∧ has 0x001 ((h.fcsr &&& 31#8).setWidth 64)
    ∧ (s.csrRead a = none → bad)
    ∧ (∀ old, s.csrRead a = some old → new old = none → HostTo i s s (h.moved rd old 4))
    ∧ (∀ old v, s.csrRead a = some old → new old = some v →
      (0xCC0 ≤ a → bad) ∧ (a < 0xCC0 → HostTo i s s ((h.csrWrite a v).moved rd old 4)))
    ∧ (∀ v, (h.csrWrite 0x800 v).htvec = v &&& ~~~3#64
      ∧ (h.csrWrite 0x801 v).hcause = (h.hcause &&& 0x40000000#64) ||| (v &&& 0x8000FFFF#64)
      ∧ (h.csrWrite 0x802 v).hepc = v ∧ (h.csrWrite 0x803 v).htval = v ∧ (h.csrWrite 0x804 v).kctl = v &&& 1#64))
  ∧ (∀ (s : State) (c : Bool) (fo : FFmt) (rm : BitVec 3) (m : Rm) (rd rs1 rs2 rs3 : Reg) (ao : FArithOp) (mo : FmaOp)
    (so : FMiscOp) (co : FCmpOp) (ty : IntFmt),
    let h := s.me
    let fm := fmtOf fo
    let pc := h.pc + Word.of (if c then 2 else 4)
    let a := h.fval fo rs1
    let b := h.fval fo rs2
    let d := h.fval fo rs3
    let o := match fo with | .s => FFmt.d | .d => FFmt.s
    let box (g : FFmt) (v : Nat) : Word := match g with
      | .d => BitVec.ofNat 64 v | .s => BitVec.allOnes 32 ++ BitVec.ofNat 32 v
    let fcsr (fl : Nat) : Byte := h.fcsr ||| BitVec.ofNat 8 fl
    let flt (r : Rv) (g : FFmt) (v : Nat × Nat) : Prop := HostTo (.hostInstruction r c) s s
      { h with f := h.f.set rd.toNat (box g v.1), fcsr := fcsr v.2, pc := pc }
    let int (r : Rv) (v : Word) (fl : Nat) : Prop := HostTo (.hostInstruction r c) s s
      { h.moved rd v (if c then 2 else 4) with fcsr := fcsr fl }
    let arith := Rv.farith ao fo rm rd rs1 rs2
    let exact : Val := match ao with
      | .add => (fm.dec a).add (fm.dec b) m | .sub => (fm.dec a).add (fm.dec b).negate m
      | .mul => (fm.dec a).mul (fm.dec b) | .div => (fm.dec a).div (fm.dec b)
    (rmField rm h.fcsr = some m →
      (flt arith fo (farithResult ao fm m a b) ∧ (farithResult ao fm m a b).1 = fm.enc exact m)
      ∧ flt (.fma mo fo rm rd rs1 rs2 rs3) fo (fmaResult mo fm m a b d)
      ∧ flt (.fsqrt fo rm rd rs1) fo (fsqrtResult fm m a)
      ∧ int (.fcvtToInt ty fo rm rd rs1) (fcvtToIntResult ty fm m a).1 (fcvtToIntResult ty fm m a).2
      ∧ flt (.fcvtFromInt fo ty rm rd rs1) fo (fcvtFromIntResult fm ty m (h.reg rs1))
      ∧ flt (.fcvtFF fo rm rd rs1) fo (fcvtFFResult fm (fmtOf o) m (h.fval o rs1)))
    ∧ (rmField rm h.fcsr = none → exec (.hostInstruction arith c) s = .next (s.illegal (encodeRv arith)))
    ∧ flt (.fmisc so fo rd rs1 rs2) fo (fmiscResult so fm a b)
    ∧ int (.fcmp co fo rd rs1 rs2) (Word.of (fcmpResult co fm a b).1) (fcmpResult co fm a b).2
    ∧ int (.fclass fo rd rs1) (Word.of (fclassResult fm a)) 0
    ∧ int (.fmvToInt fo rd rs1) (match fo with
        | .d => h.f[rs1.toNat] | .s => (h.f[rs1.toNat].setWidth 32).signExtend 64) 0
    ∧ flt (.fmvFromInt fo rd rs1) fo ((h.reg rs1).toNat, 0))

/-- R420, R422: a trap of a thread that runs no handler and whose handler can be fetched saves the cause with ACT and
the address of the instruction, and goes to the handler; one that runs a handler stops the thread and faults its running
context, with NEST and the cause that the handler was handling; without a handler, or with one that cannot be fetched,
the context is faulted with 0x0A01, and its information is the handler's address. A cause of class 0x04 aborts the
thread's groups besides (14 R383). `ecall`, `ebreak`, an undecodable word, of 32 bits or of 16, and the marker of a pool
page trap so (04 R117, R124; 11 R334). -/
def Obligations.TrapEntry : Prop :=
  ∀ (s : State) (cause : BitVec 16) (info : Word),
    let h := s.me
    let vec := h.htvec &&& ~~~3#64
    let saved : Thr := { h with
      hcause := Word.of (2 ^ 30 + cause.toNat), hepc := h.pc, htval := info, st := ThrSt.ready, again := false }
    let taken := s.putThr s.cur.thr saved
    let u := s.deliver s.cur.thr ⟨cause, false, info⟩ h.pc
    let c := s.ctx h.ctx
    let d := u.ctx h.ctx
    exec (.hostInstruction .ecall false) s = .next (s.trap 0x0513#16 (h.reg 17))
    ∧ exec (.hostInstruction .ebreak false) s = .next (s.trap 0x0512#16 h.pc)
    ∧ exec .poolmk s = .next (s.trap 0x0A03#16 h.pc)
    ∧ (∀ t lo hi p q x, let w := { s.giveTurn (cluOf t) t with cur := { s.cur with thr := t } }
      s.mayIssue t = true → w.me.inbox = [] → w.fetchHalf w.myCtx w.myClu w.me.pc.toNat = .ok (lo, p) →
      (isCompressed lo = false → p.fetchHalf p.myCtx p.myClu (w.me.pc.toNat + 2) = .ok (hi, q) →
        decodeHost32 (hi ++ lo) = .error x → s.hostMove t = .next (w.trap 0x0510#16 (Word.of (hi ++ lo).toNat)))
      ∧ (isCompressed lo = true → lo ≠ 0 → decodeHost16 lo = .error x →
        s.hostMove t = .next (w.trap 0x0510#16 (Word.of lo.toNat))))
    ∧ s.trap cause info = (if cause.toNat / 256 = 4 then
        (u.groupsOf h.ctx s.cur.thr).foldl (fun t g => t.abortGroup h.ctx g cause u.pkgid) u else u)
    ∧ ((h.act = false → vec ≠ 0 → taken.canFetch h.ctx (s.cur.thr / 16) vec.toNat = true →
        u.me = { saved with pc := vec } ∧ (∀ n, n ≠ s.cur.thr → u.thr n = s.thr n) ∧ u = { s with thrs := u.thrs })
      ∧ (h.act = true → c.st = .running →
        u.me.st = .stopped ∧ d.st = .faulted ∧ d.nest = true ∧ d.cause = cause
          ∧ d.orig = h.hcause.extractLsb' 0 16 ∧ d.cinfo = 0)
      ∧ (h.act = false → (vec = 0 ∨ taken.canFetch h.ctx (s.cur.thr / 16) vec.toNat = false) → c.st = .running →
        u.me.st = .stopped ∧ d.st = .faulted ∧ d.nest = false ∧ d.cause = 0x0A01#16 ∧ d.orig = cause ∧ d.cinfo = vec))

/-- R420, R422 to R424: `hret` clears ACT and goes back to `hepc`, or takes the oldest pending cause; it is illegal
outside a handler and waits while an abort holds the thread (14 R384). An asynchronous cause is delivered before the
next instruction, the wait of the thread's instruction ended, stands in one of four entries while a handler runs, and is
dropped when they are full; one of class 0x04 that is not the kernel's own aborts the thread's groups as it arrives
(14 R383). -/
def Obligations.TrapReturn : Prop :=
  ∀ (s : State),
    let h := s.me
    let back : Thr := { h with hcause := h.hcause &&& ~~~0x40000000#64, pc := h.hepc }
    (h.holds ≠ [] → exec .hret s = .next s)
    ∧ (h.holds = [] → h.act = false → exec .hret s = .next (s.illegal 0x0000400B#32))
    ∧ (h.holds = [] → h.act = true → h.pend = [] → HostTo .hret s s back)
    ∧ (∀ e rest, h.holds = [] → h.act = true → h.pend = e :: rest →
      exec .hret s = .next ((s.putThr s.cur.thr { back with pend := rest }).deliver s.cur.thr e h.hepc))
    ∧ (∀ e rest, h.inbox = e :: rest →
      (h.act = false → h.st ≠ .faultWait → (e.cause.toNat / 256 ≠ 4 ∨ e.kt = true) → exec .asyncTrapDeliver s
        = .next ((s.putThr s.cur.thr { h with inbox := rest, watch := {}, again := false }).deliver s.cur.thr e h.pc))
      ∧ (h.act = false → (e.cause.toNat / 256 ≠ 4 ∨ e.kt = true) → exec .asyncTrapDeliver s
        = .next (((s.putThr s.cur.thr { h with inbox := rest }).leaveWait s.cur.thr).deliver s.cur.thr e h.pc))
      ∧ (h.act = true → (e.cause.toNat / 256 ≠ 4 ∨ e.kt = true) →
        (h.pend.length < 4 → HostTo .asyncTrapDeliver s s { h with inbox := rest, pend := h.pend ++ [e] })
        ∧ (4 ≤ h.pend.length → HostTo .asyncTrapDeliver s s { h with inbox := rest }))
      ∧ (e.cause.toNat / 256 = 4 → e.kt = false → ∃ w : State,
        exec .asyncTrapDeliver s = .next ((w.groupsOf h.ctx s.cur.thr).foldl (fun t g => t.abortGroup h.ctx g e.cause w.pkgid) w)
        ∧ (h.act = true → w = s.putThr s.cur.thr
            { h with inbox := rest, pend := if h.pend.length < 4 then h.pend ++ [e] else h.pend })
        ∧ (h.act = false → w = ((s.putThr s.cur.thr { h with inbox := rest }).leaveWait s.cur.thr).deliver s.cur.thr e h.pc)))

/-- R363, R368, R356: `lda` answers a word; a fence, a release, `fence.i` and a RISC-V `fence` whose predecessor set
holds W or O leave no posted operation of the thread and no write-combining buffer of it; a `fence` without W and O and
the hints (19 R466) only go on. -/
def Obligations.HostOrdering : Prop :=
  ∀ (s t : State) (sc : Scope) (rd rs1 rs2 : Reg) (pa : Nat) (leaf : Word) (fm pred succ : BitVec 4) (im : BitVec 12),
    let va := (s.me.reg rs1).toNat
    let next := Thr.moved s.me 0 0 4
    let mine := srcOf s.me.ctx s.cur.thr
    let ordered (i : Instr) : Prop := ∃ u, exec i s = .next u ∧ u.me = Thr.moved s.flushMine.me 0 0 4
      ∧ (∀ b, b ∈ u.banks → b ∈ s.banks ∧ b.src ≠ mine) ∧ Tab.get? u.wc s.cur.thr = none
      ∧ (∀ n, n ≠ s.cur.thr → u.thr n = s.flushMine.thr n) ∧ u = { s.flushMine with thrs := u.thrs }
    let quiet (u : State) : Prop := Tab.get? u.wc s.cur.thr = none ∧ ∀ b, b ∈ u.banks → b.src ≠ mine
    let fence := Instr.hostInstruction (.fence fm pred succ rd rs1) false
    ordered (.pfence sc) ∧ ordered .pfenceSc
    ∧ (pred &&& 5#4 ≠ 0#4 → ordered fence) ∧ (pred &&& 5#4 = 0#4 → HostTo fence s s next)
    ∧ ordered (.hostInstruction (.fenceI im rd rs1) false)
    ∧ HostTo .hintC s s next ∧ HostTo .hintM s s next ∧ HostTo .hintW s s next
    ∧ (HostReach s va 8 .read pa leaf t →
      HostTo (.lda sc rd rs1) s t (t.me.moved rd (BitVec.ofNat 64 (Memory.readLE t.mem pa 8)) 4))
    ∧ (va % 8 ≠ 0 → exec (.lda sc rd rs1) s = .next (s.trap 0x0511#16 (Word.of va)))
    ∧ (quiet s → quiet t → t.cur = s.cur → t.Inv → t.me = s.me → leafPol leaf ≠ 3 →
      HostReach s va 8 .write pa leaf t → HostWrites (.stl sc rs1 rs2) s t (some (t.cur.thr / 16)) pa 8
        (s.me.reg rs2).toNat next)

/-- R369, R370: `patom` leaves the operation's result at its place and answers the old value; a `cas` that fails
writes nothing; `pred.f32` and `pred.fx` post an addition that the bank performs later. R374, R375: `stmc` on a
page that is not replicated is a plain store, on a replicated one it stores to every copy of the replica set in
the order of their dies, once the thread's write-combining buffer has left these, and counts each request (11
R330); a copy that the context may not reach traps with 0x0306 (11 R312), one on a failed channel with 0x0405.
`rchk` answers 0, or DMASK with the dies whose copies differ. -/
def Obligations.PoolBankOperations : Prop :=
  (∀ (s t : State) (op : AtomOp) (ty : AtomType) (rd rs1 rs2 : Reg) (pa : Nat),
    let (n, sgn) : Nat × Bool := match ty with
      | .s64 => (8, true) | .n64 => (8, false) | .s32 => (4, true) | .n32 => (4, false)
    let va := (s.me.reg rs1).toNat
    let x := (s.me.reg rs2).toNat % 2 ^ (8 * n)
    let c := (s.me.reg rd).toNat % 2 ^ (8 * n)
    let old := Memory.readLE t.mem pa n
    let less (a b : Nat) : Prop := if sgn then sx a (8 * n) < sx b (8 * n) else a < b
    let after := s.me.moved rd (if sgn then BitVec.ofInt 64 (sx old (8 * n)) else BitVec.ofNat 64 old) 4
    let writes (v : Nat) : Prop := HostWrites (.patom op ty rd rs1 rs2) s t none pa n v after
    let posts (i : Instr) (b : BankOp) : Prop := HostTo i s { t with banks := t.banks ++ [b] } (s.me.moved 0 0 4)
    let src := srcOf s.me.ctx s.cur.thr
    t.me = s.me →
    (t.Inv → AtomReach s va n pa t →
      (op = .add → writes (old + x)) ∧ (op = .and → writes (old &&& x)) ∧ (op = .or → writes (old ||| x))
      ∧ (op = .xor → writes (old ^^^ x)) ∧ (op = .swap → writes x)
      ∧ (op = .min → ∃ v, writes v ∧ (v = old ∨ v = x) ∧ ¬less old v ∧ ¬less x v)
      ∧ (op = .max → ∃ v, writes v ∧ (v = old ∨ v = x) ∧ ¬less v old ∧ ¬less v x)
      ∧ (op = .cas → old = c → writes x)
      ∧ (op = .cas → old ≠ c → HostTo (.patom op ty rd rs1 rs2) s t after))
    ∧ (AtomReach s va 4 pa t → t.cur = s.cur → posts (.predF32 rs1 rs2) (.fadd src pa ((s.me.reg rs2).setWidth 32)))
    ∧ (AtomReach s va 8 pa t → t.cur = s.cur → posts (.predFx rs1 rs2) (.fx src pa (s.me.reg rs2)))
    ∧ (va % n ≠ 0 → exec (.patom op ty rd rs1 rs2) s = .next (s.trap 0x0511#16 (Word.of va))))
  ∧ (∀ (s t : State) (rd rs1 rs2 : Reg) (pa : Nat) (leaf : Word),
    let va := (s.me.reg rs1).toNat
    let v := (s.me.reg rs2).toNat
    let (r, cs) := t.copies va pa
    let src := srcOf s.me.ctx s.cur.thr
    let own (t : State) (c : Nat × Nat) : State := t.ownRead t.cur.thr c.2 8
    let ownLine (t : State) (c : Nat × Nat) : State := t.ownRead t.cur.thr (c.2 / 128 * 128) 128
    let put (t : State) (c : Nat × Nat) : State :=
      (t.store src c.2 (bytesOf v 8) (List.replicate 8 1)).countAccess t.myCtx t.myClu c.2 (leafAcnt leaf) (cachedPol leaf)
    (va % 8 = 0 → s.hostXlate s.myCtx s.myClu va .write true = .hit pa leaf t → leafRepl leaf = true →
      ((∀ c, c ∈ cs → t.paOk t.myCtx c.2 Acc.write.rights = true ∧ t.failedAt c.2 8 = none) →
        exec (.stmc rs1 rs2) s = .next ((cs.foldl put (cs.foldl own t)).retire))
      ∧ ((∃ c, c ∈ cs ∧ t.paOk t.myCtx c.2 Acc.write.rights = false) →
        exec (.stmc rs1 rs2) s = .next (t.trap 0x0306#16 (Word.of va)))
      ∧ (∀ ch, (∀ c, c ∈ cs → t.paOk t.myCtx c.2 Acc.write.rights = true) → cs.findSome? (fun c => t.failedAt c.2 8) = some ch →
        exec (.stmc rs1 rs2) s = .next (t.trap 0x0405#16 (Word.of ch))))
    ∧ (HostReach s va 8 .write pa leaf t true → leafRepl leaf = false → t.Inv → leafPol leaf ≠ 3 →
      HostWrites (.stmc rs1 rs2) s t (some (t.cur.thr / 16)) pa 8 v (t.me.moved 0 0 4))
    ∧ (va % 8 ≠ 0 → exec (.stmc rs1 rs2) s = .next (s.trap 0x0511#16 (Word.of va)))
    ∧ (s.hostXlate s.myCtx s.myClu va .read = .hit pa leaf t →
      (leafRepl leaf = false → t.readError (pa / 128 * 128) 128 = none → HostTo (.rchk rd rs1) s t (t.me.moved rd 0 4))
      ∧ (leafRepl leaf = true →
        let o := cs.foldl ownLine t
        ((∃ c, c ∈ cs ∧ o.paOk o.myCtx c.2 Acc.read.rights = false) →
          exec (.rchk rd rs1) s = .next (o.trap 0x0306#16 (Word.of va)))
        ∧ ((∀ c, c ∈ cs → o.paOk o.myCtx c.2 Acc.read.rights = true ∧ o.readError (c.2 / 128 * 128) 128 = none) →
        HostTo (.rchk rd rs1) s o (o.me.moved rd (Word.of (r.dmask.toNat + 16 * disagree o cs)) 4)))))

/-- R399, R425, 08 R245: `mwait` answers the word when its condition holds and sleeps on its line when it does not; a
watch that fires, and a missing line that arrives, make the thread ready; `yield` goes on and passes
the turn of its core to the thread behind it. -/
def Obligations.HostWaiting : Prop :=
  ∀ (s t : State) (c : MwaitCond) (rd rs1 rs2 : Reg) (pa : Nat) (leaf : Word),
    let va := (s.me.reg rs1).toNat
    let x := s.me.reg rs2
    let v : Word := BitVec.ofNat 64 (Memory.readLE t.mem pa 8)
    let holds : Prop := match c with
      | .eq => v = x | .ne => v ≠ x | .geu => x.toNat ≤ v.toNat | .ltu => v.toNat < x.toNat
    let i := Instr.mwait c rd rs1 rs2
    (HostReach s va 8 .read pa leaf t → cachedPol leaf = true → regionOf pa ≠ 2 → t.me = s.me →
      (holds → HostTo i s t { s.me.moved rd v 4 with watch := {}, again := false })
      ∧ (¬holds → HostTo i s t { s.me with st := ThrSt.mwait, watch := ⟨va, x, BitVec.ofNat 3 c.code, true, pa⟩, again := false }))
    ∧ (va % 8 ≠ 0 → exec i s = .next (s.trap 0x0511#16 (Word.of va)))
    ∧ (s.me.st = .mwait ∨ s.me.st = .cwait ∨ s.me.st = .bwait →
      HostTo .watchFire s s { s.me with st := ThrSt.ready, again := decide (s.me.st = .bwait) })
    ∧ (∀ line, s.me.st = .miss line false → ∃ u, exec .hostMissReturn s = .next u ∧ u.me.st = .ready
      ∧ u.inL1 s.myClu line = true ∧ u = { s with thrs := u.thrs, clus := u.clus, pools := u.pools, draws := u.draws })
    ∧ (∃ u, exec .yield s = .next u ∧ u.me = s.me.moved 0 0 4 ∧ (∀ n, n ≠ s.cur.thr → u.thr n = s.thr n)
      ∧ u.clu s.myClu = { s.clu s.myClu with turn := (s.cur.thr % 16 + 1) % 16 }
      ∧ (∀ k, k ≠ s.myClu → u.clu k = s.clu k) ∧ u = { s with thrs := u.thrs, clus := u.clus })

/-- R157, R159: `kstat` answers the status word of a kernel, all ones for a value that is no handle; `krdv`
waits while the kernel runs, moves or waits with a fork on it, or while the step of the group that froze it is
not yet agreed on (14 R386), takes the trap of a FROZEN kernel once, unless a handler runs, and answers the
status word otherwise; a thread that waits is woken when the kernel has left those states. R153: `kld` of a
descriptor that passes the checks takes the lowest free handle of the context (log entry 87), and answers it;
one that fails answers its cause and detail. -/
def Obligations.KernelLoad : Prop :=
  (∀ (s : State) (rd rs1 : Reg) (kh : Nat) (k : Kernel),
    let h := s.me
    let none? := s.handle? (h.reg rs1) = none
    let some? := s.handle? (h.reg rs1) = some (kh, k)
    let gives (i : Instr) (v : Word) : Prop := HostTo i s s (h.moved rd v 4)
    let waits := s.rdvWaits h.ctx kh k = true
    let told := s.putKernel h.ctx kh { k with delivered := true }
    let held := s.undecided h.ctx k = true ∧ h.act = false
    (none? → gives (.kstat rd rs1) (BitVec.allOnes 64) ∧ gives (.krdv rd rs1) (BitVec.allOnes 64))
    ∧ (some? → ∃ w, gives (.kstat rd rs1) w ∧ w.extractLsb' 60 4 = BitVec.ofNat 4 k.state.code
        ∧ w.extractLsb' 52 1 = (if k.strictRound then 1#1 else 0#1) ∧ w.extractLsb' 32 16 = k.cause
        ∧ w.extractLsb' 0 32 = BitVec.ofNat 32 k.run.iter
        ∧ (¬waits → ¬(k.state = .frozen ∧ k.delivered = false ∧ h.act = false) → gives (.krdv rd rs1) w))
    ∧ (some? → waits ∨ held → HostTo (.krdv rd rs1) s s { h with st := ThrSt.krdv kh })
    ∧ (some? → ¬waits → ¬held → k.state = .frozen → k.delivered = false → h.act = false →
      exec (.krdv rd rs1) s = .next (told.deliver s.cur.thr ⟨k.cause, true, k.info⟩ h.pc))
    ∧ (h.st = .krdv kh → s.kernel? h.ctx kh = some k →
      (waits ∨ held → exec .krdvWake s = .next s)
      ∧ (¬waits → ¬held → HostTo .krdvWake s s { h with st := ThrSt.ready }))
    ∧ (h.st = .krdv kh → s.kernel? h.ctx kh = none → HostTo .krdvWake s s { h with st := ThrSt.ready }))
  ∧ (∀ (s t : State) (rd rs1 : Reg) (k : Kernel) (n : Nat) (e : LoadErr),
    let va := (s.me.reg rs1).toNat
    let read := s.readKernel s.me.ctx s.myClu va (some s.cur.thr)
    let free : Prop := t.kernel? t.me.ctx n = none ∧ n < 256 ∧ ∀ m, m < n → t.kernel? t.me.ctx m ≠ none
    (read = .ok (.error e) t → HostTo (.kld rd rs1) s t (t.me.moved rd e.word 4))
    ∧ (read = .ok (.ok k) t → t.fits t.myClu k.desc = true → free → t.me.st = .ready →
      ∃ u, exec (.kld rd rs1) s = .next u ∧ u.me = t.me.moved rd (Word.of n) 4
        ∧ u.kernel? t.me.ctx n = some { k with order := t.orders }
        ∧ ∀ m, m ≠ n → u.kernel? t.me.ctx m = t.kernel? t.me.ctx m)
    ∧ (read = .ok (.ok k) t → t.fits t.myClu k.desc = false →
      HostTo (.kld rd rs1) s t (t.me.moved rd ({ cause := 0x0506, info := 8 } : LoadErr).word 4)))

/-- R151, R154: `kfork` of a LOADED or RETIRED kernel whose records, controller, engines and cores are at hand
starts a round: the kernel is RUNNING, its first virtual cycle is 24 past the cluster's, which the instruction
answers; a WAITING kernel, or a thermal emergency (19 R474), holds the thread; a bad group traps with 0x0706.
R155, R156, R158: `karg` replaces a constant of a core's slot, or the iteration count, for each entry of its
record and no other part of the kernel; `kstop` asks a running kernel to halt and releases any other but a SAVED
one; `kres` lets a STOPPED or FROZEN kernel go on. -/
def Obligations.KernelFork : Prop :=
  (∀ (s t : State) (rd rs1 : Reg) (kh g : Nat) (k : Kernel) (ls : List (Nat × Launch)) (dr : List (List (BitVec 32))),
    let h := s.me
    let i := Instr.kfork rd rs1
    let some? := s.handle? (h.reg rs1) = some (kh, k)
    let ready := h.st = .ready ∧ s.pow.hold = false ∧ (k.state = .loaded ∨ k.state = .retired)
    (s.handle? (h.reg rs1) = none → HostTo i s s (h.moved rd (BitVec.allOnes 64) 4))
    ∧ (some? → (k.state = .waiting ∨ s.pow.hold = true) → HostTo i s s { h with st := ThrSt.kfork kh })
    ∧ (some? → s.pow.hold = false → k.state ≠ .waiting → k.state ≠ .loaded → k.state ≠ .retired →
      HostTo i s s (h.moved rd (BitVec.allOnes 64) 4))
    ∧ (some? → ready → s.forkGroup h.ctx k = some g → exec i s = .next (s.trap 0x0706#16 (Word.of g)))
    ∧ (some? → ready → s.forkGroup h.ctx k = none → s.forkReads h.ctx k (some s.cur.thr) = .ok (.ok ls, dr) t → t.me = h →
        t.flushMine.me = h →
        t.forkReady h.ctx kh k = true →
      ∃ u n, exec i s = .next u ∧ u.me = h.moved rd (Word.of (k.run.vcc + 24)) 4 ∧ u.kernel? h.ctx kh = some n
        ∧ n.state = .running ∧ n.run.start = k.run.vcc + 24 ∧ n.run.vcc = k.run.vcc ∧ n.run.lim = k.lc
        ∧ n.strictRound = (k.desc.strict || h.kctl.getLsbD 0) ∧ n.cause = 0#16 ∧ n.engines.length ≤ ls.length)
    ∧ (∀ rd' rs1' v, h.st = .kfork kh → (s.putThr s.cur.thr { h with st := ThrSt.ready }).fetch = .instr (.kfork rd' rs1') v →
      ∃ u, exec .forkAccepted s = .next u ∧ exec (.kfork rd' rs1') v = .next u))
  ∧ (∀ (s t : State) (rs1 rs2 : Reg) (kh : Nat) (k k' : Kernel) (r : List Byte) (e : Nat),
    let h := s.me
    let next (u : State) : Prop := u.me.pc = h.pc + 4#64 ∧ u.me.x = h.x
    let some? := s.handle? (h.reg rs1) = some (kh, k)
    let idle := k.state = .waiting ∨ k.state = .loaded ∨ k.state = .retired
    let a := (h.reg rs2).toNat
    let slot := field r (0x11 + 16 * e) 1
    let v := fieldW r (0x18 + 16 * e)
    (s.handle? (h.reg rs1) = none → a % 16 = 0 →
      HostTo (.karg rs1 rs2) s s (h.moved 0 0 4) ∧ HostTo (.kstop rs1) s s (h.moved 0 0 4)
      ∧ HostTo (.kres rs1) s s (h.moved 0 0 4))
    ∧ (a % 16 ≠ 0 → exec (.karg rs1 rs2) s = .next (s.trap 0x0511#16 (h.reg rs2)))
    ∧ (some? → idle → a % 16 = 0 → s.readArgs h.ctx s.myClu a k (some s.cur.thr) = .ok (.ok k') t → t.me = h →
      ∃ u, exec (.karg rs1 rs2) s = .next u ∧ next u ∧ u.kernel? h.ctx kh = some k')
    ∧ (slot = 0xFF → k.applyArg r e = { k with lc := v.toNat })
    ∧ (slot < 16 → 16 * field r (0x10 + 16 * e) 1 + slot < k.cfg.length →
      (nth (k.applyArg r e).cfg (16 * field r (0x10 + 16 * e) 1 + slot) {}).k = v
      ∧ k.applyArg r e = { k with cfg := (k.applyArg r e).cfg })
    ∧ (some? → (k.state = .running ∨ k.state = .moving) → ∃ u, exec (.kstop rs1) s = .next u ∧ next u
        ∧ u.kernel? h.ctx kh = some { k with stopReq := true })
    ∧ (some? → k.state = .saved → HostTo (.kstop rs1) s s (h.moved 0 0 4))
    ∧ (some? → h.st = .ready → h.again = false → k.state ≠ .running → k.state ≠ .moving → k.state ≠ .saved →
      ∃ u, exec (.kstop rs1) s = .next u ∧ next u ∧ u.kernel? h.ctx kh = none)
    ∧ (some? → (k.state = .stopped ∨ k.state = .frozen) → ∃ u n, exec (.kres rs1) s = .next u ∧ next u
        ∧ u.kernel? h.ctx kh = some n ∧ n.state = .running ∧ n.desc = k.desc ∧ n.lc = k.lc)
    ∧ (some? → k.state ≠ .stopped → k.state ≠ .frozen → HostTo (.kres rs1) s s (h.moved 0 0 4)))

/-- R394: the transitions of a barrier word, in its fields. -/
def Obligations.BarrierWords : Prop :=
  ∀ (b : Word) (spe auto : Bool) (n : Nat), 1 ≤ n → n < 4096 →
    let st := barState b
    let arr := barArrived b
    let exp := barExpect b
    let g := (barGen b + 1) % 2 ^ 16
    let is (x : Word) (st gen arrived expect : Nat) (auto : Bool) : Prop :=
      barState x = st ∧ barGen x = gen ∧ barArrived x = arrived ∧ barExpect x = expect ∧ barAuto x = auto
    let x := barArrive b spe
    let y := barInit b n auto
    let fresh := is y 1 (barGen b) 0 n auto ∧ barOvr y = false
    (st = 0 ∨ st = 3 → x = b)
    ∧ (st = 1 → arr + 1 < exp → is x 1 (barGen b) (arr + 1) exp (barAuto b))
    ∧ (st = 1 → arr + 1 = exp → barAuto b = false → is x 2 g exp exp false)
    ∧ (st = 1 → arr + 1 = exp → barAuto b = true → is x 1 g 0 exp true)
    ∧ (st = 2 → spe = false → x = b)
    ∧ (st = 2 → spe = true → barOvr x = true ∧ is x 2 (barGen b) arr exp (barAuto b))
    ∧ (st = 1 → arr < n → is y 1 (barGen b) arr n auto)
    ∧ (st = 1 → n ≤ arr → auto = false → is y 2 g n n false)
    ∧ (st = 1 → n ≤ arr → auto = true → is y 1 g 0 n true)
    ∧ (st = 0 ∨ st = 2 ∨ st = 3 → fresh)
    ∧ (st ≠ 3 → is (barPoison b) 3 g arr exp (barAuto b))
    ∧ (st = 3 → barPoison b = b)

/-- R392, R397, R398: the host's barrier instructions apply the transitions of R394 to the barrier that the identifier
names, between two cycles of its domain, arrivals by thread number, then `binit`, then `bpois` (R395; a thread that
comes in the middle of a cycle, or behind one that it should precede, stays at its instruction); an arrival that counts
leaves the token with the generation found before it; `bwait` answers the generation, or sleeps, or traps at a poisoned
barrier; an identifier out of range traps with 0x0701, and so does a bad operand of `binit`. -/
def Obligations.BarrierInstructions : Prop :=
  ∀ (s : State) (rd rs1 rs2 : Reg) (kh i : Nat) (b : Word) (tok : Option (Word × BitVec 16)) (g : BitVec 16),
    let h := s.me
    let id := h.reg rs1
    let v := h.reg rs2
    let here := s.hostBar h.ctx id = some (kh, i, b)
    let now (rank : Nat) : Prop := here ∧ s.midCycle h.ctx kh = false ∧ s.outOfTurn h.ctx kh i rank = false
    let late (rank : Nat) : Prop := here ∧ (s.midCycle h.ctx kh = true ∨ s.outOfTurn h.ctx kh i rank = true)
    let stays (n : Instr) : Prop := exec n s = .next s
    let bad (n : Instr) (c : BitVec 16) : Prop := exec n s = .next (s.trap c id)
    let next (n : Instr) (w : Word) (tok : Option (Word × BitVec 16)) : Prop := ∃ u k, exec n s = .next u
      ∧ u.me.pc = h.pc + 4#64 ∧ u.me.x = h.x ∧ u.me.token = tok ∧ u.kernel? h.ctx kh = some k ∧ k.bar i = w
    let gen : Word := BitVec.ofNat 64 (barGen b)
    let answers := HostTo (.bwait rd rs1) s s { h.moved rd gen 4 with watch := {}, again := false }
    let quiet : Thr := { h with watch := {}, again := false }
    (s.hostBar h.ctx id = none → bad (.binit rs1 rs2) 0x0701#16 ∧ bad (.barr rs1) 0x0701#16
      ∧ bad (.bwait rd rs1) 0x0701#16 ∧ bad (.bpois rs1) 0x0701#16)
    ∧ (late 128 → stays (.binit rs1 rs2)) ∧ (late s.cur.thr → stays (.barr rs1)) ∧ (late 129 → stays (.bpois rs1))
    ∧ ((∀ n, s.kernel? h.ctx kh = some n → n.state ≠ .running ∨ n.run.paused = true) →
      ∀ rank, s.outOfTurn h.ctx kh i rank = false)
    ∧ (now 128 → (v.toNat ≥ 2 ^ 13 ∨ v.toNat % 4096 = 0) → bad (.binit rs1 rs2) 0x0701#16)
    ∧ (now 128 → v.toNat < 2 ^ 13 → v.toNat % 4096 ≠ 0 →
      next (.binit rs1 rs2) (barInit b (v.toNat % 4096) (v.getLsbD 12)) h.token)
    ∧ (now s.cur.thr → barState b = 2 → bad (.barr rs1) 0x0703#16)
    ∧ (now s.cur.thr → barState b ≠ 2 → next (.barr rs1) (barArrive b false)
        (if barState b = 1 then some (id, BitVec.ofNat 16 (barGen b)) else none))
    ∧ (now 129 → next (.bpois rs1) (barPoison b) h.token)
    ∧ (here → h.token = tok → (∀ x, tok = some x → x.1 ≠ id) → answers)
    ∧ (here → h.token = some (id, g) → barState b ≠ 3 → barGen b ≠ g.toNat → answers)
    ∧ (here → h.token = some (id, g) → barState b = 3 →
      exec (.bwait rd rs1) s = .next ((s.putThr s.cur.thr quiet).trap 0x0702#16 id))
    ∧ (here → h.token = some (id, g) → barState b ≠ 3 → barGen b = g.toNat → ∃ w,
      HostTo (.bwait rd rs1) s s { h with st := ThrSt.bwait, watch := w, again := false })

/-- R387 to R390: `gstep` or `gabort` on a FREE entry or on an index past 255 traps with 0x0706; `gtab` never traps, and
answers zero for a FREE entry; `gstep` makes a FILLED group ACTIVE at its step, raises an ACTIVE one's step and never
lowers it, and lets an unwound group go on from its agreed step; `gabort` makes the group ABORTING with its reason;
`gtab` answers the fields of the entry. -/
def Obligations.GroupInstructions : Prop :=
  ∀ (s : State) (rd rs1 rs2 : Reg),
    let h := s.me
    let v := h.reg rs1
    let w := h.reg rs2
    let g := v.toNat
    let x := s.group h.ctx g
    let y := s.group h.ctx (g % 256)
    let bad (i : Instr) : Prop := exec i s = .next (s.trap 0x0706#16 v)
    let leaves (i : Instr) (p : Group → Prop) : Prop := ∃ u, exec i s = .next u
      ∧ u.me.pc = h.pc + 4#64 ∧ u.me.x = h.x ∧ p (u.group h.ctx g)
    let gives (r : Word) : Prop := HostTo (.gtab rd rs1) s s (h.moved rd r 4)
    (255 < g ∨ x.st = .free → bad (.gstep rs1 rs2) ∧ bad (.gabort rs1 rs2))
    ∧ (g ≤ 255 →
      (x.st = .filled → leaves (.gstep rs1 rs2) fun y => y.st = .active ∧ y.cstep = w)
      ∧ (x.st = .active → leaves (.gstep rs1 rs2) fun y =>
          y.st = .active ∧ y.cstep.toNat = max x.cstep.toNat w.toNat)
      ∧ (x.st = .unwound → leaves (.gstep rs1 rs2) fun y =>
          y.cstep = x.cstep ∧ y.st = if w = x.astep then .active else .unwound)
      ∧ (x.st = .filled ∨ x.st = .active ∨ x.st = .unwound → leaves (.gabort rs1 rs2) fun y =>
          y.st = .aborting ∧ y.reason = w.setWidth 16 ∧ y.cstep = x.cstep)
      ∧ (x.st = .aborting → leaves (.gstep rs1 rs2) (· = x) ∧ leaves (.gabort rs1 rs2) (· = x)))
    ∧ (y.st ≠ .free →
      (g / 256 % 4 = 0 → gives (Word.of (y.st.code * 2 ^ 60 + y.nexcl * 2 ^ 32 + y.reason.toNat)))
      ∧ (g / 256 % 4 = 1 → gives y.cstep) ∧ (g / 256 % 4 = 2 → gives y.astep))
    ∧ (y.st = .free → g / 256 % 4 ≤ 2 → gives 0)
    ∧ (g / 256 % 4 = 3 → gives (BitVec.allOnes 64))

/-- R384 to R386, 18 R450, R460: a token of the same system makes a group ABORTING, and one of a lower package hands it
the collection; the package that collects takes the reports of the others of its system within 40 ms and then excludes
those that are late; nothing of another system's counts; with every package heard, the least step reported is the agreed
one, the group is unwound at it, and the others hear it. -/
def Obligations.GroupAgreement : Prop :=
  ∀ (s : State) (ctx g n : Nat) (pkg step : Word) (reason : BitVec 16),
    let x := s.group ctx g
    let me := s.pkgid
    let heard := x.reports.map Prod.fst ++ x.excluded
    let lead := x.st = .aborting ∧ x.collector = me
    let leads (i : Instr) (p : Group → Prop) : Prop := ∃ u, exec i s = .next u ∧ p (u.group ctx g)
    let plain := ∀ t, (s.thr t).ctx ≠ ctx ∨ (s.thr t).st = .off ∨ x.threads.getLsbD t = false
    let near := sameSystem pkg me = true
    (sameSystem pkg me = false → exec (.abortToken ctx g pkg reason) s = .next s
      ∧ exec (.cstepReport ctx g pkg step) s = .next s)
    ∧ (near → (x.st = .filled ∨ x.st = .active ∨ x.st = .unwound) →
      leads (.abortToken ctx g pkg reason) fun y => y.st = .aborting ∧ y.reason = reason ∧ y.collector = pkg)
    ∧ (near → x.st = .aborting → leads (.abortToken ctx g pkg reason) fun y =>
        y.collector.toNat = min x.collector.toNat pkg.toNat
          ∧ (pkg.toNat < x.collector.toNat → y.reported = false ∧ y.reports = []))
    ∧ (lead → x.since + 40000000 ≤ s.gtc.toNat → exec (.cstepReport ctx g pkg step) s = .next s)
    ∧ (lead → near → s.gtc.toNat < x.since + 40000000 → pkg ≠ me → pkg ∈ x.remotes.map Prod.fst → pkg ∉ heard →
      leads (.cstepReport ctx g pkg step) fun y => y.reports = x.reports ++ [(pkg, step)])
    ∧ (lead → x.since + 40000000 ≤ s.gtc.toNat → leads (.agreementTimeout ctx g) fun y =>
        ∀ p, (p = me ∨ p ∈ x.remotes.map Prod.fst) → p ∈ y.reports.map Prod.fst ++ y.excluded)
    ∧ (lead → (∀ p, (p = me ∨ p ∈ x.remotes.map Prod.fst) → p ∈ heard) → x.reports ≠ [] → plain →
      leads (.agreementResult ctx g step n) fun y => y.st = .unwound ∧ y.cstep = y.astep
        ∧ y.astep ∈ x.reports.map Prod.snd ∧ (∀ r, r ∈ x.reports → y.astep.toNat ≤ r.2.toNat)
        ∧ y.nexcl = min x.excluded.length 65535)
    ∧ (x.st = .aborting → x.collector ≠ me → plain →
      leads (.agreementResult ctx g step n) fun y => y.st = .unwound ∧ y.astep = step ∧ y.cstep = step)

/-- R305 to R310: `cstart` takes an engine of the cluster and answers its handle; `cstep` adds to the stage counter,
saturating, of an engine that has not ended; `cstat` answers the status word and frees a FAULTED engine; `cadd` adds to
a counter in memory; `cwait` goes on once the counter has reached its operand and sleeps until then; `cpub` inverts
CUR of a valid published buffer. -/
def Obligations.CopyControl : Prop :=
  ∀ (s t : State) (rd rs1 rs2 : Reg) (sc : Scope) (l : Launch) (en pa : Nat) (leaf : Word) (p : PubEnt),
    let h := s.me
    let a := (h.reg rs1).toNat
    let v := h.reg rs2
    let here := s.engOf? (h.reg rs1) = some en
    let x := s.eng en
    let status := Word.of (x.st.code * 2 ^ 60 + (if x.st = .faulted then x.cause.toNat else 0) * 2 ^ 32
      + x.entry * 2 ^ 16 + x.run % 2 ^ 16)
    let engs (u : State) (y : Engine) : Prop := u.eng en = y ∧ (∀ n, n ≠ en → u.eng n = s.eng n)
    let old := Memory.readLE t.mem pa 8
    (s.pow.hold = false → s.readLaunch h.ctx s.myClu a false (some s.cur.thr) = .ok (.ok l) t → t.me = h →
        (t.freeEngines h.ctx t.myClu).head? = some en → l.timed = false →
      ∃ u, exec (.cstart rd rs1) s = .next u ∧ (u.eng en).launch = l ∧ (u.eng en).st = .running
        ∧ (u.eng en).serial = ((t.eng en).serial + 1) % 2 ^ 16 ∧ (u.eng en).thr = some t.cur.thr
        ∧ (u.eng en).own = (t.eng en).own
        ∧ u.me = h.moved rd (Word.of (en % 16 + 2 ^ 16 * (((t.eng en).serial + 1) % 2 ^ 16))) 4
        ∧ u = { t with thrs := u.thrs, engs := u.engs })
    ∧ (here → x.st ≠ .done → x.st ≠ .faulted → ∃ u y, exec (.cstep rs1 rs2) s = .next u ∧ u.me = h.moved 0 0 4
        ∧ engs u y ∧ y.stg.toNat = min (x.stg.toNat + v.toNat) (2 ^ 64 - 1) ∧ y = { x with stg := y.stg })
    ∧ (s.engOf? (h.reg rs1) = none → HostTo (.cstep rs1 rs2) s s (h.moved 0 0 4)
      ∧ HostTo (.cstat rd rs1) s s (h.moved rd (BitVec.allOnes 64) 4))
    ∧ (here → x.st ≠ .faulted → HostTo (.cstat rd rs1) s s (h.moved rd status 4))
    ∧ (here → x.st = .faulted → ∃ u, exec (.cstat rd rs1) s = .next u ∧ u.me = h.moved rd status 4
        ∧ (u.eng en).st = .free ∧ (u.eng en).own = x.own)
    ∧ (HostReach s a 8 .read pa leaf t → cachedPol leaf = true → regionOf pa ≠ 2 → t.me = h →
      (v.toNat ≤ old → HostTo (.cwait rs1 rs2) s t { h.moved 0 0 4 with watch := {}, again := false })
      ∧ (old < v.toNat → HostTo (.cwait rs1 rs2) s t
          { h with st := ThrSt.cwait, watch := ⟨a, v, BitVec.ofNat 3 MwaitCond.geu.code, true, pa⟩, again := false }))
    ∧ (AtomReach s a 8 pa t → t.me = h → t.Inv → t.flushMine = t → ∃ u, exec (.cadd rs1 rs2) s = .next u
      ∧ u.me.pc = h.pc + 4#64 ∧ u.me.x = h.x ∧ Memory.readLE u.mem pa 8 = min (old + v.toNat) (2 ^ 64 - 1)
      ∧ ∀ b, b < pa ∨ pa + 8 ≤ b → Memory.read u.mem b = Memory.read t.mem b)
    ∧ (Tab.get? (s.ctx h.ctx).pubs a = some p → p.valid = true → ∃ u, exec (.cpub sc rs1) s = .next u
      ∧ u.me.pc = h.pc + 4#64 ∧ u.me.x = h.x ∧ Tab.get? (u.ctx h.ctx).pubs a = some { p with cur := !p.cur })
    ∧ ((∀ q, Tab.get? (s.ctx h.ctx).pubs a = some q → q.valid = false) → HostTo (.cpub sc rs1) s s (h.moved 0 0 4))

/-- R287, R288, R303: an engine performs a data entry element by element: it comes to the next element, to a
wait that leaves it where it is, or to a fault, which makes it FAULTED once its record is written; behind the
last element the entry completes, and the engine goes on to the next entry, to the next run, or, once nothing is
in flight, to DONE. R287 to R294: what an element is. Its indices count through the bounds, the innermost first;
it reads at SOFF and writes at DOFF plus the indices times the strides; a source out of bounds reads zero under
ZFILL and else writes nothing, and so does a destination out of bounds; MOVE, MOVEC and FILL write the element's
bits, REDU adds them at the destination. A GATH whose index is not valid counts as out of bounds. R290, 13 R356:
whole bytes of a free-running engine that lie in a row of plain memory are stored there, and no other byte
changes. R287 to R294: each of MOVE, MOVEC, GATH, SCAT, FILL and REDU completes an element where its engine may
perform the entry, its formats are known and agree, its offsets are in bounds, the index of a GATH or a SCAT has
been read and is valid, both sides lie in plain memory at hand and the bytes are paid for. The element's bits,
converted and encoded for MOVEC, replace those of the destination and no others, or for REDU leave as one
addition for their bank; the engine goes on to the next element. -/
def Obligations.CopyElements : Prop :=
  (∀ (s t : State) (kind : Nat) (e : CopyEnt) (c : CEnv) (m : Word) (cause : BitVec 16) (info : Nat),
    1 ≤ kind → kind ≤ 6 → CopyReady s kind e c →
    let i := copyEntry kind e
    let en := s.cur.eng
    let x := s.eng en
    let go := (s.atEntry e).elementGo c x.elem
    x.launch.timed = false →
    (x.elem < entElems e → go = .ok m t → EngineTo i s t ((t.eng en).pastElement c x.elem m))
    ∧ ((t.eng en).pastElement c x.elem m).elem = x.elem + 1
    ∧ (x.elem < entElems e → go = .wait t → exec i s = .next t)
    ∧ (x.elem < entElems e → go = .fault cause info t → exec i s = .next (t.engineFailed en cause info))
    ∧ (entElems e ≤ x.elem → 16 ≤ e.cnt.toNat → (((s.atEntry e).flushEngine c).eng en).bound = none →
      ∃ u, exec i s = .next u ∧ (u.eng en).elem = 0
      ∧ (x.entry + 1 < x.launch.nent →
          (u.eng en).entry = x.entry + 1 ∧ (u.eng en).run = x.run ∧ (u.eng en).bound = none)
      ∧ (x.launch.nent ≤ x.entry + 1 → x.run + 1 < x.launch.repeat_ → 0 < x.launch.nent →
          (u.eng en).entry = 0 ∧ (u.eng en).run = x.run + 1 ∧ (u.eng en).bound = none)
      ∧ (x.launch.nent ≤ x.entry + 1 → x.launch.repeat_ ≤ x.run + 1 → x.flights = [] → (u.eng en).bound = some .done)))
  ∧ (∀ (s t : State) (c : CEnv) (elem : Nat) (out : ElemOut), s.copyElem c elem = .ok out t →
    let e := c.ent
    let bs := c.l.buf c.si
    let bd := c.l.buf c.di
    let is := loopIdx e.bounds elem
    let so := e.soff.toInt + strideSum is e.sstr
    let dst := e.doff.toInt + strideSum is e.dstr
    let holds (b : Buf) (o : Int) : Prop := b.bounded = true → 0 ≤ o ∧ o / b.pitch < b.nrow ∧ o % b.pitch < b.ncol
    let writes (a : List FlightAct) (o : Int) (p : Nat → Prop) : Prop :=
      ∃ n v, a = [elemWrite bd n o v] ∧ p v
    let adds (a : List FlightAct) (p : Nat → Prop) : Prop := ∃ va n v f sh, a = [.redu va n v f sh] ∧ p v
    let zfill := e.flags.getLsbD 0 = true
    (∀ k, k < e.bounds.length → (∀ b, b ∈ e.bounds → b ≠ 0) →
      is[k]? = some (elem / ((e.bounds.take k).foldl (fun n b => n * b.toNat) 1) % ((e.bounds[k]?).getD 1).toNat))
    ∧ (c.kind = 1 ∨ c.kind = 2 ∨ c.kind = 5 ∨ c.kind = 6 →
      (out.bit = true ↔ holds bs so)
      ∧ (¬holds bd dst ∨ (¬holds bs so ∧ ¬zfill) → out.acts = [])
      ∧ (holds bd dst → (holds bs so ∨ zfill) →
        (c.kind ≠ 6 → writes out.acts dst fun v => ¬holds bs so → v = 0)
        ∧ (c.kind = 6 → adds out.acts fun v => ¬holds bs so → v = 0)))
    ∧ (c.kind = 3 → out.bit = false → ¬zfill → out.acts = [])
    ∧ (c.kind = 3 → holds bd dst → zfill → out.bit = false → writes out.acts dst (· = 0))
    ∧ (c.kind = 4 → holds bs so → out.bit = true))
  ∧ (∀ (s t u : State) (c : CEnv) (vas v : List Nat) (ps : List (Nat × Word)) (pa : Nat) (leaf : Word) (key : Nat)
    (fmt : Option PageFmt),
    let n := vas.length
    c.kern = none → 0 < n → v.length = n →
    (s.ctx c.ctx).windowOf (vas.headD 0) = none →
    Rd.mapM (fun s va => s.writePlace c fmt none va) vas s = .ok ps t →
    ps = (List.range n).map (fun j => (pa + j, leaf)) →
    t.movingAt c.ctx pa = false → regionOf pa ≠ 3 → leafPol leaf ≠ 3 → (∀ j, j < n → t.plain (pa + j) 1) →
    t.spend c.clu (t.cost (t.copyClasses c.clu pa leaf) n) (.engine c.en) = some u →
    c.paid = false →
    let counted := u.countAccess c.ctx c.clu pa (leafAcnt leaf) (cachedPol leaf)
    counted.plain pa n → counted.Inv →
    ∃ w, s.copyAct c key fmt (.bytes vas v (List.replicate n 255) none) = .ok () w
      ∧ (∀ j, j < n → (Memory.read w.mem (pa + j)).toNat = nth v j 0 % 256)
      ∧ (∀ a, a < pa ∨ pa + n ≤ a → Memory.read w.mem a = Memory.read counted.mem a))
  ∧ (∀ (s s1 s2 : State) (kind : Nat) (e : CopyEnt) (c : CEnv) (fs fd : PageFmt) (ps pd : Nat) (ls ld : Word),
    1 ≤ kind → kind ≤ 6 → CopyReady s kind e c →
    let i := copyEntry kind e
    let en := s.cur.eng
    let x := s.eng en
    let b := s.atEntry e
    let bs := c.l.buf c.si
    let bd := c.l.buf c.di
    let sb := fs.bits bs.esz
    let db := fd.bits bd.esz
    let is := loopIdx e.bounds x.elem
    let ix := sx (x.fillVal.getD 0) 64
    let so : Int := if kind = 3 then ix * bs.pitch + (is.headD 0 : Int) * (nth e.sstr 0 0#24).toInt
      else e.soff.toInt + strideSum is e.sstr
    let dst : Int := if kind = 4 then ix * bd.pitch + (is.headD 0 : Int) * (nth e.dstr 0 0#24).toInt
      else e.doff.toInt + strideSum is e.dstr
    let rv := elemBytes bs.base sb bs.swizzleMask so
    let wv := elemBytes bd.base db bd.swizzleMask dst
    let n := wv.1.length
    let sh := wv.2
    let r := s1.copyOwn c rv.1
    let raw := Memory.readLE r.mem ps rv.1.length / 2 ^ rv.2 % 2 ^ sb
    let v := if kind = 2 then movecCode e fd db (decodeElem fs.code raw) else raw
    let t := if kind = 5 then r.modEng en (fun y => { y with fillVal := some v }) else r
    let s3 := if kind = 6 then s2.countAtomic c.ctx c.clu pd false else s2.countAccess c.ctx c.clu pd false true
    let old := Memory.readLE s3.mem pd n
    let indexed := kind = 3 ∨ kind = 4
    let side := if kind = 3 then bs else bd
    let done (u : State) : Prop := exec i s = .next u ∧ (u.eng en).elem = x.elem + 1 ∧ (u.eng en).bound = none
      ∧ ∀ m, m ≠ en → u.eng m = s.eng m
    x.launch.timed = false → x.maskDue = false → x.elem < entElems e → e.flags.getLsbD 1 = false → c.kern = none →
    en < 128 → Tab.get? s.wc (128 + en) = none →
    Tab.get? x.fmts c.si = some fs → Tab.get? x.fmts c.di = some fd → formatCause kind fs fd sb db bd.esz = none →
    bs.holds so = true → bd.holds dst = true → bd.shadow = false →
    (indexed → x.fillVal.isSome = true ∧ 0 ≤ ix ∧ (side.bounded = true → ix < side.nrow)) →
    (kind = 5 → x.fillVal = none) →
    (kind = 2 → fs.codec = true ∨ ((s.fmtDesc c.ctx fs.idx).ok = true ∧ (s.fmtDesc c.ctx fs.idx).splace = 0)) →
    CopySide b c .read fs rv.1 ps ls → b.spend c.clu (b.cost (b.copyClasses c.clu ps ls) rv.1.length) (.engine en) = some s1 →
    CopySide s1 c .read fs rv.1 ps ls → CopySide r c .read fs rv.1 ps ls → CopySide t c .write fd wv.1 pd ld →
    t.spend c.clu (t.cost (if kind = 6 then t.atomClasses pd else t.copyClasses c.clu pd ld) n) (.engine en) = some s2 →
    s3.plain pd n → s3.Inv →
    (kind ≠ 6 → ∃ u, done u
      ∧ Stored s3 u none pd n (old % 2 ^ sh + 2 ^ sh * (v % 2 ^ db) + 2 ^ (sh + db) * (old / 2 ^ (sh + db)))
      ∧ u = { s3 with engs := u.engs, thrs := u.thrs, mem := u.mem, clus := u.clus, pools := u.pools, resvs := s3.resvsLeft pd n })
    ∧ (kind = 6 → regionOf pd ≠ 2 → ∃ u, done u ∧ u.banks = s3.banks
        ++ [if fd.codec = false ∧ fd.efmt = 0xB then .fadd c.src pd (BitVec.ofNat 32 v)
            else if db = 64 then .fx c.src pd (Word.of v) else .atm c.src pd 0 6 (Word.of v) 0 0]
      ∧ u = { s3 with engs := u.engs, banks := u.banks }))

/-- R286, R295 to R298: PUB publishes once everything before it has been written, and completes; CNT only
completes; WAITS goes on when its counter has reached V + r · CNTINC and else makes the engine WAITING; a
WAITING engine whose entry is read performs it again. R286, R300: an ARMED engine runs when its domain has
reached the start of its first entry; a beat that is due performs the entry that the engine has reached, and
what the beat does to memory lands 23 cycles later; a beat that waits leaves the engine before it with nothing
of it under way. -/
def Obligations.CopyTimed : Prop :=
  (∀ (s t : State) (e : CopyEnt) (c : CEnv) (v : Nat) (cause : BitVec 16) (info : Nat) (p : Nat × CopyEnt),
    let en := s.cur.eng
    let x := s.eng en
    let b := s.atEntry e
    let past (u : State) (o : Engine) : Prop := (u.eng en).elem = 0 ∧ (o.entry + 1 < o.launch.nent →
      (u.eng en).entry = o.entry + 1 ∧ (u.eng en).run = o.run)
    let waits := b.waitsValue c
    (CopyReady s 7 e c → x.launch.timed = false →
      (x.elem = 0 → b.copyPublish c (c.l.buf e.dbuf.toNat).shandle = .ok () t →
        EngineTo (.pub e) s t { t.eng en with elem := 1 })
      ∧ (x.elem = 1 → 16 ≤ e.cnt.toNat → ∃ u, exec (.pub e) s = .next u ∧ past u x))
    ∧ (CopyReady s 8 e c → x.launch.timed = false →
      (16 ≤ e.cnt.toNat → ∃ u, exec (.copyCnt e) s = .next u ∧ past u x)
      ∧ (e.cnt.toNat < 16 →
          b.copyCount c (elemKey x.elem 10) (nth c.l.ctrs e.cnt.toNat 0) e.cntinc = .ok () t →
        ∃ u, exec (.copyCnt e) s = .next u ∧ past u (t.eng en) ∧ u = { t with engs := u.engs }))
    ∧ (CopyReady s 9 e c → x.launch.timed = false →
      (waits = .ok v t → c.awaited (t.eng en).run ≤ v → ∃ u, exec (.waits e) s = .next u ∧ past u (t.eng en)
        ∧ (u.eng en).st = .running)
      ∧ (waits = .ok v t → v < c.awaited (t.eng en).run → EngineTo (.waits e) s t { t.eng en with st := .waiting })
      ∧ (waits = .wait t → exec (.waits e) s = .next t)
      ∧ (waits = .fault cause info t → exec (.waits e) s = .next (t.engineFailed en cause info)))
    ∧ (e.cnt = 0xFE#8 → CopyReady s 9 e c → waits = .ok x.stg.toNat b)
    ∧ c.awaited v = c.ent.soff.toNat + 2 ^ 32 * c.ent.doff.toNat + v * c.ent.cntinc.toNat
    ∧ (x.st = .waiting → x.bound = none → s.fetchEntry en = .ok p t → t.cur = s.cur → 1 ≤ p.1 → p.1 ≤ 9 →
      ∃ u, exec .waitsSatisfied s = .next u ∧ exec (copyEntry p.1 p.2) t = .next u))
  ∧ (∀ (s t : State) (kind : Nat) (e : CopyEnt) (c : CEnv) (k : Kernel) (cause : BitVec 16) (info : Nat) (p : Nat × CopyEnt),
    let en := s.cur.eng
    let x := s.eng en
    let b := s.atEntry e
    let go := b.beatGo c
    let count (c : CEnv) (e : CopyEnt) : List FlightAct :=
      if e.cnt.toNat < 16 then [.count (nth c.l.ctrs e.cnt.toNat 0) e.cntinc] else []
    s.engKernel en = some k →
    (x.st = .armed → x.bound = none → k.state = .running → x.beatCycle ≤ k.run.vcc →
      EngineTo .copyArmedStart s s { x with st := .running })
    ∧ (x.st = .armed → k.run.vcc < x.beatCycle → exec .copyArmedStart s = .next s)
    ∧ (s.beatDue en = true → s.fetchEntry en = .ok p t → t.cur = s.cur → 1 ≤ p.1 → p.1 ≤ 9 →
      ∃ u, exec .copyBeat s = .next u ∧ exec (copyEntry p.1 p.2) t = .next u)
    ∧ (1 ≤ kind → kind ≤ 9 → CopyReady s kind e c → s.beatDue en = true →
      (go = .ok () t → EngineTo (copyEntry kind e) s t (t.eng en).finish)
      ∧ (go = .wait t → EngineTo (copyEntry kind e) s t ((t.eng en).backTo (b.eng en)))
      ∧ (go = .fault cause info t → exec (copyEntry kind e) s = .next (t.engineFailed en cause info))
      ∧ ((t.eng en).backTo (b.eng en)).elem = x.elem ∧ ((t.eng en).backTo (b.eng en)).flights = x.flights)
    ∧ (∀ acts fmt, c.en = en → ((s.fly c acts fmt).eng en).flights = x.flights ++ acts.map (fun a => ⟨k.run.vcc + 23, a, fmt⟩))
    ∧ (x.launch.timed = true → s.beatDue en = true →
      (CopyReady s 8 e c → ∃ u, exec (.copyCnt e) s = .next u
        ∧ (u.eng en).flights = x.flights ++ (count c e).map (fun a => ⟨k.run.vcc + 23, a, none⟩))
      ∧ (CopyReady s 7 e c → ∃ u, exec (.pub e) s = .next u
        ∧ (u.eng en).flights = x.flights
          ++ (.publish (c.l.buf e.dbuf.toNat).shandle :: count c e).map (fun a => ⟨k.run.vcc + 23, a, none⟩))))

/-- R138, R222: the rotation of instant m, with nothing asked of the kernel: the iteration is m, the RRF turns
with it, the stage predicates move up by one and the first is set while m is below the limit, which a pending
`kexit` lowers to m and with `.now` clears the stages; the round's issue ends when no stage predicate is left.
R133, R139, R148, 08 R257, 19 R464: at a rotation instant for which a halt is asked the unwritten words are
written back first, and a spent byte budget makes the domain pause for it; then the earliest trap event freezes
the kernel with its cause and information; a stop halts it unless the round ends there, a save saves it, and a
move that still fits begins. -/
def Obligations.DomainRotation : Prop :=
  (∀ (s : State) (k : Kernel), s.kernel? s.cur.ctx s.cur.kern = some k → k.state = .running → k.run.phase = .rotate →
    k.run.strict = false → k.run.events = [] → k.stopReq = false → k.saveReq = false → k.moveReq = false →
    let m := (k.run.vcc - k.run.start) / k.desc.ii
    let lim := if k.run.kexit.isSome then min k.run.lim m else k.run.lim
    let old : BitVec 8 := if k.run.kexit = some true then 0#8 else k.run.stage
    ∃ n, exec .rotate s = .next (s.putKernel s.cur.ctx s.cur.kern n)
      ∧ n.run.iter = m ∧ n.run.ro = m % 24 ∧ n.run.lim = lim ∧ n.run.kexit = none
      ∧ (∀ i, i < 8 → n.run.stage.getLsbD i = if i = 0 then decide (m < lim) else old.getLsbD (i - 1))
      ∧ (k.desc.stages ≤ 8 → (n.run.retired = true ↔ ∀ i, i < k.desc.stages → n.run.stage.getLsbD i = false))
      ∧ n.run.phase = .check ∧ n.state = .running
      ∧ n.run.vcc = k.run.vcc ∧ n.run.pes = k.run.pes ∧ n.run.preds = k.run.preds ∧ n.run.streams = k.run.streams)
  ∧ (∀ (s t : State) (j k : Kernel) (e : TrapEvent), s.kernel? s.cur.ctx s.cur.kern = some j → j.state = .running →
    j.run.phase = .rotate → j.run.strict = false → j.asked = true →
    (s.settleStores s.cur.ctx s.cur.kern = (t, true) → ∃ u n, exec .rotate s = .next u
      ∧ u.kernel? s.cur.ctx s.cur.kern = some n ∧ n.run.paused = true ∧ n.state = .running ∧ n.run.vcc = j.run.vcc
      ∧ n.run.phase = .rotate)
    ∧ (s.settleStores s.cur.ctx s.cur.kern = (t, false) → t.kernel? s.cur.ctx s.cur.kern = some k →
    let m := (k.run.vcc - k.run.start) / k.desc.ii
    let on := (k.rotated m).run.retired = false
    let leads (p : Kernel → Prop) : Prop := ∃ u n, exec .rotate s = .next u
      ∧ u.kernel? s.cur.ctx s.cur.kern = some n ∧ n.desc = k.desc ∧ n.run.vcc = k.run.vcc ∧ p n
    k.run.vcc = j.run.vcc ∧ k.state = .running
    ∧ (earliest k.run.events = some e → fatalCause e.cause = false →
      leads fun n => n.state = .frozen ∧ n.cause = e.cause ∧ n.info = e.info ∧ n.delivered = false)
    ∧ (k.run.events = [] → k.stopReq = true → on → leads fun n => n.state = .stopped ∧ n.stopReq = false)
    ∧ (k.run.events = [] → k.stopReq = false → k.saveReq = true → leads fun n => n.state = .saved)
    ∧ (k.run.events = [] → k.stopReq = false → k.saveReq = false → k.moveReq = true →
        t.moveFits s.cur.ctx s.cur.kern k k.target = true → leads fun n => n.state = .moving)
    ∧ (∀ x, x ∈ k.run.events → ∃ y, earliest k.run.events = some y ∧ (y = x ∨ x.before y = false))))

/-- R145, R147: a cycle without a late access issues; one with a late access that more than barriers and pending
segments hold pauses the domain at its virtual cycle, the fills of the late words having taken what they read of
the region's scratchpads (log entry 42) and the stores that may leave being sent, and in strict mode takes the
timing trap at the first of them (which of several it is, log entry 75). 01 R22, R145, R147: two accesses of a
cycle to different words of one bank of a scratchpad pause the domain once at its virtual cycle, and in strict
mode take the timing trap at one of them (which of them, log entry 75; what counts as an access of the cycle,
log entry 21); bits 10:6 of the address are the bank. R99, R136, R140: at the end of a cycle a due result
reaches the RRF entry and the latches that its op named; then the virtual cycle advances by one, and the next
one rotates when it is a rotation instant. R83, R217: the adders of a fold may finish, and an arrival at another
core's barrier is counted, while the domain stands. -/
def Obligations.DomainLanding : Prop :=
  (∀ (s : State) (k : Kernel) (pe ops : Nat), s.kernel? s.cur.ctx s.cur.kern = some k → k.state = .running →
    k.run.phase = .check →
    let ctx := s.cur.ctx
    let kh := s.cur.kern
    let c := s.cycleLate ctx kh k
    let taken := c.sites.foldl (fun s l => s.takeLate ctx kh l) (c.s.modKernel ctx kh Kernel.stand)
    (c.first = none → exec .domainResume s = .next (s.putKernel ctx kh
      { k with run := { k.run with phase := .issue, paused := false, midEntry := false } }))
    ∧ (c.first = some (pe, ops) → k.run.strict = true →
      exec .domainResume s = .next (c.s.timingTrap ctx kh (pe / 16) (pe % 16) ops))
    ∧ (∀ o, c.first = some (pe, ops) → k.run.strict = false → c.soft = false → taken.kernel? ctx kh = some o →
      ∃ n, exec .domainResume s = .next ((taken.putKernel ctx kh n).drainStreams ctx kh) ∧ n.run.paused = true ∧ n.run.vcc = o.run.vcc
        ∧ n.run.todo = o.run.todo ∧ n.run.pes = o.run.pes ∧ n.state = o.state))
  ∧ (∀ (s : State) (k : Kernel) (a b : PadUse) (ws : List PadUse), s.kernel? s.cur.ctx s.cur.kern = some k →
    let ctx := s.cur.ctx
    let kh := s.cur.kern
    let meet (a b : PadUse) : Prop := a.word ≠ b.word ∧ a.word / 2 ^ 15 = b.word / 2 ^ 15 ∧ a.word % 32 = b.word % 32
    k.state = .running → k.run.phase = .issue → k.run.todo = [] → k.run.served = false →
    (a ∈ ws → b ∈ ws → meet a b → ∃ u, bankConflict ws = some u ∧ u ∈ ws ∧ ∃ v, v ∈ ws ∧ meet u v)
    ∧ (bankConflict (s.wordsTouched ctx kh k) = some a →
      (k.run.strict = true → exec .land s = .next (s.timingTrap ctx kh (a.pe / 16) (a.pe % 16) a.ops))
      ∧ (k.run.strict = false → ∃ n, exec .land s = .next (s.putKernel ctx kh n) ∧ n.run.paused = true
        ∧ n.run.served = true ∧ n.run.vcc = k.run.vcc ∧ n.run.phase = .issue ∧ n.run.land = k.run.land
        ∧ n.run.pes = k.run.pes)))
  ∧ (∀ (s : State) (k : Kernel) (cyc pe ops : Nat) (rrf : Option Nat) (c0 c1 two : Bool) (r1 r2 : Wide),
    s.kernel? s.cur.ctx s.cur.kern = some k → k.state = .running →
    let ctx := s.cur.ctx
    let kh := s.cur.kern
    let p := Tab.getD k.run.pes pe {}
    (k.run.phase = .issue → k.run.todo = [] → k.engines = [] → k.arrivals = [] → k.strms = [] → k.run.streams = [] →
        k.run.atms = [] → k.run.land = [⟨cyc, pe, ops, .dest rrf c0 c1 two r1 r2⟩] → cyc ≤ k.run.vcc → p.folds = [] →
        (k.run.served = true ∨ bankConflict (s.wordsTouched ctx kh k) = none) →
      ∃ u n q, exec .land s = .next u ∧ u.kernel? ctx kh = some n ∧ n.run.land = [] ∧ n.run.phase = .beats
        ∧ q = Tab.getD n.run.pes pe {}
        ∧ (∀ r, rrf = some r → r < 32 → q.entry r = r1 ∧ ∀ i, i < 32 → i ≠ r → q.entry i = p.entry i)
        ∧ (rrf = none → ∀ i, q.entry i = p.entry i)
        ∧ q.l0 = (if c0 then r1 else p.l0) ∧ q.l1 = (if c1 then (if two then r2 else r1) else p.l1))
    ∧ (k.run.phase = .beats → s.beatsDue k = [] → k.run.retired = false →
      ∃ n, exec .land s = .next (s.putKernel ctx kh n) ∧ n.run.vcc = k.run.vcc + 1
        ∧ (n.run.phase = .rotate ↔ k.run.start ≤ k.run.vcc + 1 ∧ (k.run.vcc + 1 - k.run.start) % k.desc.ii = 0)
        ∧ n.run.pes = k.run.pes ∧ n.run.preds = k.run.preds ∧ n.run.paused = false))
  ∧ (∀ (s : State) (k : Kernel) (core n : Nat) (cpe bank : Bool) (a : Arrival),
    s.kernel? s.cur.ctx s.cur.kern = some k → k.run.paused = true → k.state ≠ .moving →
    let ctx := s.cur.ctx
    let kh := s.cur.kern
    let pe := 16 * core + cpeSlot cpe
    (∃ m, exec (.foldComplete core cpe bank) s = .next (s.putKernel ctx kh m)
      ∧ Tab.getD m.run.pes pe {} = (Tab.getD k.run.pes pe {}).finishFold bank
      ∧ (∀ q, q ≠ pe → Tab.getD m.run.pes q {} = Tab.getD k.run.pes q {}) ∧ m.run.vcc = k.run.vcc)
    ∧ (k.arrivals[n]? = some a → ∃ u m, exec (.remoteArrival n) s = .next u ∧ u.kernel? ctx kh = some m
      ∧ m.arrivals = k.arrivals.eraseIdx n ∧ m.bar a.bar = barArrive (k.bar a.bar) true
      ∧ (∀ i, i ≠ a.bar → m.bar i = k.bar i) ∧ m.run = k.run))

/-- R88, R264, R269: the drain path reads beat after beat of the bank that it drains, and the DPE accepts each
in that cycle; partial words of an ended drain are padded with zeros and written. R142 to R144: a pass takes the
requests of a cluster in order, by PRIO and then by the order of their `kld`, and places each at the first
origin that fits beside those placed before it; one that fits nowhere is left over, and the others go on. A pass
that leaves one over may ask for a move or a save, which moves nothing yet, and one that evicts a kernel is
followed by another (log entry 43). A kernel placed is LOADED on cores none of which is retired; a move ends
with the kernel RUNNING at its new origin. -/
def Obligations.RegionPlacement : Prop :=
  (∀ (s t : State) (k : Kernel) (c : CurDrain) (cyc serial : Nat) (pads : List (Nat × Nat)) (ls : List Landing)
    (f : Run → Run), s.kernel? s.cur.ctx s.cur.kern = some k →
    let ctx := s.cur.ctx
    let kh := s.cur.kern
    let core := s.cur.core
    let d := k.run.path core
    let v := (k.run.drainBank core c.cpe c.bank).beat c.next
    let old := k.run.drain core
    let e : DEnv := ⟨ctx, kh, core, k, old, none, 0, [], 0⟩
    let parts := old.parts.filter fun p => p.serial = serial || p.serial = 0
    (k.beatLate core = false → d.cur = some c →
      ∃ n, exec .drainBeat s = .next (s.putKernel ctx kh n) ∧ (n.run.drain core).head = v
        ∧ (n.run.drain core).cur = (if c.next + 1 < c.beats then some { c with next := c.next + 1 } else none)
        ∧ (d.image ≠ [] → ∃ b, (n.run.drain core).beats = d.beats ++ [b] ∧ b.data = v ∧ b.b = c.next
            ∧ b.n = c.beats ∧ b.t0 = c.e + c.next))
    ∧ (k.beatLate core = true → k.run.strict = false → ∃ n, exec .drainBeat s = .next (s.putKernel ctx kh n)
        ∧ n.run.paused = true ∧ n.run.drains = k.run.drains)
    ∧ (old.pads = (cyc, serial) :: pads → cyc ≤ k.run.vcc → s.padParts e parts = .go t ls f →
      exec .drainPadWrite s = .next (t.modRun ctx kh fun r =>
        let r := f (r.addLandings ls)
        r.putDrain core { r.drain core with
          pads := pads, parts := (r.drain core).parts.filter fun p => p.serial ≠ serial && p.serial ≠ 0 }))
    ∧ (parts = [] → s.padParts e parts = .go s [] id)
    ∧ (∀ p ps u ms g, s.putOut e p.key (p.bytes ++ List.replicate (64 - p.bytes.length) 0) = .go t ls f →
      t.padParts e ps = .go u ms g → s.padParts e (p :: ps) = .go u (ls ++ ms) fun r => g (f r))
    ∧ (∀ p ps, s.putOut e p.key (p.bytes ++ List.replicate (64 - p.bytes.length) 0) = .wait t →
      s.padParts e (p :: ps) = .wait t))
  ∧ (∀ (s t : State) (clu o : Nat) (x : Nat × Nat × Kernel) (k : Kernel) (placed : List (Nat × Nat)) (left : Bool)
    (rest : List (Nat × Nat × Kernel)),
    let first := (origins x.2.2.desc.rows x.2.2.desc.cols).findSome? (s.placeAt placed x.1 x.2.1 x.2.2)
    let pass := s.placeAll [] false (s.requests clu)
    let u := if pass.2 then pass.1.compact clu else pass.1
    (x ∈ s.requests clu ↔ x ∈ s.allKernels ∧ x.2.2.cluster = clu ∧ s.asks x.1 x.2.2 = true)
    ∧ (s.requests clu).Pairwise (fun a b => a.2.2.desc.prio < b.2.2.desc.prio
        ∨ (a.2.2.desc.prio = b.2.2.desc.prio ∧ a.2.2.order ≤ b.2.2.order))
    ∧ (s.requests clu = [] → exec (.placementPass clu) s = .next s)
    ∧ exec (.placementPass clu) s = .next (if s.evicted u then u.laterPass clu else u)
    ∧ s.placeAll placed left [] = (s, left)
    ∧ (first = some t → s.placeAll placed left (x :: rest) = t.placeAll ((x.1, x.2.1) :: placed) left rest)
    ∧ (first = none → s.placeAll placed left (x :: rest) = s.placeAll placed true rest)
    ∧ (∀ i j, ((s.compact clu).kernel? i j).map (fun n => (n.state, n.origin))
        = (s.kernel? i j).map fun n => (n.state, n.origin))
    ∧ (s.kernel? x.1 x.2.1 = some x.2.2 → x.2.2.state = .waiting → x.2.2.away = false →
        s.placeAt placed x.1 x.2.1 x.2.2 o = some t →
      (∀ n, n ∈ x.2.2.desc.rect o → s.limits.coreret.getLsbD (128 * x.2.2.cluster + n) = false)
      ∧ ∃ n, t.kernel? x.1 x.2.1 = some n ∧ n.state = .loaded ∧ n.origin = o ∧ n.desc = x.2.2.desc)
    ∧ (s.kernel? s.cur.ctx s.cur.kern = some k → k.state = .moving → k.run.events = [] → k.stopReq = false →
        k.saveReq = false → k.moveReq = false → ∃ u n, exec .moveComplete s = .next u
      ∧ u.kernel? s.cur.ctx s.cur.kern = some n ∧ n.state = .running ∧ n.origin = k.target ∧ n.desc = k.desc
      ∧ n.lastMove = some s.gtc.toNat))

/-- R236 to R241, 11 R327, R329: a fill that may return, and whose time has come where it reads scratchpads alone (13
R353; log 88), delivers the data of its words; a word whose page failed delivers zeros with clear masks; a fill that the
byte budget does not pay for waits; a record outstanding for 50 µs asks the kernels that wait on it to save, and records
that wait are posted in the order in which they were raised, while the queue has room. -/
def Obligations.StreamFills : Prop :=
  ∀ (s t u : State) (core st pos fid : Nat) (m : Bool) (k : Kernel) (d : StreamDesc) (f : PageFmt) (fr : FaultRec)
    (data : List (Nat × Nat)) (ex : Nat) (c : BitVec 16) (i : Nat),
    let ctx := s.cur.ctx
    let kh := s.cur.kern
    let key := streamKey core m st
    let x := k.run.stream key
    let z := t.stream ctx kh key
    let ws := x.together (groupWords d.deliv) pos
    let vas := ws.flatMap (s.fillVas ctx d x)
    let near := x.fills.flatMap fun g => if ws.contains g.word then g.near ++ s.padBytes ctx k g.pads vas else []
    let due := k.run.paused = true ∨ s.fillDue ctx k d x ws vas k.run.vcc = true
    let y := d.arrive k.run.vcc z ws data ex fun w => t.framesOf ctx k (t.fillVas ctx d z w)
    (s.kernel? ctx kh = some k → k.strm? key = some d → k.state = .running → x.fmt = some f → ws.headD pos = pos →
        s.fillMayReturn ctx k d key ws = true → due →
      (∀ b, x.badPage (pagesOf vas) = some b → exec (.streamFillReturn core m st pos) s
        = .next (s.putStream ctx kh key (d.arriveBad k.run.vcc x ws b.page b.cause b.info)))
      ∧ (x.badPage (pagesOf vas) = none → s.payFills ctx kh k d ws = (t, false) →
        exec (.streamFillReturn core m st pos) s = .next t)
      ∧ (x.badPage (pagesOf vas) = none → s.payFills ctx kh k d ws = (t, true) →
        ((t.asKernel ctx k).fillAll ctx k.cluster d z f near ws vas = .ok (data, ex) u →
          exec (.streamFillReturn core m st pos) s = .next ((t.after k u).putStream ctx kh key y))
        ∧ ((t.asKernel ctx k).fillAll ctx k.cluster d z f near ws vas = .bad c i → replayable c = true →
          exec (.streamFillReturn core m st pos) s = .next (t.streamFault ctx kh key i c .read))))
    ∧ ((∀ g, g ∈ x.fills → g.paid = true) → s.kernel? ctx kh = some k → k.strm? key = some d → s.payFills ctx kh k d ws = (s, true))
    ∧ (ws.Nodup → data.length = ws.length → ∀ j, j < ws.length → d.tail x ≤ nth ws j 0 → d.store = false →
      ∃ w, Tab.get? y.win (nth ws j 0) = some w ∧ w.data = BitVec.ofNat 512 (nth data j (0, 0)).1
        ∧ w.mask = BitVec.ofNat 64 (nth data j (0, 0)).2)
    ∧ ((s.ctx ctx).record fid = some fr → fr.gtc + 50000 ≤ s.gtc.toNat → ∃ v, exec (.faultTimeout ctx fid) s = .next v
      ∧ ∀ h n, s.kernel? ctx h = some n → n.state = .running → (∃ key, .stream h key ∈ fr.waiters) →
          v.kernel? ctx h = some { n with saveReq := true })
    ∧ (∃ v, exec .faultQueueSpace s = .next v
      ∧ (v.ctx ctx).faults.map FaultRec.fid = (s.ctx ctx).faults.map FaultRec.fid
      ∧ ((∀ g, g ∈ (v.ctx ctx).faults → g.posted = true) ∨ (v.ctx ctx).xl.faultRoom = false)
      ∧ (((s.ctx ctx).faults.map FaultRec.fid).Nodup → ∀ (i j : Nat) (a b : FaultRec), i < j →
          ((s.ctx ctx).faults[i]?).any FaultRec.posted = false → ((s.ctx ctx).faults[j]?).any FaultRec.posted = false → (v.ctx ctx).faults[i]? = some a → (v.ctx ctx).faults[j]? = some b →
          b.posted = true → a.posted = true ∧ a.pos < b.pos))

/-- R348, R356, R370, R378: a posted addition, an `atm` or a merge that reaches its home is performed there, in the
order of its unit's merges; a write-combining buffer leaves with its bytes, and is dropped where its context is killed
and an arbiter on its way has acknowledged (16 R418); an error poisons the unit of storage that holds it; a channel in
service fails. -/
def Obligations.MemoryEvents : Prop :=
  ∀ (s : State) (n pa ch : Nat) (b : BankOp) (w : WcBuf),
    let unit := if regionOf pa = 2 then 64 else 128
    let rest : State := { s with banks := s.banks.eraseIdx n }
    let free := b.behind (s.banks.take n) = false
    let old := Memory.readLE s.mem pa
    (s.banks[n]? = some b → free →
      (b.kind = .pred → exec (.predBankAdd n) s = .next (rest.perform b))
      ∧ (b.kind = .atm → exec (.atmBankOp n) s = .next (rest.perform b))
      ∧ (b.kind = .merge → exec (.codecMerge n) s = .next (rest.perform b)))
    ∧ (∀ src v, b = .fx src pa v → s.Inv → s.readError pa 8 = none → (∀ i, i < 8 → s.isCodec (pa + i) = false) →
      Memory.readLE (rest.perform b).mem pa 8 = (old 8 + v.toNat) % 2 ^ 64
      ∧ ∀ a, a < pa ∨ pa + 8 ≤ a → Memory.read (rest.perform b).mem a = Memory.read s.mem a)
    ∧ (∀ src v, b = .fadd src pa v → s.Inv → s.readError pa 4 = none → (∀ i, i < 4 → s.isCodec (pa + i) = false) →
      Memory.readLE (rest.perform b).mem pa 4
        = Fmt.f32.enc ((Fmt.f32.dec (old 4)).add (Fmt.f32.dec v.toNat) .rne) .rne)
    ∧ (Tab.get? s.wc n = some w → ∃ u, exec (.wcBufferDrain n) s = .next u ∧ Tab.get? u.wc n = none
      ∧ ((s.wcOwner n).any (fun c => s.fenced c w.base) = true → u = { s with wc := Tab.del s.wc n })
      ∧ ((s.wcOwner n).any (fun c => s.fenced c w.base) = false → s.Inv → s.banks = [] → w.count = none → s.failedAt w.base 128 = none → s.isCodec w.base = false →
        w.base % 128 = 0 → ∀ i, i < 128 → Memory.read u.mem (w.base + i)
          = ((w.bytes.find? fun e => e.1 = i).map Prod.snd).getD (Memory.read s.mem (w.base + i))))
    ∧ (regionOf pa ≤ 2 → ∃ u, exec (.uncorrectableError pa) s = .next u ∧ pa / unit * unit ∈ u.poison
      ∧ (∀ q, q ∈ s.poison → q ∈ u.poison) ∧ u = { s with poison := u.poison })
    ∧ (ch < 512 → s.chanRet.getLsbD ch = false → ∃ u, exec (.channelFail ch) s = .next u ∧ ch ∈ u.failedCh
      ∧ (∀ q, q ∈ s.failedCh → q ∈ u.failedCh) ∧ u = { s with failedCh := u.failedCh })

/-- R429: a command that completes has its status byte written, where the ring can be written, DONE counts it,
and vector 0 is signalled, or pends while it is masked; no other register and no other byte of memory changes,
but that the write fires the watches of its line and takes the line out of the L1s and the pools (13 R355, 15
R399). R313, R324, R319, R320, R328: INVAL takes in the translation block and drops the cached translations that
its pages touch, and no store that a kernel holds back keeps one of them (log entry 46); FRAMESET, once no
strict round holds a store into them, gives frames their attributes and drops what maps them, and the frames of
a codec region given up, or the store of a new one, read zero; REPLAY and ABORT take a fault record away, and
its threads walk again or take its cause, and a stream of a kernel saved for the page waits no more where the
page now translates; each completes with status 1 or 2 otherwise. -/
def Obligations.TranslationCommands : Prop :=
  (∀ (s : State) (st : Nat), st < 128 →
    let a := s.cmdRecord + 1
    let t := s.finish st
    let y := { s.sys with done := s.sys.done + 1, busy := none, msixPend := t.sys.msixPend }
    t.sys = y
    ∧ (s.sys.msixOn = true → s.sys.msixMask = false → t.sent = s.sent ++ [.msix])
    ∧ (s.sys.msixOn = true → s.sys.msixMask = true → t.sys.msixPend = true ∧ t.sent = s.sent)
    ∧ (s.sys.msixOn = false → t.sent = s.sent ∧ t.sys.msixPend = s.sys.msixPend)
    ∧ (s.ringOk a true = false → t.mem = s.mem)
    ∧ (s.Inv → s.ringOk a true = true → s.isCodec a = false → Memory.read t.mem a = BitVec.ofNat 8 (0x80 + st)
      ∧ ∀ b, b ≠ a → Memory.read t.mem b = Memory.read s.mem b)
    ∧ (∀ k, t.thr k = s.thr k ∨ t.thr k = (s.thr k).wake a 1) ∧ (∀ k, t.clu k = { s.clu k with lines := (t.clu k).lines })
    ∧ let z := { s with sys := t.sys, sent := t.sent, mem := t.mem, poison := t.poison, resvs := t.resvs }
      t = { z with codec := t.codec, thrs := t.thrs, clus := t.clus, pools := t.pools })
  ∧ (∀ (s u : State) (h kh key : Nat) (a : Nat × Word) (va pages pa count attr fid : Word) (f : FaultRec) (k0 : Kernel),
    let c := s.ctx h
    let r := s.dropRecord h f.fid
    let acc := ((k0.strm? key).map StreamDesc.acc).getD .read
    let saved (i : Nat) : Prop := ∃ k, s.kernel? h i = some k ∧ k.state = .saved ∧ k.away = true
    let x := s.readXlate c.obj.xlate c.xl
    let n := count.toNat
    let f0 := pa.toNat / 4096
    let d := Tab.getD s.codec (attr.extractLsb' 16 16).toNat {}
    let away (e : TlbEnt) : Prop := pages ≠ 0 ∧ (e.va + e.size ≤ va.toNat ∨ va.toNat + 4096 * pages.toNat ≤ e.va)
    (c.named = false → exec (.inval h va pages) s = .next (s.finish 1) ∧ exec (.replay h fid) s = .next (s.finish 1)
      ∧ exec (.abort h fid) s = .next (s.finish 1))
    ∧ (x.ok = false → exec (.inval h va pages) s = .next (s.finish 1))
    ∧ (c.named = true → x.ok = true → ∃ t : State, exec (.inval h va pages) s = .next (t.finish 0)
      ∧ (t.ctx h).xl = x ∧ (t.ctx h).st = c.st ∧ (t.ctx h).obj = c.obj
      ∧ (∀ g, g ≠ h → t.ctx g = (s.flushCtx h).ctx g)
      ∧ (∀ e, e ∈ t.tlb ↔ e ∈ s.tlb ∧ (e.asid ≠ c.xl.asid ∨ away e))
      ∧ ∀ i k v, t.kernel? h i = some k → invalTouches va.toNat pages.toNat v 1 = true →
        (∀ b o, b ∈ k.buffer → b.va = some (v, o) → o = true)
        ∧ ∀ l, l ∈ k.run.land → ∀ pa w m (g : Nat × Nat), l.act ≠ .bytes pa w m (some (g.1, g.2, v)))
    ∧ (s.framesetBad pa.toNat n attr = true → exec (.frameset pa count attr) s = .next (s.finish 1))
    ∧ (s.framesetBad pa.toNat n attr = false → s.storesInto pa.toNat (4096 * n) = true →
      exec (.frameset pa count attr) s = .next s)
    ∧ (s.framesetBad pa.toNat n attr = false → s.storesInto pa.toNat (4096 * n) = false → ∃ t : State, exec (.frameset pa count attr) s = .next (t.finish 0)
      ∧ (∀ i, i < n → Tab.get? t.frames (f0 + i) = some ⟨attr.toNat % 8, attr.getLsbD 3, (attr.extractLsb' 16 16).toNat⟩)
      ∧ (∀ g, g < f0 ∨ f0 + n ≤ g → Tab.get? t.frames g = Tab.get? s.frames g)
      ∧ (∀ e, e ∈ t.tlb → e ∈ s.tlb ∧ rangesMeet e.pa e.size pa.toNat (4096 * n) = false)
      ∧ (∀ g i k b v o, t.kernel? g i = some k → b ∈ k.buffer → b.va = some (v, o) → b.meets pa.toNat (4096 * n) = true → o = true)
      ∧ (attr.getLsbD 3 = true → ∀ a, d.estore.toNat ≤ a → a < d.estore.toNat + d.storeLen → Memory.read t.mem a = 0)
      ∧ (attr.getLsbD 3 = false → ∀ i j, i < n → j < 4096 → (s.frameOf (pa.toNat + 4096 * i)).codec = true →
        Memory.read t.mem (pa.toNat + 4096 * i + j) = 0))
    ∧ (c.named = true → c.record fid.toNat = none →
      exec (.replay h fid) s = .next (s.finish 2) ∧ exec (.abort h fid) s = .next (s.finish 2))
    ∧ (c.named = true → c.record fid.toNat = some f →
      (∃ t : State, exec (.replay h fid) s = .next (t.finish 0))
      ∧ ((∀ i j, .stream i j ∈ f.waiters → ¬ saved i) →
        ∃ t : State, exec (.replay h fid) s = .next (t.finish 0) ∧ (t.ctx h).record fid.toNat = none
        ∧ ∀ k, .host k ∈ f.waiters → (s.thr k).ctx = h → (s.thr k).st = .faultWait →
            t.thr k = { s.thr k with st := .ready })
      ∧ (f.waiters = [.stream kh key] → s.kernel? h kh = some k0 → k0.state = .saved → k0.away = true →
        r.engXlate h k0.cluster (f.vaOf (.stream kh key)) acc (k0.run.stream key).fmt = .ok a u → u.kernel? h kh = some k0 →
        ∃ t : State, exec (.replay h fid) s = .next (t.finish 0)
          ∧ ∃ k, t.kernel? h kh = some k ∧ f.page ∉ (k.run.stream key).pending)
      ∧ (∃ t : State, exec (.abort h fid) s = .next (t.finish 0)
        ∧ ∀ k, f.waiters = [.host k] → (s.thr k).ctx = h → (s.thr k).st = .faultWait →
            t = (s.dropRecord h f.fid).trapThr k f.cause (Word.of (f.vaOf (.host k))))))

/-- R404, R405, R407, R416, R418: CREATE begins the loading of a valid object into a free slot; START sets every thread
of the object at its entry with its number and the argument, every other register at its value of reset (log entry 3);
SAVE and RESTORE begin, or a restore, which then completes with status 0 (log entry 16), faults the context at the first
block that fails; KILL stops every thread and awaits every arbiter; each completes with status 1 in any other state. -/
def Obligations.ContextCommands : Prop :=
  ∀ (s : State) (h : Nat) (obj : Word) (o : CtxObj) (b : Nat),
    let c := s.ctx h
    let busy (t : State) (code : Nat) : Prop :=
      t.sys.busy = some ⟨s.cmdRecord, code, h⟩ ∧ t.sys.done = s.sys.done ∧ t.sent = s.sent
    let others (t : State) : Prop := ∀ g, g ≠ h → t.ctx g = s.ctx g
    let idle := c.st = .saved ∨ c.st = .faulted ∧ c.cause = 0x0A02#16
    (64 ≤ h ∨ c.named = true ∨ s.readObj h obj.toNat = none → exec (.create h obj) s = .next (s.finish 1))
    ∧ (h < 64 → c.named = false → s.readObj h obj.toNat = some o → ∃ t : State, exec (.create h obj) s = .next t ∧ busy t 0x10
      ∧ (t.ctx h).st = .loading ∧ (t.ctx h).obj = o ∧ (t.ctx h).serial = c.serial ∧ (t.ctx h).kernels = []
      ∧ (t.ctx h).queues = [] ∧ (t.ctx h).faults = [] ∧ others t
      ∧ ∀ n, t.thr n = s.thr n ∨ t.thr n = (s.thr n).wake (o.xlate + 8) 2)
    ∧ (c.st ≠ .ready → exec (.start h) s = .next (s.finish 1))
    ∧ (c.st = .ready → ∃ t : State, exec (.start h) s = .next (t.finish 0) ∧ t.ctx h = { c with st := .running } ∧ others t
      ∧ (∀ n, c.obj.threads.getLsbD n = true → t.thr n =
          (({ st := .ready, ctx := h, pc := c.obj.entry } : Thr).setReg 10 (Word.of n)).setReg 11 c.obj.arg)
      ∧ (∀ n, c.obj.threads.getLsbD n = false → t.thr n = s.thr n) ∧ t = { s with thrs := t.thrs, ctxs := t.ctxs })
    ∧ (c.st ≠ .running → exec (.save h) s = .next (s.finish 1))
    ∧ (c.st = .running → ∃ t : State, exec (.save h) s = .next t ∧ busy t 0x12 ∧ (t.ctx h).st = .frozen ∧ others t
      ∧ t.thrs = s.thrs ∧ ∀ kh k, s.kernel? h kh = some k → k.state = .running →
        t.kernel? h kh = some { k with saveReq := true })
    ∧ (¬ idle → exec (.restore h) s = .next (s.finish 1))
    ∧ (idle → s.badBlock h = none → ∃ t : State, exec (.restore h) s = .next t ∧ busy t 0x13 ∧ others t
      ∧ t.ctx h = { c with st := .restoring, cause := 0, cinfo := 0 })
    ∧ (idle → s.badBlock h = some b → ∃ t : State, exec (.restore h) s = .next (t.finish 0) ∧ (t.ctx h).st = .faulted
      ∧ (t.ctx h).cause = 0x0A02#16 ∧ (t.ctx h).cinfo = Word.of b ∧ others t)
    ∧ (c.named = false ∨ c.st = .killing → exec (.kill h) s = .next (s.finish 1))
    ∧ (c.named = true → c.st ≠ .killing → ∃ t : State, exec (.kill h) s = .next t ∧ busy t 0x14 ∧ others t
      ∧ (t.ctx h).st = .killing ∧ (t.ctx h).gen = c.gen + 1 ∧ (t.ctx h).acks = [0, 1, 2, 3, 4]
      ∧ (∀ n, (s.thr n).ctx = h → (s.thr n).st ≠ .off → (t.thr n).st = .stopped ∧ (t.thr n).x = (s.thr n).x)
      ∧ ∀ n, (s.thr n).ctx ≠ h ∨ (s.thr n).st = .off → t.thr n = s.thr n)

/-- R405, R407, R416 to R418: a context whose tables are taken in is READY; one whose units have all halted is SAVED,
its serial one up and its engines free; a restore that finds its units, each engine its own where that is free (log
entry 12), goes on with what the save kept (log entry 14); the last arbiter releases a killed context with all that it
held. -/
def Obligations.ContextEvents : Prop :=
  ∀ (s u : State) (n : Nat),
    let h := s.cur.ctx
    let c := s.ctx h
    let x := s.readXlate c.obj.xlate c.xl
    let rest := c.acks.filter (· ≠ n)
    (c.st ≠ .loading → exec .contextLoaded s = .next s)
    ∧ (c.st = .loading → x.ok = false → ∃ t : State, exec .contextLoaded s = .next (t.completeBusy h 0x10 1)
      ∧ (t.ctx h).st = (if c.wasReleased then .released else .empty) ∧ (t.ctx h).serial = c.serial
      ∧ t = { s with ctxs := t.ctxs })
    ∧ (c.st = .loading → x.ok = true → ∃ t : State, exec .contextLoaded s = .next (t.completeBusy h 0x10 0)
      ∧ (t.ctx h).st = .ready ∧ (t.ctx h).serial = 0 ∧ (t.ctx h).xl = x ∧ (t.ctx h).obj = c.obj
      ∧ ∀ k, (t.thr k).x = (s.thr k).x ∧ (t.thr k).pc = (s.thr k).pc)
    ∧ (c.st ≠ .frozen ∨ s.quietCtx h = false → exec .saveComplete s = .next s)
    ∧ (c.st = .frozen → s.quietCtx h = true → ∃ t : State,
      exec .saveComplete s = .next (
        let a := match c.auto with
          | some b => (t.completeBusy h 0x12 0).saveNext b
          | none => t.completeBusy h 0x12 0
        if a.pow.hold = true ∧ a.pow.cut = false ∧ a.pow.releasing = false then a.saveNext true else a)
      ∧ (t.ctx h).st = .saved ∧ (t.ctx h).serial = c.serial + 1
      ∧ (∀ e, (s.eng e).own = some h → (t.eng e).own = none) ∧ (∀ e, e ∈ t.tlb → e.asid ≠ c.xl.asid)
      ∧ ∀ k, (s.thr k).ctx = h → (t.thr k).x = (s.thr k).x ∧ (t.thr k).pc = (s.thr k).pc ∧ (t.thr k).lease = none)
    ∧ (c.st ≠ .restoring ∨ s.pow.hold = true ∧ c.auto ≠ some true → exec .restoreCommit s = .next s)
    ∧ (c.st = .restoring → s.pow.hold = false → s.unpackCtx h (c.image.getD {}) = none →
      exec .restoreCommit s = .next s)
    ∧ (c.st = .restoring → s.pow.hold = false → c.auto = none → s.unpackCtx h (c.image.getD {}) = some u →
      exec .restoreCommit s = .next ((u.requestPasses c.clusters).completeBusy h 0x13 0) ∧ (u.ctx h).st = .running
      ∧ ∀ k, (s.thr k).ctx = h → (s.thr k).st ≠ .off → (s.thr k).st ≠ .stopped →
        (u.thr k).st = .ready ∧ (u.thr k).x = (s.thr k).x ∧ (u.thr k).pc = (s.thr k).pc)
    ∧ (c.st = .killing → n ∈ c.acks → rest ≠ [] → ∃ t : State, exec (.arbiterAck h n) s = .next t
      ∧ t.ctx h = { c with acks := rest } ∧ t.thrs = s.thrs ∧ t.mem = s.mem)
    ∧ (c.st = .killing → n ∈ c.acks → rest = [] → ∃ t : State, exec (.arbiterAck h n) s = .next (t.completeBusy h 0x14 0)
      ∧ t.ctx h = { st := .released, serial := c.serial, gen := c.gen, energy := c.energy }
      ∧ (∀ e, (s.eng e).own = some h → (t.eng e).own = none) ∧ (∀ l, (s.lane l).own = some h → (t.lane l).own = none)
      ∧ (∀ k, (s.thr k).ctx = h → (t.thr k).st = .off) ∧ (∀ e, e ∈ t.steps → e.2 ≠ h) ∧ (∀ e, e ∈ t.stepLast → e.2 ≠ h)
      ∧ ∀ e, e ∈ t.tlb → e.asid ≠ c.xl.asid)

/-- R430, R402: ASSIGN gives engines, lanes or the free pool steps of a die to a context, RECLAIM takes back
those that rest; a request that names another's unit, or one that is in use, completes with status 1 and changes
nothing. R440 to R442, R39: FWLOAD puts a verified image that is no older than the running one into the slot
that is not active; FWSWITCH saves every RUNNING context, and behind the last save the next firmware runs on
trial under a watchdog of 30 s; COMMIT before its end makes the slot active; at its end the old slot runs again,
restores the contexts and completes the command with status 3. -/
def Obligations.ResourceCommands : Prop :=
  (∀ (s : State) (res : BitVec 8) (h : Nat) (first count mask : Word),
    let f := first.toNat
    let n := count.toNat
    let us := unitsFrom f n
    let ok := (s.ctx h).st.takes = true ∧ n ≠ 0
    let give := s.freeSteps f
    let back := (List.range 12).filter fun i => mask.getLsbD i
    let a := s.cmdRecord + 0x20
    (¬ ok → exec (.assign res h first count) s = .next (s.finish 1)
      ∧ exec (.reclaim res h first count mask) s = .next (s.finish 1))
    ∧ (ok → f + n ≤ 128 → (∀ e, e ∈ us → s.engineOff e = false ∧ heldByOther (s.eng e).own h = false) →
      ∃ t : State, exec (.assign 0 h first count) s = .next (t.finish 0) ∧ t = { s with engs := t.engs }
        ∧ (∀ e, e ∈ us → (t.eng e).own = some h) ∧ ∀ e, e ∉ us → t.eng e = s.eng e)
    ∧ (128 < f + n ∨ (∃ e, e ∈ us ∧ (s.engineOff e = true ∨ heldByOther (s.eng e).own h = true)) →
      exec (.assign 0 h first count) s = .next (s.finish 1))
    ∧ (ok → f + n ≤ 512 → (∀ l, l ∈ us → s.laneOff l = false ∧ heldByOther (s.lane l).own h = false) →
      ∃ t : State, exec (.assign 1 h first count) s = .next (t.finish 0) ∧ t = { s with lanes := t.lanes }
        ∧ (∀ l, l ∈ us → (t.lane l).own = some h) ∧ ∀ l, l ∉ us → t.lane l = s.lane l)
    ∧ (ok → f < 4 → n ≤ give.length → ∃ t : State, exec (.assign 2 h first count) s = .next (t.finish 0)
      ∧ (∀ i, i ∈ give.take n → Tab.get? t.steps (12 * f + i) = some h)
      ∧ (∀ i, i ∈ give.take n → Tab.get? s.stepLast (12 * f + i) ≠ some h → s.ringOk a true = false →
        ∀ b, stepAddr (12 * f + i) ≤ b → b < stepAddr (12 * f + i) + 2 ^ 24 → Memory.read t.mem b = 0)
      ∧ ∀ i, i ∉ (give.take n).map (12 * f + ·) → Tab.get? t.steps i = Tab.get? s.steps i)
    ∧ (4 ≤ f ∨ give.length < n → exec (.assign 2 h first count) s = .next (s.finish 1))
    ∧ (ok → f + n ≤ 128 → (∀ e, e ∈ us → (s.eng e).spare h = true) →
      ∃ t : State, exec (.reclaim 0 h first count mask) s = .next (t.finish 0)
        ∧ t = { s with engs := t.engs, ctxs := t.ctxs } ∧ (∀ e, e ∈ us → (t.eng e).own = none)
        ∧ (∀ e, e ∉ us → t.eng e = s.eng e ∨ ∃ e' key idx, e' ∈ us ∧ (s.eng e').held = true
          ∧ (s.eng e').queue = some (key, idx) ∧ (s.eng e).own = some h ∧ (s.eng e).queue = some (key, idx)
          ∧ t.eng e = { s.eng e with held := false, queue := none })
        ∧ (∀ g, g ≠ h → t.ctx g = s.ctx g) ∧ ((∀ e, e ∈ us → (s.eng e).held = false) → t.ctxs = s.ctxs))
    ∧ ((∃ e, e ∈ us ∧ (s.eng e).spare h = false) → exec (.reclaim 0 h first count mask) s = .next (s.finish 1))
    ∧ (ok → f + n ≤ 512 → (∀ l, l ∈ us → (s.lane l).spare h = true) →
      ∃ t : State, exec (.reclaim 1 h first count mask) s = .next (t.finish 0) ∧ t = { s with lanes := t.lanes }
        ∧ (∀ l, l ∈ us → (t.lane l).own = none) ∧ ∀ l, l ∉ us → t.lane l = s.lane l)
    ∧ (ok → f < 4 → mask.toNat < 2 ^ 12 → back.length = n → (∀ i, i ∈ back → Tab.get? s.steps (12 * f + i) = some h) →
      ∃ t : State, exec (.reclaim 2 h first count mask) s = .next (t.finish 0)
        ∧ (∀ i, i ∈ back → Tab.get? t.steps (12 * f + i) = none)
        ∧ ∀ i, i ∉ back.map (12 * f + ·) → Tab.get? t.steps i = Tab.get? s.steps i))
  ∧ (∀ (s : State) (pa len v : Word),
    let a := pa.toNat
    let n := len.toNat
    let r := (List.range n).map fun i => s.peekByte (a + i)
    let old := nth s.fw.svn (if s.fw.active then 1 else 0) 0
    let o := s.fw.other
    let h := s.cur.ctx
    let read := 0x40 ≤ n ∧ s.fw.trial = false ∧ s.rangeReadable a n = true
    let good := imageOk r = true ∧ imageSigned r = true ∧ old.toNat ≤ field r 8 4
    (¬ (read ∧ good) → exec (.fwload pa len) s = .next (s.finish 1))
    ∧ (read → good → s.fw.images.length = 2 → s.fw.good.length = 2 → s.fw.fwver.length = 2 → s.fw.svn.length = 2 →
      ∃ t : State, exec (.fwload pa len) s = .next (t.finish 0) ∧ t = { s with fw := t.fw }
        ∧ nth t.fw.images o [] = r ∧ nth t.fw.good o false = true ∧ nth t.fw.fwver o 0 = fieldW r 0x10
        ∧ nth t.fw.svn o 0 = Word.of (field r 8 4) ∧ t.fw.active = s.fw.active ∧ t.fw.trial = false
        ∧ nth t.fw.images (1 - o) [] = nth s.fw.images (1 - o) [])
    ∧ (nth s.fw.good o false = false → exec .fwswitch s = .next (s.finish 1))
    ∧ (nth s.fw.good o false = true → ∃ t : State, exec .fwswitch s = .next (t.saveNext false)
      ∧ t.sys.busy = some ⟨s.cmdRecord, 0x31, 0⟩ ∧ (∀ h, (s.ctx h).st = .running → (t.ctx h).auto = some false)
      ∧ t = { s with sys := t.sys, ctxs := t.ctxs })
    ∧ ((∀ g, (s.ctx g).st ≠ .running ∧ (s.ctx g).auto ≠ some false) → (s.ctxs.map Prod.fst).Pairwise (· < ·) →
      (∀ g, (s.ctx g).st ≠ .frozen) → s.fw.reverting = false → nth s.fw.good o false = true →
      ∃ t : State, exec .fwswitch s = .next t ∧ t.fw = { s.fw with trial := true, deadline := some (s.gtc.toNat + 30000000000) }
        ∧ t.sys.busy = some ⟨s.cmdRecord, 0x31, 0⟩ ∧ (∀ g, t.ctx g = s.ctx g) ∧ t = { s with sys := t.sys, fw := t.fw, meas := t.meas })
    ∧ ((∀ g, g ≠ h → (s.ctx g).st ≠ .frozen ∧ ((s.ctx g).auto = some false → (s.ctx g).st ≠ .running)) →
      (s.ctxs.map Prod.fst).Pairwise (· < ·) → (s.ctx h).st = .frozen → (s.ctx h).auto = some false →
      s.quietCtx h = true → s.pow.hold = false →
      ∃ t : State, exec .saveComplete s = .next t ∧ t.fw.trial = true ∧ t.fw.active = s.fw.active
        ∧ t.fw.deadline = some (s.gtc.toNat + 30000000000))
    ∧ (v ≠ 0x434F4D4D49542121#64 ∨ s.fw.trial = false ∨ (∃ d, s.fw.deadline = some d ∧ d ≤ s.gtc.toNat) →
      exec (.fwCommit v) s = .next s)
    ∧ (s.fw.trial = true → (∀ d, s.fw.deadline = some d → s.gtc.toNat < d) → ∃ t : State, exec (.fwCommit 0x434F4D4D49542121#64) s = .next (t.completeBusy 0 0x31 0)
      ∧ t.fw = { s.fw with active := !s.fw.active, trial := false, deadline := none } ∧ t = { s with fw := t.fw })
    ∧ (∀ d, s.fw.trial = true → s.fw.deadline = some d → s.gtc.toNat < d → exec .fwWatchdog s = .next s)
    ∧ (∀ d, s.fw.trial = true → s.fw.deadline = some d → d ≤ s.gtc.toNat →
      ∃ t : State, exec .fwWatchdog s = .next (t.restoreNext false) ∧ t = { s with fw := t.fw, meas := t.meas }
        ∧ t.fw = { s.fw with trial := false, deadline := none, reverting := true })
    ∧ (∀ d, s.fw.trial = true → s.fw.deadline = some d → d ≤ s.gtc.toNat → s.pow.hold = false →
      (∀ e, e ∈ s.ctxs → e.2.auto ≠ some false) →
      ∃ t : State, exec .fwWatchdog s = .next (t.completeBusy 0 0x31 3) ∧ t = { s with fw := t.fw, meas := t.meas }
        ∧ t.fw = { s.fw with trial := false, deadline := none, reverting := false }))

/-- R435: ENABLE of a DISABLED queue with a valid descriptor makes it IDLE with CONS and DONE at KICK, DISABLE drains
it, RESET of one in ERROR disables it with KICK at CONS; every other request completes with status 1. R433, R434: a kick
raises KICK to its value in every state; an IDLE queue with entries is ACTIVE, an overrun of one that is not DISABLED or
in ERROR is ERR 0x02 with a free ERRIDX (log entry 2). R439: `qsub` puts the 64 bytes of an entry into the slot of KICK
and kicks, answers all ones where the queue does not take it, or traps where the slot cannot be written (13 R378, 18
R461). -/
def Obligations.QueueControl : Prop :=
  ∀ (s t : State) (h q pqn bytes : Nat) (v : Word) (d : Queue) (rd rs1 rs2 : Reg) (r : List Byte),
    let c := s.ctx h
    let x := s.queue h q
    let a := c.obj.qtab + 64 * q
    let one (i : Instr) : Prop := exec i s = .next (s.finish 1)
    let leads (u : State) (y : Queue) : Prop :=
      u.queue h q = y ∧ (∀ g p, (g, p) ≠ (h, q) → u.queue g p = s.queue g p)
        ∧ ∀ n, (u.thr n).x = (s.thr n).x ∧ (u.thr n).pc = (s.thr n).pc
    let k := max x.kick v.toNat
    let live := x.st = .idle ∨ x.st = .active ∨ x.st = .draining
    let me := s.me
    let i := (me.reg rs1).toNat
    let ad := (me.reg rs2).toNat
    (c.named = false ∨ x.st ≠ .disabled ∨ x.pqn = none ∨ s.readQueue a x = none → one (.qctlEnable h q))
    ∧ (c.named = true → x.st = .disabled → x.pqn ≠ none → s.readQueue a x = some d →
      ∃ u : State, exec (.qctlEnable h q) s = .next (u.finish 0) ∧ leads u { d with
        st := .idle, cons := x.kick, done := x.kick, head := none, runs := x.runs.map fun o => { o with old := true } })
    ∧ (c.named = false ∨ (x.st ≠ .idle ∧ x.st ≠ .active) → one (.qctlDisable h q))
    ∧ (c.named = true → (x.st = .idle ∨ x.st = .active) → ∃ u : State, exec (.qctlDisable h q) s = .next (u.finish 0)
      ∧ leads u { x with st := (if x.done = x.cons then .disabled else .draining) })
    ∧ (c.named = false ∨ x.st ≠ .error → one (.qctlReset h q))
    ∧ (c.named = true → x.st = .error → ∃ u : State, exec (.qctlReset h q) s = .next (u.finish 0)
      ∧ leads u { x with st := .disabled, kick := x.cons, err := 0, errcause := 0, erridx := 0, errinfo := 0 })
    ∧ (s.queueOf pqn = none → exec (.kickWrite pqn v bytes) s = .next s)
    ∧ (s.queueOf pqn = some (h, q) → (bytes ≠ 8 ∨ x.tsub = true) → exec (.kickWrite pqn v bytes) s = .next s)
    ∧ (s.queueOf pqn = some (h, q) → x.tsub = false → ∃ u, exec (.kickWrite pqn v 8) s = .next u
      ∧ (live → 2 ^ x.log < k - x.cons → ∃ n, leads u { x with
          kick := k, st := .error, err := 2, errcause := 0, erridx := n, errinfo := 0, head := none })
      ∧ (x.st = .idle → k - x.cons ≤ 2 ^ x.log → x.cons < k → leads u { x with
          kick := k, st := .active, since := s.gtc.toNat })
      ∧ (x.st = .idle → k ≤ x.cons → leads u { x with kick := k })
      ∧ (x.st = .active ∨ x.st = .draining → k - x.cons ≤ 2 ^ x.log → leads u { x with kick := k })
      ∧ (x.st = .disabled ∨ x.st = .error → leads u { x with kick := k }))
    ∧ (ad % 64 ≠ 0 → exec (.qsub rd rs1 rs2) s = .next (s.trap 0x0511#16 (me.reg rs2)))
    ∧ (ad % 64 = 0 → s.hostRecord ad 64 = .ok r t → t.me = me → (t.queue t.myCtx i).refuses i = true →
      HostTo (.qsub rd rs1 rs2) s t (me.moved rd (BitVec.allOnes 64) 4))
    ∧ (∀ ca n, ad % 64 = 0 → s.hostRecord ad 64 = .ok r t → (t.queue t.myCtx i).refuses i = false → t.me = me →
      t.slotError ((t.queue t.myCtx i).slot (t.queue t.myCtx i).kick) = some (ca, n) →
      exec (.qsub rd rs1 rs2) s = .next (t.trap ca (Word.of n)))
    ∧ (ad % 64 = 0 → s.hostRecord ad 64 = .ok r t → t.me = me → (t.queue t.myCtx i).refuses i = false →
      t.slotError ((t.queue t.myCtx i).slot (t.queue t.myCtx i).kick) = none →
      let y := t.queue t.myCtx i
      let m := me.moved rd (Word.of (y.kick + 1)) 4
      let slot := y.ring + 64 * (y.kick % 2 ^ y.log)
      let desc := (t.ctx t.myCtx).obj.qtab + 64 * i
      ∃ u, exec (.qsub rd rs1 rs2) s = .next u ∧ u.me.x = m.x ∧ u.me.pc = m.pc
        ∧ ((u.queue t.myCtx i).kick = y.kick + 1 ∧ (u.queue t.myCtx i).cons = y.cons)
        ∧ (y.cons ≤ y.kick → y.kick - y.cons < 2 ^ y.log → (u.queue t.myCtx i).st = .active)
        ∧ (Memory.wf t.mem = true → slot % 64 = 0 → t.isCodec slot = false → slot + 64 ≤ desc ∨ desc + 64 ≤ slot →
          ∀ j, j < 64 → Memory.read u.mem (slot + j) = nth r j 0))

/-- R432, R433, R436: an entry at the head is dispatched once its queue may dispatch and no queue that comes
before it competes with its head or its timetables (log entry 26): LAUNCH loads, and then starts its kernel;
COPY and LANE start on a free unit, or wait; WAIT waits for its counter; SIGNAL adds to one and MARK writes
behind what the context has posted; FENCE holds the queue; TIMETABLE is taken in; an invalid record ends in its
error code. The entry is read once: what memory holds behind that read does not count (R433). In a context that
is being frozen what it starts halts at once (16 R405). R432, R437, R438: an entry whose work has ended leaves
the queue and is counted in DONE, but for those of before its last ENABLE (log entry 27); one whose work has
failed puts the queue into ERROR with its index. The units of a timetable are armed in entry order while their
resources are free, in the turn of their queue (log 26), and each starts at its TSTART; a unit not armed by then
is a slip, ERR 0x07 with cause 0x0203 and the entry in ERRIDX. -/
def Obligations.QueueDispatch : Prop :=
  (∀ (s t u : State) (e : QEnt) (r : List Byte) (pa en kh : Nat) (l : Launch) (ens : List Nat) (o : Nat) (j : Job)
    (k : Kernel) (rk : Except LoadErr Kernel) (ls : List (Nat × Launch)) (dr : List (List (BitVec 32))) (tt : Timetable),
    let ctx := s.cur.ctx
    let q := s.cur.queue
    let x := s.queue ctx q
    let f := s.keepHead ctx q
    let ready (i : Instr) : Prop := s.headReady ctx q e = true ∧ s.yields ctx q (s.headKeys ctx q i) = false
    let took (t v : State) (w : QWork) (ts : List Timetable) : Prop :=
      let y := t.queue ctx q
      let st := if y.cons + 1 = y.kick then .idle else y.st
      let rs := y.runs ++ [⟨y.cons, w, e.ctr.toNat, e.ctrinc, false⟩]
      v.queue ctx q = { y with cons := y.cons + 1, since := t.gtc.toNat, tables := y.tables ++ ts, st := st, runs := rs, head := none }
    let failed (v : State) (err : Nat) (cause : BitVec 16) : Prop :=
      let y := v.queue ctx q
      y.st = .error ∧ y.err = err ∧ y.errcause = cause ∧ y.erridx = x.cons ∧ y.cons = x.cons
    let runs (i : Instr) (p : State → Prop) : Prop := ∃ v, exec i s = .next v ∧ p v
    let ln := e.lane.toNat
    (∀ i, i ∈ [Instr.launch e, .timetable e, .copy e, .lane e, .wait e, .signal e, .mark e, .fence e] →
      ¬ ready i → exec i s = .next s)
    ∧ (ready (.fence e) → runs (.fence e) fun v => took s v .fence [])
    ∧ (ready (.wait e) → f.readRecord ctx 0 e.addr0.toNat 8 = .ok r t →
      (e.value.toNat ≤ field r 0 8 → runs (.wait e) fun v => took t v .now [])
      ∧ (field r 0 8 < e.value.toNat → exec (.wait e) s = .next f))
    ∧ (ready (.signal e) → f.counterPlace ctx 0 e.addr0.toNat = .ok pa t →
      runs (.signal e) fun v => took t v .now []
        ∧ v = (((t.flushCtx ctx).counterAdd pa e.value).dispatched ctx q e .now).haltsToo ctx)
    ∧ (ready (.mark e) → f.markPlace ctx e.addr0.toNat = .ok pa t → regionOf pa ≠ 3 →
      runs (.mark e) fun v => took t v .now []
        ∧ v = (((t.flushCtx ctx).store (srcOf ctx (4096 + q)) pa (bytesOf e.value.toNat 8 ++ bytesOf t.gtc.toNat 8)
            (List.replicate 16 1)).dispatched ctx q e .now).haltsToo ctx)
    ∧ (ready (.copy e) → f.readLaunch ctx e.clu.toNat e.addr0.toNat false = .ok (.ok l) t →
      (t.freeEngines ctx e.clu.toNat = en :: ens → (t.ctx ctx).st ≠ .frozen → runs (.copy e) fun v => took t v (.engine en) []
        ∧ (v.eng en).launch = l ∧ (v.eng en).own = (t.eng en).own ∧ (v.eng en).queue = some (q, x.cons)
        ∧ (v.eng en).st = (if l.timed then .armed else .running))
      ∧ (t.freeEngines ctx e.clu.toNat = [] → exec (.copy e) s = .next f))
    ∧ (ready (.copy e) → f.readLaunch ctx e.clu.toNat e.addr0.toNat false = .ok (.error o) t →
      runs (.copy e) fun v => failed v 5 0x0602#16)
    ∧ (ready (.lane e) → f.readJob ctx (laneClu ln) e.addr0.toNat = .ok (.ok j) t →
      (t.laneFree ctx ln = true → (t.ctx ctx).st ≠ .frozen → runs (.lane e) fun v => took t v (.lane ln) [] ∧ (v.lane ln).st = .running
        ∧ (v.lane ln).job = j ∧ (v.lane ln).own = some ctx ∧ (v.lane ln).queue = some (q, x.cons))
      ∧ (t.laneFree ctx ln = false → exec (.lane e) s = .next f))
    ∧ (ready (.lane e) → f.readJob ctx (laneClu ln) e.addr0.toNat = .ok (.error o) t →
      runs (.lane e) fun v => failed v 6 0x0B01#16)
    ∧ (ready (.launch e) → s.ownedKernel ctx q x.cons = none → e.addr1 = 0 →
      f.readKernel ctx e.clu.toNat e.addr0.toNat = .ok rk t → t.acceptKernel ctx e.clu.toNat rk = .ok (kh, k) →
      (t.ctx ctx).st ≠ .frozen → runs (.launch e) fun v => v.queue ctx q = t.queue ctx q
        ∧ v.kernel? ctx kh = some { k with owner := some (q, x.cons) })
    ∧ (ready (.launch e) → s.ownedKernel ctx q x.cons = some (kh, k) → k.state ≠ .loaded →
      exec (.launch e) s = .next f)
    ∧ (ready (.launch e) → s.ownedKernel ctx q x.cons = some (kh, k) → k.state = .loaded → s.forkGroup ctx k = none →
      f.forkReads ctx k = .ok (.ok ls, dr) u →
      (u.forkReady ctx kh k = true → (u.ctx ctx).st ≠ .frozen → runs (.launch e) fun v => took u v (.kernel kh) []
        ∧ ∃ n, v.kernel? ctx kh = some n ∧ n.state = .running ∧ n.run.start = k.run.vcc + 24 ∧ n.owner = k.owner)
      ∧ (u.forkReady ctx kh k = false → exec (.launch e) s = .next f))
    ∧ (ready (.timetable e) → f.readTimetable ctx x.cons e.addr0.toNat = .ok (some tt) t →
      runs (.timetable e) fun v => took t v .timetable [tt])
    ∧ (ready (.timetable e) → f.readTimetable ctx x.cons e.addr0.toNat = .ok none t →
      runs (.timetable e) fun v => failed v 1 0))
  ∧ (∀ (s t : State) (idx unit err n : Nat) (cause : BitVec 16) (info : Word) (r : QRun) (tt : Timetable) (w v : TtUnit)
    (m : Option Nat),
    let ctx := s.cur.ctx
    let q := s.cur.queue
    let x := s.queue ctx q
    let ends := (s.ctx ctx).st = .ready ∨ (s.ctx ctx).st = .running ∨ (s.ctx ctx).st = .frozen
    let has := x.runs.find? (fun r => r.idx = idx) = some r ∧ ends ∧ s.entryStalled ctx q idx = false
    let i := Instr.queueEntryComplete idx
    let d := if r.old then x.done else x.done + 1
    let at_ := x.tables.find? (fun t => t.idx = idx) = some tt ∧ tt.units.find? (fun u => u.entry = unit) = some w
    let p := Instr.timetableUnitStart idx unit
    let live := x.st = .idle ∨ x.st = .active ∨ x.st = .draining
    (x.runs.find? (fun r => r.idx = idx) = none → exec i s = .next s)
    ∧ (has → s.runEnd ctx q r = .goes → exec i s = .next s)
    ∧ (has → s.runEnd ctx q r = .done → r.ctr = 0 → ∃ u, exec i s = .next u
      ∧ (u.queue ctx q).runs = x.runs.filter (fun o => o.idx ≠ idx) ∧ (u.queue ctx q).done = d
      ∧ (u.queue ctx q).cons = x.cons
      ∧ (u.queue ctx q).st = (if x.st = .draining ∧ d = x.cons then .disabled else x.st))
    ∧ (has → s.runEnd ctx q r = .done → r.ctr ≠ 0 → s.entryAdd ctx q idx r.ctr r.ctrinc = .ok () t →
      exec i s = .next (t.endRun ctx q r))
    ∧ (has → s.runEnd ctx q r = .failed err cause info → live → ∃ u, exec i s = .next u
      ∧ (u.queue ctx q).st = .error ∧ (u.queue ctx q).err = err ∧ (u.queue ctx q).errcause = cause
      ∧ (u.queue ctx q).erridx = idx ∧ (u.queue ctx q).errinfo = info
      ∧ (u.queue ctx q).runs = x.runs.filter (fun o => o.idx ≠ idx))
    ∧ (x.tables.find? (fun t => t.idx = idx) = none → exec p s = .next s)
    ∧ (at_ → w.started = true → exec p s = .next s)
    ∧ (at_ → w.started = false → s.gtc.toNat < w.tstart → (w.armed.isSome = true ∨ s.mayArm ctx q idx = false) →
      exec p s = .next s)
    ∧ (at_ → w.started = false → s.gtc.toNat < w.tstart → 
      (tt.toArm ≠ some w ∨ s.yields ctx q (s.unitKeys ctx q idx w) = true) → exec p s = .next s)
    ∧ (at_ → s.gtc.toNat < w.tstart → tt.toArm = some w → s.mayArm ctx q idx = true →
      s.yields ctx q (s.unitKeys ctx q idx w) = false → s.armUnit ctx q idx w = .ok m t →
      exec p s = .next ((t.serve ctx q).putUnit ctx q idx { w with armed := m }))
    ∧ (at_ → w.started = false → w.tstart ≤ s.gtc.toNat → s.slipped ctx tt = none → w.armed = some n →
      s.startUnit ctx q idx w n = .ok () t → exec p s = .next (t.putUnit ctx q idx { w with started := true }))
    ∧ (at_ → w.started = false → w.tstart ≤ s.gtc.toNat → s.slipped ctx tt = some v → live → ∃ u, exec p s = .next u
      ∧ (u.queue ctx q).st = .error ∧ (u.queue ctx q).err = 7 ∧ (u.queue ctx q).errcause = 0x0203#16
      ∧ (u.queue ctx q).erridx = v.entry ∧ (u.queue ctx q).tables = x.tables.filter (fun t => t.idx ≠ idx)))

/-- R469 to R471: `lease` grants a level for the smaller of the duration asked and LMAX, or answers its reason: 4 bad
operands, 3 LOCKED, 2 REFREEZE, 1 MELT at 0xC000 or more; `lrel` ends the lease, and so does its end in time, with
0x0901. R463, R464: at the end of an interval every cluster takes its level and a full meter, from which the requests
that wait are served in the order in which they were refused; a thread goes on once its request has been paid. -/
def Obligations.Leases : Prop :=
  ∀ (s : State) (rd rs1 rs2 : Reg) (l stop : Nat),
    let h := s.me
    let d := (h.reg rs1).toNat
    let lv := (h.reg rs2).toNat
    let i := Instr.lease rd rs1 rs2
    let bad := lv < 1 ∨ 4 < lv ∨ d = 0 ∨ 2 ^ 32 ≤ d
    let no (why : Nat) : Prop := HostTo i s s (h.moved rd (Word.of (2 ^ 63 + why * 2 ^ 36)) 4)
    let g := min d s.pow.lmax.toNat
    let end_ : Thr := { h with lease := none, inbox := h.inbox ++ [⟨0x0901#16, false, Word.of l⟩] }
    (bad → no 4) ∧ (¬ bad → s.pow.store = .locked → no 3) ∧ (¬ bad → s.pow.store = .refreeze → no 2)
    ∧ (¬ bad → s.pow.store = .solid ∨ s.pow.store = .melting → 0xC000 ≤ s.pow.melt.toNat → no 1)
    ∧ (¬ bad → s.pow.store = .solid ∨ s.pow.store = .melting → s.pow.melt.toNat < 0xC000 →
      HostTo i s s (({ h with lease := some (lv, s.gtc.toNat + 1000 * g) } : Thr).moved rd (Word.of (lv * 2 ^ 32 + g)) 4))
    ∧ HostTo .lrel s s (({ h with lease := none } : Thr).moved 0 0 4)
    ∧ (h.lease = none → exec .leaseExpiry s = .next s)
    ∧ (h.lease = some (l, stop) → s.gtc.toNat < stop → exec .leaseExpiry s = .next s)
    ∧ (h.lease = some (l, stop) → stop ≤ s.gtc.toNat → HostTo .leaseExpiry s s end_)
    ∧ (s.gtc.toNat < 1000 * (s.ival + 1) → exec .intervalEnd s = .next s)
    ∧ (1000 * (s.ival + 1) ≤ s.gtc.toNat → ∃ u, exec .intervalEnd s = .next u ∧ u.ival = s.ival + 1
      ∧ (∀ k, k < 8 → let bud := (nth s.pow.lvbud (s.leaseLevel k) 0#32).toNat
        u.clu k = (s.clu k).waits.foldl (fun c w => if w.2 ≤ c.meter then { c with meter := c.meter - w.2, paid := c.paid ++ [w] }
            else { c with waits := c.waits ++ [w] })
          { s.clu k with lvl := s.leaseLevel k, bud := bud, meter := bud, waits := [], paid := [] })
      ∧ (∀ n, (s.thr n).st = .budget → (∀ w, w ∈ (u.clu (cluOf n)).waits → w.1 ≠ .thread n) →
        u.thr n = { s.thr n with st := .ready })
      ∧ (∀ n, (s.thr n).st = .budget → (∃ w, w ∈ (u.clu (cluOf n)).waits ∧ w.1 = .thread n) → u.thr n = s.thr n)
      ∧ (∀ n, (s.thr n).st ≠ .budget → u.thr n = s.thr n)
      ∧ u = { s with ival := u.ival, thrs := u.thrs, clus := u.clus, ctxs := u.ctxs })

/-- R467, R471: an update of MELT moves the store between SOLID, MELTING and REFREEZE, whose entry ends every lease with
0x0901; a sensor fault locks it. R465, R26, R27: a rail's operating point changes within its limits and the clock rule,
once in 100 ms, while firmware runs. R473, R474: the critical mark, whose slope is that over 1 ms (log 18), or a sensor
fault outside LOCKED (log 17) locks the store, ends the leases and saves the RUNNING contexts, a first time or again
behind a release; the release mark restores them. R482: a write of the selector clears the latches, a 32-bit read of ELO
sets one. In the recovery state (01 R37) none of them acts (log 30). -/
def Obligations.PowerEvents : Prop :=
  ∀ (s : State) (m : BitVec 16) (rail : Rail) (op : BitVec 2) (tj : Byte) (bar : Bool) (bytes : Nat) (v : Word),
    let p := s.pow
    let n := m.toNat
    let i := railIndex rail
    let last := nth p.changed i 0
    let least := (s.limits.opmin.extractLsb' (8 * i) 8).toNat
    let new := putOp p.opcur rail op
    let up := s.boot ≠ .recovery
    let may := (s.boot = .ready ∨ s.boot = .training) ∧ least ≤ op.toNat ∧ clockRule new = true ∧ (last = 0 ∨ last + 100000000 ≤ s.gtc.toNat)
    let now := s.gtc.toNat
    let was := (((p.tjs.filter fun x => x.1 + 1000000 ≤ now).getLast?).map Prod.snd).getD 0
    let crit := s.limits.tcrit.toNat ≤ tj.toNat ∨ p.melt = 0xFFFF#16 ∧ was.toNat < tj.toNat
    let seen (q : Power) : Prop := q.tjmax = tj ∧ (∀ x, x ∈ q.tjs → x ∈ p.tjs ∨ x = (now, tj)) ∧ q.tjs.getLast? = some (now, tj)
      ∧ (∀ x, x ∈ p.tjs → now < x.1 + 1000000 → x ∈ q.tjs)
      ∧ ((q.tjs.filter fun x => x.1 + 1000000 ≤ now).getLast?).map Prod.snd
        = ((p.tjs.filter fun x => x.1 + 1000000 ≤ now).getLast?).map Prod.snd
    let saves (i : Instr) : Prop := ∃ t : State, exec i s = .next (t.saveNext true)
      ∧ t.pow.hold = true ∧ t.pow.releasing = false ∧ t.pow.store = .locked ∧ t.pow.cut = p.cut ∧ t.pow.melt = p.melt
      ∧ (i = .meltSensorFault → t.pow.sensorOk = false ∧ t.pow.tjmax = p.tjmax ∧ t.pow.tjs = p.tjs)
      ∧ (i = .thermalCritical tj → t.pow.sensorOk = p.sensorOk ∧ seen t.pow) ∧ (∀ k, (t.thr k).lease = none)
      ∧ (∀ h, (s.ctx h).st = .running → (t.ctx h).auto = some true) ∧ (∀ h, (t.ctx h).st = (s.ctx h).st)
      ∧ t = { s with pow := t.pow, thrs := t.thrs, ctxs := t.ctxs }
    let rel := tj.toNat ≤ s.limits.trel.toNat ∧ p.melt.toNat ≤ 0x4000
    let e := s.selEnergy.extractLsb' 32 17
    (s.boot = .recovery → exec (.meltUpdate m) s = .next s ∧ exec (.energySelect bar v) s = .next s
      ∧ exec (.eloRead bar bytes) s = .next s ∧ exec (.thermalCritical tj) s = .next s
      ∧ exec (.thermalRelease tj) s = .next s
      ∧ exec .meltSensorFault s = .next s ∧ exec (.opChange rail op) s = .next s)
    ∧ (up → ∃ u, exec (.meltUpdate m) s = .next u ∧ u.pow = { p with melt := m, store := u.pow.store, sensorOk := true }
      ∧ (p.store = .locked → u.pow.store = .locked)
      ∧ ((p.store = .solid ∨ p.store = .melting) →
        u.pow.store = if 0xF000 ≤ n then .refreeze else if n = 0 then .solid else .melting)
      ∧ (p.store = .refreeze →
        u.pow.store = if 0x4000 < n then .refreeze else if n = 0 then .solid else .melting)
      ∧ ((p.store = .solid ∨ p.store = .melting) → 0xF000 ≤ n → ∀ k l t, (s.thr k).lease = some (l, t) →
        u.thr k = { s.thr k with lease := none, inbox := (s.thr k).inbox ++ [⟨0x0901#16, false, Word.of l⟩] })
      ∧ (n < 0xF000 → u.thrs = s.thrs) ∧ u = { s with pow := u.pow, thrs := u.thrs })
    ∧ (up → p.store = .locked → exec .meltSensorFault s = .next { s with pow := { p with sensorOk := false } })
    ∧ (up → p.store ≠ .locked → p.hold = true → p.releasing = false →
      exec .meltSensorFault s = .next { s with pow := { p with sensorOk := false, store := .locked } })
    ∧ (up → p.store ≠ .locked → p.hold = false ∨ p.releasing = true → saves .meltSensorFault)
    ∧ (¬ may → exec (.opChange rail op) s = .next s)
    ∧ (may → ∃ u, exec (.opChange rail op) s = .next u ∧ opOf u.pow.opcur rail = op.toNat
      ∧ (∀ r, r ≠ rail → opOf u.pow.opcur r = opOf p.opcur r)
      ∧ u = { s with pow := { p with opcur := u.pow.opcur, changed := p.changed.set i (max 1 s.gtc.toNat) } })
    ∧ (up → (p.hold = true ∧ p.releasing = false) ∨ ¬ crit → ∃ u, exec (.thermalCritical tj) s = .next u ∧ seen u.pow
      ∧ u = { s with pow := { p with tjmax := tj, tjs := u.pow.tjs } })
    ∧ (up → p.hold = false ∨ p.releasing = true → crit → saves (.thermalCritical tj))
    ∧ (up → ¬ rel ∨ (p.hold = true ∧ p.cut = false) → ∃ u, exec (.thermalRelease tj) s = .next u ∧ seen u.pow
      ∧ u = { s with pow := { p with tjmax := tj, tjs := u.pow.tjs } })
    ∧ (up → rel → p.hold = false → ∃ u, exec (.thermalRelease tj) s = .next u ∧ seen u.pow
      ∧ u = { s with pow := { p with tjmax := tj, tjs := u.pow.tjs, store := u.pow.store } }
      ∧ (p.store = .locked → p.sensorOk = true → u.pow.store = if p.melt = 0 then .solid else .melting)
      ∧ (p.store ≠ .locked ∨ p.sensorOk = false → u.pow.store = p.store))
    ∧ (up → rel → p.hold = true → p.cut = true → ∃ t : State, exec (.thermalRelease tj) s = .next (t.restoreNext true)
      ∧ seen t.pow ∧ t.pow.cut = false ∧ t.pow.releasing = true ∧ t.pow.hold = true ∧ t = { s with pow := t.pow })
    ∧ (up → ∃ u, exec (.energySelect bar v) s = .next u ∧ u = { s with pow := u.pow }
      ∧ u.pow = { p with ctx := v.extractLsb' 0 6, core := v.extractLsb' 16 10, latchBar := 0, latchDev := 0 })
    ∧ (bytes ≠ 4 → exec (.eloRead bar bytes) s = .next s)
    ∧ (up → exec (.eloRead true 4) s = .next { s with pow := { p with latchBar := e } }
      ∧ exec (.eloRead false 4) s = .next { s with pow := { p with latchDev := e } })

/-- R428, R443, R447, R448, R462, R336, R337: what a write of eight bytes to a device register leaves, and who may write
it; the reserved bits of CFG stay zero (R7). R37: in the recovery state BAR 0 alone writes, and only the registers of
that state, and the low bits of a window's base are dropped (log entry 30). R429: unmasking vector 0 signals what pends. -/
def Obligations.DeviceWrites : Prop :=
  ∀ (s : State) (src : RegSrc) (off i : Nat) (v : Word),
    let w (o : Nat) (x : State) : Prop := exec (.registerWrite src o 8 v) s = .next x
    let up := s.boot ≠ .recovery
    let lg := v.toNat % 16
    let hw := Tab.getD s.windows i (0, 0)
    let r := v.toNat % 1024
    let used := s.codecUsed i
    let c := Tab.getD s.codec i {}
    let at_ := 0x2000000 + 64 * i
    (up → w 0x1000 (if v.toNat % 4096 = 0 ∧ ringRegion v.toNat then { s with sys := { s.sys with base := v } } else s))
    ∧ (up → w 0x1008 (if 6 ≤ lg ∧ lg ≤ 12 then { s with sys := { s.sys with log := lg } } else s))
    ∧ (up → w 0x1010 { s with sys := { s.sys with kick := if s.sys.kick.toNat < v.toNat then v else s.sys.kick } })
    ∧ (up → i < 16 → s.winLock = false ∨ src = .bar →
      w (0x4000 + 16 * i) { s with windows := Tab.put s.windows i (v &&& ~~~0xFFF#64, hw.2) }
      ∧ w (0x4008 + 16 * i) { s with windows := Tab.put s.windows i (hw.1, v &&& ~~~0xFFC#64) })
    ∧ (up → i < 32 → s.winLock = true → src ≠ .bar → w (0x4000 + 8 * i) s)
    ∧ (up → src ≠ .bar → w 0x4108 s)
    ∧ (up → src = .bar → ∃ x, w 0x4108 x ∧ x.portMask = v ∧ ∀ h e, e ∈ (x.ctx h).pins ↔
        e ∈ (s.ctx h).pins ∧ v.getLsbD e.2.2 = false)
    ∧ (up → src ≠ .firmware → (∀ e, e ∈ s.ports → e.2.st = .down) → w 0x4110 { s with pkgid := v &&& 0xFFFF00000001FFFF#64 })
    ∧ (up → (src = .firmware ∨ ∃ e, e ∈ s.ports ∧ e.2.st ≠ .down) → w 0x4110 s)
    ∧ (up → i < 64 → w (0x4400 + 8 * i) (if r = 0 ∨ 896 < r ∨ (src = .firmware ∧ (s.port i).rate < r) then s
        else s.putPort i { s.port i with rate := r }))
    ∧ (up → i < 64 → w (0x4800 + 8 * i) (if src = .firmware then s else { s with epbase := Tab.put s.epbase i v }))
    ∧ (up → src ≠ .firmware → (∀ o, o ∈ [0x3810, 0x3818, 0x3890, 0x38A8, 0x3868] → w o s))
    ∧ (up → src = .firmware → w 0x3890 { s with pow := { s.pow with lmax := v.setWidth 32 } }
      ∧ (i < 5 → w (0x3868 + 8 * i) { s with pow := { s.pow with lvbud := s.pow.lvbud.set i (v.setWidth 32) } }))
    ∧ (up → i < 65536 → src = .firmware → w at_ s)
    ∧ (up → i < 65536 → src ≠ .firmware →
      (used = false → w at_ { s with codec := Tab.put s.codec i { c with cfg := v &&& 0xFFFF0FFFFFF000F1#64 } }
        ∧ w (at_ + 8) { s with codec := Tab.put s.codec i { c with dbase := v } }
        ∧ w (at_ + 0x10) { s with codec := Tab.put s.codec i { c with nfr := v } }
        ∧ w (at_ + 0x18) { s with codec := Tab.put s.codec i { c with estore := v } })
      ∧ w (at_ + 0x20) { s with codec := Tab.put s.codec i { c with acc := v } })
    ∧ (up → off < 0x1000 → w off s)
    ∧ (s.boot = .recovery → src ≠ .bar → w off s)
    ∧ (s.boot = .recovery → src = .bar → w 8 { s with recov := { s.recov with floff := v &&& ~~~0xFFF#64 } })
    ∧ exec .outboundLock s = .next (if s.boot = .recovery then s else { s with winLock := true })
    ∧ (∃ u, exec .msixUnmask s = .next u ∧ u.sys = { s.sys with msixMask := false, msixPend := false }
      ∧ u.sent = (if s.sys.msixPend ∧ s.sys.msixOn then s.sent ++ [.msix] else s.sent)
      ∧ u = { s with sys := u.sys, sent := u.sent })

/-- R444, R36, R37, R39, R449: a cold reset keeps module flash, host memory (log entry 38) and the images, and sets all
else to its reset value; a record that does not verify leads to recovery with its reason and offset, a module without a
verified image stays cold, on any other firmware runs, limited by its record, with its ports still to train (log 5).
R37: the flash commands of recovery. -/
def Obligations.ColdReset : Prop :=
  ∀ (s : State) (err : Bool) (reason offset : Nat),
    let r := s.record
    let puf := Config.pufOk s.draws
    let good := s.fw.runs s.fw.active
    let kept (u : State) : Prop :=
      u.flash = s.flash ∧ u.mem = s.mem.filter (fun c => 8 ≤ regionOf c.1) ∧ u.thrs = [] ∧ u.ctxs = [] ∧ u.engs = []
      ∧ u.lanes = [] ∧ u.tlb = [] ∧ u.gtc = 0 ∧ u.sys = {} ∧ u.pow = {} ∧ u.windows = [] ∧ u.winLock = false
      ∧ u.fw.active = s.fw.active ∧ u.fw.images = s.fw.images ∧ u.fw.good = s.fw.good ∧ u.fw.trial = false
    let idle := s.recov.busy = 0
    let rec_ := s.boot = .recovery
    let x := s.recov
    (puf = false → ∃ u, exec .coldReset s = .next u ∧ kept u ∧ u.boot = .recovery
      ∧ u.recov = { rstat := Word.of (0xFFFF * 2 ^ 16 + 4) })
    ∧ (puf = true → recordDefect r = some (reason, offset) → ∃ u, exec .coldReset s = .next u ∧ kept u
      ∧ u.boot = .recovery ∧ u.recov = { rstat := Word.of (offset * 2 ^ 16 + reason) })
    ∧ (puf = true → recordDefect r = none → good = false → ∃ u, exec .coldReset s = .next u ∧ kept u
      ∧ u.boot = .cold ∧ u.limits = parseLimits r)
    ∧ (puf = true → recordDefect r = none → good = true → ∃ u, exec .coldReset s = .next u ∧ kept u
      ∧ u.boot = .training ∧ u.limits = parseLimits r ∧ ∀ p, (u.port p).st = .down)
    ∧ (¬ rec_ ∨ ¬ idle → exec .flashErase s = .next s ∧ exec .flashProgram s = .next s)
    ∧ (rec_ → idle →
      exec .flashErase s = .next { s with
        recov := { x with busy := 1, err := false, sector := x.floff.toNat, data := x.window } }
      ∧ exec .flashProgram s = .next { s with
        recov := { x with busy := 2, err := false, sector := x.floff.toNat, data := x.window } })
    ∧ (¬ rec_ ∨ idle → exec (.flashDone err) s = .next s)
    ∧ (rec_ → ¬ idle → ∃ u, exec (.flashDone err) s = .next u ∧ u.recov = { x with busy := 0, err := err }
      ∧ (x.busy = 2 → err = false → Memory.wf s.flash = true → ∀ j, j < 4096 →
        Memory.read u.flash (x.sector + j) = Memory.read x.data j)
      ∧ (Memory.wf s.flash = true → ∀ a, a < x.sector ∨ x.sector + 4096 ≤ a →
        Memory.read u.flash a = Memory.read s.flash a)
      ∧ u = { s with flash := u.flash, recov := u.recov, draws := u.draws })

/-- R454, R456: `sigst` sends its data and addend behind the thread's earlier accesses and switches the thread out until
its acknowledgement, which retires it or traps with the returned cause. R453, R455: a message that reaches its peer is
refused with 0x0301 or 0x0302, or performed there: a signal-store writes its data and then adds to its counter, which
ends at its greatest value; a write lands, a read answers the bytes, an integer reduction adds. Its answer goes to its
sender. The signal-store is charged its data and 8 bytes (log 29). -/
def Obligations.VetarMessages : Prop :=
  ∀ (s t u : State) (rs1 rs2 : Reg) (r : List Byte) (ep : Nat) (e : Endpoint) (dva cva n eng k : Nat) (m : Msg)
    (cause c : BitVec 16) (data tail : List Byte) (a : BitVec 16 × List Byte) (bs : List Nat) (v : Word) (w o pa : Nat)
    (ps : List (Nat × Word)) (x y : State),
    let h := s.me
    let i := Instr.sigst rs1 rs2
    let d := (h.reg rs1).toNat
    let len := field r 8 1
    let got := d % 64 = 0 ∧ s.hostRecord d 128 = .ok r t ∧ t.me = h
    let fine := len ≤ 64 ∧ zeroBytes r 9 0x40 = true
    let leads := t.sigTarget t.myCtx (h.reg rs2) = some (ep, e, dva, cva)
    let cost := t.cost [4] (len + 8)
    let bytes := ((r.drop 0x40).take len).map BitVec.toNat
    let kind := MsgKind.signal bytes (fieldW r 0)
    let sig := m.kind.isSignal = true
    let takes := (s.ctx m.rctx).st.accepts = true
      ∧ ∃ x, x ∈ (s.ctx m.rctx).eps ∧ x.2.valid = true ∧ x.2.pkgid = m.src ∧ x.2.rctx = m.sctx
    let clear (t : State) (ps : List (Nat × Word)) : Prop := t.banks = [] ∧ t.Inv ∧ (ps.map Prod.fst).Nodup
      ∧ ∀ p, p ∈ ps → regionOf p.1 ≠ 3 ∧ t.plain p.1 1
    let wrote (t : State) (ps : List (Nat × Word)) (bs : List Nat) : Prop :=
      ∀ p, p ∈ ps.zip bs → Memory.read t.mem p.1.1 = BitVec.ofNat 8 p.2
    let j := if m.kind.isSignal then Instr.signalStoreArrival n else .windowAccess n
    (d % 64 ≠ 0 → exec i s = .next (s.trap 0x0511#16 (h.reg rs1)))
    ∧ (got → fine → t.sigTarget t.myCtx (h.reg rs2) = none → exec i s = .next (t.trap 0x0302#16 (h.reg rs2)))
    ∧ (got → fine → leads → t.spend t.myClu cost (.thread t.cur.thr) = none →
      HostTo i s (t.refuse t.myClu cost (.thread t.cur.thr)) { h with st := ThrSt.budget })
    ∧ (got → fine → leads → t.spend t.myClu cost (.thread t.cur.thr) = some u → (∃ p, u.flushMine.route t.myCtx e = some p) →
      ∃ v x, exec i s = .next v ∧ v.me.st = ThrSt.sigst ∧ v.me.msg = u.flushMine.msgIds ∧ v.me.x = h.x ∧ v.me.pc = h.pc
        ∧ v.msgs = u.flushMine.msgs ++ [x] ∧ x.kind = kind ∧ x.dst = e.pkgid ∧ x.va = dva ∧ x.ctr = cva
        ∧ x.sender = .thread s.cur.thr ∧ x.id = u.flushMine.msgIds ∧ x.answer = none)
    ∧ (s.msgs[n]? = none → exec (.signalStoreArrival n) s = .next s ∧ exec (.windowAccess n) s = .next s)
    ∧ (s.msgs[n]? = some m → (sig → exec (.windowAccess n) s = .next s)
      ∧ (¬ sig → exec (.signalStoreArrival n) s = .next s)
      ∧ (s.mayArrive n m = false → exec j s = .next s)
      ∧ (s.mayArrive n m = true → m.dst = s.pkgid →
        exec j s = .next ((s.performMsg m).2.answerMsg m (s.performMsg m).1)))
    ∧ ((s.ctx m.rctx).st.accepts = false → s.performMsg m = ((0x0301#16, []), s))
    ∧ ((s.ctx m.rctx).st.accepts = true → (∀ x, x ∈ (s.ctx m.rctx).eps → x.2.valid = true →
      ¬ (x.2.pkgid = m.src ∧ x.2.rctx = m.sctx)) → s.performMsg m = ((0x0302#16, []), s))
    ∧ (takes → m.kind = .signal bs v → s.peerPas m.rctx .write m.fmt m.va bs.length = .ok (ps, x) →
      x.counterPlace m.rctx 0 m.ctr = .ok pa y → clear y ps → y.plain pa 8 → (∀ p, p ∈ ps → p.1 < pa ∨ pa + 8 ≤ p.1) →
      ∃ z, s.performMsg m = ((0, []), z) ∧ wrote z ps bs ∧ z.peek pa 8 = min (y.peek pa 8 + v.toNat) (2 ^ 64 - 1)
        ∧ ∀ b, (∀ p, p ∈ ps → p.1 ≠ b) → b < pa ∨ pa + 8 ≤ b → Memory.read z.mem b = Memory.read y.mem b)
    ∧ (takes → m.kind = .write bs (bs.map fun _ => 255) → s.peerPas m.rctx .write m.fmt m.va bs.length = .ok (ps, x) →
      clear x ps → ∃ z, s.performMsg m = ((0, []), z) ∧ wrote z ps bs
        ∧ ∀ b, (∀ p, p ∈ ps → p.1 ≠ b) → Memory.read z.mem b = Memory.read x.mem b)
    ∧ (takes → m.kind = .read o none → s.peerPas m.rctx .read m.fmt m.va o = .ok (ps, x) → clear x ps →
      x.peerFormat m.rctx (((ps.head?).map Prod.snd).getD 0) none = .ok tail →
      s.performMsg m = ((0, ps.map (fun p => Memory.read x.mem p.1) ++ tail), x))
    ∧ (takes → m.kind = .redu o w → s.peerPas m.rctx .write m.fmt m.va o = .ok (ps, x) → (ps.head?).map Prod.fst = some pa →
      cachedPol (((ps.head?).map Prod.snd).getD 0) = true → regionOf pa = 0 → x.banks = [] → x.plain pa o → x.Inv →
      (let f := x.pageFmt m.rctx (((ps.head?).map Prod.snd).getD 0)
       f.codec = false ∧ f.efmt = 0) →
      ∃ z, s.performMsg m = ((0, []), z) ∧ z.peek pa o = (x.peek pa o + w) % 2 ^ (8 * o)
        ∧ ∀ b, b < pa ∨ pa + o ≤ b → Memory.read z.mem b = Memory.read x.mem b)
    ∧ (takes → m.kind = .add v → s.counterPlace m.rctx 0 m.va = .ok pa x → x.banks = [] → x.plain pa 8 → x.Inv →
      ∃ z, s.performMsg m = ((0, []), z) ∧ z.peek pa 8 = min (x.peek pa 8 + v.toNat) (2 ^ 64 - 1)
        ∧ ∀ b, b < pa ∨ pa + 8 ≤ b → Memory.read z.mem b = Memory.read x.mem b)
    ∧ (m.src ≠ s.pkgid → (s.answerMsg m a).sent = s.sent ++ [.answer m.src m.sctx m.local_ a.1 a.2]
      ∧ ∀ x, x ∈ (s.answerMsg m a).msgs ↔ x ∈ s.msgs ∧ (x.id ≠ m.id ∨ x.src ≠ m.src))
    ∧ (s.msgs.find? (fun x => x.sender = .thread k && x.src = s.pkgid && x.id = (s.thr k).msg) = none →
      exec (.sigstAck k cause) s = .next s)
    ∧ (s.msgs.find? (fun x => x.sender = .thread k && x.src = s.pkgid && x.id = (s.thr k).msg) = some m →
      s.outcome m cause [] = some (c, data) → (s.thr k).st = .sigst →
      (c = 0 → ∃ v, exec (.sigstAck k cause) s = .next v
        ∧ v.thr k = { s.thr k with st := .ready, pc := (s.thr k).pc + 4 } ∧ v.msgs = (s.dropMsg m).msgs)
      ∧ (c ≠ 0 → exec (.sigstAck k cause) s
          = .next ((s.dropMsg m).modThr k (fun y => { y with st := .ready }) |>.trapThr k c (Word.of m.local_))))
    ∧ (s.msgs.find? (fun x => x.sender = .engine eng && x.src = s.pkgid && (s.outcome x cause data).isSome) = none →
      exec (.windowResponse eng cause data) s = .next s)
    ∧ (s.msgs.find? (fun x => x.sender = .engine eng && x.src = s.pkgid && (s.outcome x cause data).isSome) = some m →
      s.outcome m cause data = some a → (s.eng eng).own = some m.sctx → m.local_ % 2 ^ 16 = (s.eng eng).serial →
      (a.1 = 0 → ∃ v, exec (.windowResponse eng cause data) s = .next v ∧ v.msgs = (s.dropMsg m).msgs
        ∧ v.eng eng = { s.eng eng with replies := Tab.put (s.eng eng).replies (m.local_ / 2 ^ 16) a.2 })
      ∧ (a.1 ≠ 0 → (s.eng eng).st ≠ .faulted → (s.eng eng).st ≠ .done →
        exec (.windowResponse eng cause data) s
          = .next ((s.dropMsg m).abortEngine m.sctx eng ((s.dropMsg m).localVa m / 4096) a.1 ((s.dropMsg m).localVa m))))

/-- R448, R449, R445, R459: the states of a port: RST trains it on its enabled lanes; training ends UP,
DEGRADED, or, after 20 ms, FAILED; a lost lane sheds, RETRAIN counting it as it does a widening (log entry 36),
and a shedding port resends within 2 µs or fails, its messages lost with 0x0801; firmware widens a DEGRADED
port. R444: the ports train once firmware runs after a cold reset, and the module is ready when none trains.
R461: a host agent writes device or host memory and fires the watches on its lines; a read finds every posted
operation performed; a snoop takes a line from every L1; the host sets the MSI-X enable and mask. -/
def Obligations.PortStates : Prop :=
  (∀ (s : State) (p : Nat) (lanes : BitVec 2) (l : Bool),
    let x := s.port p
    let g := s.gtc.toNat
    let live := lanes &&& s.laneMask p
    let gone : BitVec 2 := if l then 2#2 else 1#2
    let n := if x.retrain = BitVec.allOnes 16 then x.retrain else x.retrain + 1
    let stay (i : Instr) : Prop := exec i s = .next s
    let goes (i : Instr) (y : Port) : Prop := exec i s = .next (s.putPort p y)
    let fails (i : Instr) : Prop := ∃ u, exec i s = .next u ∧ (u.port p).st = .failed ∧ (u.port p).lanes = 0
      ∧ (∀ q, q ≠ p → u.port q = s.port q)
      ∧ (∀ m, m ∈ u.msgs → m.port = p → m.src = s.pkgid → m.answer = some (0x0801#16, []) ∧ m.sender ≠ .spe)
      ∧ ∀ h c, c ∈ (u.ctx h).pins → c.2.2 ≠ p
    let resent (i : Instr) (y : Port) : Prop := ∃ u, exec i s = .next u
      ∧ u.port p = { y with replay := (u.port p).replay } ∧ x.replay.toNat ≤ (u.port p).replay.toNat
      ∧ u = { s with ports := u.ports, draws := s.draws + 1 } ∧ ∀ q, q ≠ p → u.port q = s.port q
    let start : Port := { x with st := .training, lanes := 0, since := g, widen := false }
    let up := s.boot ≠ .recovery
    let settled (t : State) : State :=
      if t.boot = .training ∧ ∀ e, e ∈ t.ports → e.2.st ≠ .training then { t with boot := .ready } else t
    let ends (i : Instr) (y : Port) : Prop := exec i s = .next (settled (s.putPort p y))
    ((s.boot ≠ .training ∨ ∃ e, e ∈ s.ports ∧ e.2.st ≠ .down) → s.trainPorts = s)
    ∧ (s.boot = .training → (∀ e, e ∈ s.ports → e.2.st = .down) → ∃ t : State, s.trainPorts = settled t
      ∧ t = { s with ports := t.ports } ∧ ∀ q, q < 64 → t.port q = if s.laneMask q = 0#2 then s.port q
        else { s.port q with st := .training, lanes := 0, since := g, widen := false })
    ∧ (64 ≤ p ∨ (x.st ≠ .down ∧ x.st ≠ .failed) ∨ s.laneMask p = 0#2 ∨ ¬ up → stay (.portRst p))
    ∧ (up → p < 64 → x.st = .down ∨ x.st = .failed → s.laneMask p ≠ 0#2 → goes (.portRst p) start)
    ∧ (x.st ≠ .training → stay (.trainingComplete p lanes) ∧ stay (.trainingTimeout p))
    ∧ (x.st = .training → live ≠ 0#2 → g ≤ x.since + 20000000 → ends (.trainingComplete p lanes)
        { x with st := if live = 3#2 then .up else .degraded, lanes := live })
    ∧ (x.st = .training → x.since + 20000000 ≤ g → ends (.trainingTimeout p) { x with st := .failed, lanes := 0 })
    ∧ (x.st = .training → g < x.since + 20000000 → stay (.trainingTimeout p))
    ∧ (x.st = .up → goes (.laneLost p l)
        { x with st := .shedding, lanes := x.lanes &&& ~~~gone, since := g, widen := false, retrain := n })
    ∧ (x.st = .degraded → x.lanes &&& gone ≠ 0#2 → fails (.laneLost p l))
    ∧ (x.st ≠ .up → (x.st = .degraded → x.lanes &&& gone = 0#2) → stay (.laneLost p l))
    ∧ (x.st = .shedding → g ≤ x.since + 2000 → x.widen = false → resent (.shedRetrainDone p) { x with st := .degraded })
    ∧ (x.st = .shedding → g ≤ x.since + 2000 → x.widen = true → s.laneMask p = 3#2 →
      resent (.shedRetrainDone p) { x with st := .up, lanes := 3#2, widen := false })
    ∧ (x.st ≠ .shedding ∨ x.since + 2000 < g → stay (.shedRetrainDone p))
    ∧ (x.st = .shedding → fails (.shedTimeout p)) ∧ (x.st ≠ .shedding → stay (.shedTimeout p) )
    ∧ (up → x.st = .degraded → goes (.portWiden p)
        { x with st := .shedding, lanes := x.lanes, since := g, widen := true, retrain := n })
    ∧ (x.st ≠ .degraded ∨ ¬ up → stay (.portWiden p))
    ∧ (x.usable = true → resent (.flitRefused p) x) ∧ (x.usable = false → stay (.flitRefused p)))
  ∧ (∀ (s : State) (pa : Nat) (bytes : List Byte) (len : Nat) (enable mask : Bool),
    let n := bytes.length
    let w := Instr.hostLinkAgentAccess (.write pa bytes)
    let m := Instr.hostLinkAgentAccess (.msix enable mask)
    let free (x : Nat) (y : Nat) : Prop := x + 64 ≤ pa ∨ pa + y ≤ x
    (s.hostReaches pa n = false → exec w s = .next s)
    ∧ (s.hostReaches pa n = true → s.Inv → s.plain pa n → 0 < n → ∃ u, exec w s = .next u
      ∧ (∀ i, i < n → Memory.read u.mem (pa + i) = nth bytes i 0)
      ∧ (∀ a, a < pa ∨ pa + n ≤ a → Memory.read u.mem a = Memory.read s.mem a)
      ∧ (∀ k l, l ∈ (u.clu k).lines ↔ l ∈ (s.clu k).lines ∧ free (64 * l) n)
      ∧ (∀ k, (s.thr k).st = .mwait → (s.thr k).watch.pa / 128 * 128 < pa + n → pa < (s.thr k).watch.pa / 128 * 128 + 128 →
        u.thr k = { s.thr k with st := .ready }))
    ∧ (∃ u, exec (.hostLinkAgentAccess (.read pa len)) s = .next u ∧ (∀ b, b ∈ u.banks → b.touches pa len = false)
      ∧ (s.banks = [] → u = s))
    ∧ (∃ u, exec (.hostLinkAgentAccess (.snoop pa)) s = .next u ∧ u = { s with clus := u.clus }
      ∧ ∀ k l, l ∈ (u.clu k).lines ↔ l ∈ (s.clu k).lines ∧ l ≠ pa / 64)
    ∧ (∃ u, exec m s = .next u ∧ u.sys.msixOn = enable ∧ u.sys.msixMask = mask
      ∧ u.sent = (if enable ∧ !mask ∧ s.sys.msixPend then s.sent ++ [.msix] else s.sent)
      ∧ u.sys.msixPend = (s.sys.msixPend && !(enable && !mask)) ∧ u = { s with sys := u.sys, sent := u.sent }))

/-- R496, R497: `lstart` starts a checked job on a free lane of the context and answers its handle; `lstat`
answers the status word of a current handle, and a FAILED lane is idle behind it. R488: what each action of a
table entry does. R488 to R492: a lane loads its class map and its table in pieces of at most 64 bytes, then its
accept bitmap, and checks them; each sub-stream in turn then takes a chunk or runs one step. A step puts its
bytes into the chunk's slot, as far as OSLOT allows: bytes beyond it fail the chunk behind those written. END
and an exhausted input finish the chunk: its state must accept, the bytes of TAILA and TAILC follow, and its
length is written. A failing chunk ends the job behind the eighth sub-stream; a group abort ends it once no
chunk is in hand, and its failure is settled while its context runs; once every chunk is complete the job
publishes, adds to its counter, writes its status record and is DONE. -/
def Obligations.LaneSteps : Prop :=
  (∀ (s t : State) (rd rs1 rs2 : Reg) (o l : Nat) (j : Job) (x : SubStream) (ns arg b : Nat),
    let h := s.me
    let n := (h.reg rs1).toNat
    let a := (h.reg rs2).toNat
    let i := Instr.lstart rd rs1 rs2
    let jr := s.readJob s.myCtx s.myClu a (some s.cur.thr)
    let y := s.lane l
    let bad := y.st = .failed
    let word := y.st.code * 2 ^ 60 + (if bad then y.cause.toNat else 0) * 2 ^ 44
      + (if bad then y.fail else 0) % 2 ^ 22 * 2 ^ 22 + y.k % 2 ^ 22
    let e (act : Nat) : Nat := ns * 2 ^ 22 + act * 2 ^ 16 + arg
    let on : SubStream := { x with pos := x.pos + 1, h := 0, s := ns }
    let acc := x.a * BitVec.ofNat 32 (arg % 256) + BitVec.ofNat 32 b - BitVec.ofNat 32 (arg / 256)
    (s.pow.hold = true → exec i s = .next s)
    ∧ (s.pow.hold = false → jr = .ok (.error o) t → t.me = h → HostTo i s t (h.moved rd (jobError o) 4))
    ∧ (s.pow.hold = false → jr = .ok (.ok j) t → t.me = h → t.laneFree t.myCtx n = false →
      HostTo i s t (h.moved rd (jobError 0xFFFF) 4))
    ∧ (s.pow.hold = false → jr = .ok (.ok j) t → t.me = h → t.laneFree t.myCtx n = true →
      ∃ u, exec i s = .next u ∧ u.me = h.moved rd (u.laneHandle n) 4 ∧ (u.lane n).st = .running ∧ (u.lane n).job = j
        ∧ (u.lane n).own = some t.myCtx ∧ (u.lane n).serial = ((t.lane n).serial + 1) % 2 ^ 16 ∧ (u.lane n).lens = []
        ∧ ∀ k, k ≠ n → u.lane k = t.lane k)
    ∧ (s.laneOf? (h.reg rs1) = none → HostTo (.lstat rd rs1) s s (h.moved rd (BitVec.allOnes 64) 4))
    ∧ (s.laneOf? (h.reg rs1) = some l → ∃ u, exec (.lstat rd rs1) s = .next u ∧ u.me = h.moved rd (Word.of word) 4
      ∧ u.lane l = (if bad then { own := y.own, serial := y.serial, st := .idle } else y)
      ∧ ∀ k, k ≠ l → u.lane k = s.lane k)
    ∧ (arg < 2 ^ 16 → laneAction x (e 0) b = { sub := on } ∧ laneAction x (e 1) b = { sub := on, out := [b] }
      ∧ laneAction x (e 2) b = { sub := on, out := [arg % 256] }
      ∧ laneAction x (e 3) b = { sub := on, out := [arg % 256, arg / 256] }
      ∧ laneAction x (e 4) b = { sub := { on with a := acc } }
      ∧ laneAction x (e 5) b = { sub := { on with a := 0 }, out := bytesOf x.a.toNat 4 }
      ∧ laneAction x (e 6) b = { sub := { on with a := 0 } } ∧ laneAction x (e 7) b = { sub := { on with c := x.c + 1 } }
      ∧ laneAction x (e 8) b = { sub := { x with h := x.h + 1, s := ns }, bad := 8 ≤ x.h }
      ∧ (laneAction x (e 9) b).bad = true ∧ laneAction x (e 10) b = { sub := { x with s := ns }, ends := true }
      ∧ ∀ act, 10 < act → act < 64 → (laneAction x (e act) b).bad = true))
  ∧ (∀ (s t w z : State) (ctx c b o pa ad : Nat) (ca : BitVec 16) (tb : List Nat) (v : Word) (st : LaneStep)
    (ps : List (Nat × Word)),
    let l := s.cur.lane
    let x := s.lane l
    let j := x.job
    let u := nth x.subs x.next {}
    let q := c * 2 ^ j.clog
    let size := min ((c + 1) * 2 ^ j.clog) j.inlen - q
    let i := Instr.laneByteStep
    let runs := x.own = some ctx ∧ x.st = .running ∧ (s.ctx ctx).st = .running ∧ x.halted = false
      ∧ x.bound ≠ some .failed
    let first := x.failing.isSome = true ∧ x.next = 0
    let loads := runs ∧ ¬ first ∧ x.complete = false ∧ x.loaded = false ∧ s.laneStalled ctx l x.stall = false
    let words := j.nstate * j.nclass - x.table.length
    let whole := 256 ≤ x.cmap.length ∧ words = 0
    let steps := runs ∧ ¬ first ∧ x.complete = false ∧ x.loaded = true
    let step := laneAction u (nth x.table (u.s * j.nclass + nth x.cmap b 0) 0) b
    let busy := u.chunk = some c ∧ s.laneStalled ctx l u.stall = false
    let ends (y : Lane) : Lane := let z := { y with next := (x.next + 1) % 8 }; if x.next = 7 then z.cycleEnd else z
    let works := steps ∧ busy ∧ ((u.pos < size ∧ s.laneRead ctx l (j.inptr + q + u.pos) 1 = .ok [b] t ∧ t.lane l = x ∧ st = step)
      ∨ (size ≤ u.pos ∧ t = s ∧ st = { sub := u, ends := true }))
    let fine := st.bad = false ∧ (st.ends = true → j.accpt = 0 ∨ x.accept.testBit st.sub.s = true)
    let tail := (if j.taila then bytesOf st.sub.a.toNat 4 else []) ++ (if j.tailc then bytesOf st.sub.c.toNat 4 else [])
    let out := st.out ++ (if st.ends then tail else [])
    let n := u.n + out.length
    let slot := j.la + c * j.oslot + u.n
    let stops (y : State) (cause : BitVec 16) (a : Nat) : Prop := exec i s = .next (y.putLane l (ends (x.failChunk c cause a)))
    let loaded (y : State) (acc : Nat) : Prop :=
      (loadDefect j x.cmap x.table = none →
        exec i s = .next (y.putLane l { x with loaded := true, accept := acc, stall := none }))
      ∧ (loadDefect j x.cmap x.table = some v → exec i s = .next (y.putLane l (x.failJob 0x0B01#16 0 v)))
    let clear (y : State) : Prop := y.banks = [] ∧ y.Inv ∧ (ps.map Prod.fst).Nodup ∧ ∀ p, p ∈ ps → y.plain p.1 1
    let wrote (y : State) (bs : List Nat) : Prop := ∀ p, p ∈ ps.zip bs → Memory.read y.mem p.1.1 = BitVec.ofNat 8 p.2
    let rec_ := List.replicate 12 0 ++ bytesOf x.k 4 ++ List.replicate 8 0 ++ bytesOf x.lens.length 8
      ++ bytesOf (x.lens.foldl (fun n e => n + e.2) 0) 8 ++ List.replicate 24 0
    let pub := (s.drainBanks fun b => b.src = srcOf ctx (2049 + l)).publish ctx j.outbuf
    let one := pub.putLane l { x with stage := 1 }
    let bound (y : State) : State := y.putLane l { x with stage := 2, bound := some .done }
    let fin := runs ∧ x.complete = true ∧ x.failing = none ∧ x.bound = none ∧ x.stage = 0 ∧ x.stall = none ∧ pub.lane l = x
    (x.own = none → exec i s = .next s ∧ exec .laneCommit s = .next s)
    ∧ (x.own = some ctx → x.bound = some .failed →
      exec i s = .next (if (s.ctx ctx).st = .running then s.settleLane ctx l else s))
    ∧ (x.own = some ctx → x.bound ≠ some .failed → x.halted = true → (x.st = .running ∨ x.st = .stopped) →
      (∀ v, v ∈ x.subs → v.chunk = none) → ∃ y, exec i s = .next y ∧ (y.lane l).bound = some .failed ∧ (y.lane l).cause = 0x0704#16
        ∧ (y.lane l).fail = x.k ∧ (y.lane l).halted = false ∧ (y.lane l).lens = x.lens)
    ∧ (runs → x.complete = false → first → exec i s = .next (s.putLane l x.cycleEnd))
    ∧ (x.failing = some o → x.cycleEnd.bound = some .failed ∧ x.cycleEnd.cause = 0x0B02#16 ∧ x.cycleEnd.fail = o
      ∧ x.cycleEnd.info = Word.of (o * 2 ^ 32 + x.k) ∧ x.cycleEnd.chcause = x.chcause ∧ x.cycleEnd.lens = x.lens)
    ∧ (loads → x.cmap.length < 256 → s.laneRead ctx l (j.cmap + x.cmap.length) (min 64 (256 - x.cmap.length)) = .ok tb t →
      t.lane l = x → exec i s = .next (t.putLane l { x with cmap := x.cmap ++ tb, stall := none }))
    ∧ (loads → 256 ≤ x.cmap.length → words ≠ 0 → s.laneRead ctx l (j.table + 4 * x.table.length) (4 * min 16 words) = .ok tb t →
      t.lane l = x → exec i s = .next (t.putLane l { x with table := x.table ++ tableWords tb, stall := none }))
    ∧ (loads → whole → j.accpt = 0 → loaded s 0)
    ∧ (loads → whole → j.accpt ≠ 0 → s.laneRead ctx l j.accpt 128 = .ok tb t → t.lane l = x → loaded t (ofBytes tb))
    ∧ (loadDefect j x.cmap x.table = none ↔ (∀ k, k < 256 → nth x.cmap k 0 < j.nclass)
      ∧ ∀ e, e ∈ x.table → e / 2 ^ 22 < j.nstate)
    ∧ (steps → u.chunk = none → x.failing = none → x.nextChunk = some c →
      exec i s = .next (s.putLane l (ends (x.putSub x.next { chunk := some c, s := j.s0 }))))
    ∧ (steps → u.chunk = none → (x.failing.isSome = true ∨ x.nextChunk = none) →
      exec i s = .next (s.putLane l (ends x)))
    ∧ (steps → busy → u.pos < size → s.laneRead ctx l (j.inptr + q + u.pos) 1 = .fail ca ad t → t.lane l = x → stops t ca ad)
    ∧ (works → ¬ fine → stops t 0x0B02#16 0)
    ∧ (works → fine → j.oslot < n → t.laneWrite ctx l slot (out.take (j.oslot - u.n)) = .ok () w → w.lane l = x →
      stops w 0x0B02#16 0)
    ∧ (works → fine → n ≤ j.oslot → st.ends = false → t.laneWrite ctx l slot out = .ok () w → w.lane l = x →
      exec i s = .next (w.putLane l (ends (x.putSub x.next { st.sub with n := n, stall := none }))))
    ∧ (works → fine → n ≤ j.oslot → st.ends = true → t.laneWrite ctx l slot out = .ok () w →
      w.laneWrite ctx l (4 * c) (bytesOf n 4) = .ok () z → z.lane l = x →
      exec i s = .next (z.putLane l (ends { x.putSub x.next {} with lens := Tab.put x.lens c n })))
    ∧ s.laneWrite ctx l o [] = .ok () s
    ∧ (tb ≠ [] → s.lanePlaces ctx l o tb.length = .ok ps t →
      t.laneSpend l (t.laneClasses l ((ps.head?).getD (0, 0)).1 ((ps.head?).getD (0, 0)).2) tb.length = .ok () w →
      t.failedCh = [] → clear w → ∃ y, s.laneWrite ctx l o tb = .ok () y ∧ wrote y tb
        ∧ ∀ a, (∀ p, p ∈ ps → p.1 ≠ a) → Memory.read y.mem a = Memory.read w.mem a)
    ∧ (x.complete = false → exec .laneCommit s = .next s)
    ∧ (fin → j.ctra = 0 → j.statptr = 0 → ∃ y, exec .laneCommit s = .next y ∧ (y.lane l).st = .done ∧ (y.lane l).lens = x.lens
      ∧ ∀ p, Tab.get? (s.ctx ctx).pubs j.outbuf = some p → p.valid = true →
        Tab.get? (y.ctx ctx).pubs j.outbuf = some { p with cur := !p.cur })
    ∧ (fin → j.ctra ≠ 0 → j.statptr = 0 → one.counterPlace ctx (laneClu l) j.ctra = .ok pa t →
      t.laneSpend l (t.atomClasses pa) 8 = .ok () w → w.lane l = one.lane l → w.banks = [] → w.Inv → w.plain pa 8 →
      ∃ y, exec .laneCommit s = .next y ∧ (y.lane l).st = .done
        ∧ y.peek pa 8 = min (w.peek pa 8 + j.ctrinc.toNat) (2 ^ 64 - 1)
        ∧ ∀ a, a < pa ∨ pa + 8 ≤ a → Memory.read y.mem a = Memory.read w.mem a)
    ∧ (fin → j.ctra = 0 → j.statptr ≠ 0 →
      Rd.mapM (fun s va => s.engXlate ctx (laneClu l) va .write none) ((List.range 64).map (j.statptr + ·)) (bound pub) = .ok ps t →
      t.laneSpend l (t.laneClasses l ((ps.head?).getD (0, 0)).1 ((ps.head?).getD (0, 0)).2) 64 = .ok () w →
      w.lane l = (bound pub).lane l → clear w → ∃ y, exec .laneCommit s = .next y ∧ (y.lane l).st = .done ∧ wrote y rec_
        ∧ ∀ a, (∀ p, p ∈ ps → p.1 ≠ a) → Memory.read y.mem a = Memory.read w.mem a))

/-- R115, R116, R109, R100, R3: the words of the spec's worked examples stand for the instructions that it names. -/
def Obligations.DecodedWords : Prop :=
  let op (typ pi : Nat) (mod route addr : Nat) : OpF :=
    ⟨BitVec.ofNat 4 pi, false, BitVec.ofNat 4 typ, BitVec.ofNat 9 mod, BitVec.ofNat 16 route, BitVec.ofNat 16 addr⟩
  decodeHost32 0x0005850B = .ok (.kld 10 11) ∧ decodeHost32 0x0204828B = .ok (.kfork 5 9)
  ∧ decodeHost32 0x04B5100B = .ok (.cwait 10 11) ∧ decodeHost32 0x0404A50B = .ok (.bwait 10 9)
  ∧ decodeHost32 0x0CC5A50B = .ok (.mwait .geu 10 11 12) ∧ decodeHost32 0x0000500B = .ok (.qsub 0 0 0)
  ∧ decodeHost32 0xFFF10093 = .ok (.hostInstruction (.immOp .addi 1 2 0xFFF) false)
  ∧ decodeHost32 0x00000073 = .ok (.hostInstruction .ecall false)
  ∧ decodeHost16 0x8082 = .ok (.hostInstruction (.jalr 0 1 0) true)
  ∧ decodeOp .cpe 0x161600 0x7400 0 = .ok (.outer (op 11 8 0 0x7400 0))
  ∧ decodeOp .cpe 0x0E4040 0x4705 0x0015 = .ok (.mulc (op 0 9 0x040 0x4705 0x0015))
  ∧ decodeOp .ape 0x6E5200 0x7214 0x1819 = .ok (.fma (op 9 9 0 0x7214 0x1819))
  ∧ decodeOp .ape 0xB61800 0x7100 0x0013 = .ok (.tunp (op 12 8 0 0x7100 0x0013))
  ∧ decodeOp .mpe 0x060A00 0xE004 0x0011 = .ok (.ld (op 5 8 0 0xE004 0x0011))
  ∧ decodeOp .spe 0x0A4E62 0xE100 0 = .ok (.pcmp (op 7 9 0x062 0xE100 0))
  ∧ decodeDrain 0x0C020003 = .ok (.dbias 0 0 8 0 0 false 3)

/-- R3, R4, R115, R116: a well-formed host instruction of 32 bits decodes from its word, and every word that decodes is
the word of a well-formed instruction; the same for a base instruction and its 16-bit parcel. -/
def Obligations.HostEncoding : Prop :=
  ∀ (i : Instr) (r : Rv) (w : Half) (h : Half16),
    (i.wf = true → encode i = some (.host w) → decodeHost32 w = .ok i)
    ∧ (decodeHost32 w = .ok i → i.wf = true ∧ encode i = some (.host w))
    ∧ (r.wf = true → encode (.hostInstruction r false) = some (.host (encodeRv r)))
    ∧ (i.wf = true → encode i = some (.parcel h) → decodeHost16 h = .ok i)
    ∧ (decodeHost16 h = .ok i → i.wf = true)

/-- R91 to R102: a ring position of a slot of any kind decodes to a well-formed op exactly where the op has
those ring words, every bit of which is read. R107, R109: a drain word decodes to a well-formed drain
instruction exactly where it is its word. R113, R432, R429: copy entries, queue entries and command records of
64 bytes decode to well-formed entries exactly where they are their bytes. -/
def Obligations.CodeEncoding : Prop :=
  (∀ (i : Instr) (k : PeKind) (o : BitVec 24) (r a : BitVec 16),
    (i.wf = true → encode i = some (.op k o r a) → decodeOp k o r a = .ok i)
    ∧ (decodeOp k o r a = .ok i → i.wf = true ∧ encode i = some (.op k o r a))
    ∧ (i.op? ≠ none → i.wf = true → ∃ k o r a, encode i = some (.op k o r a)))
  ∧ (∀ (i : Instr) (w : Half),
    (i.wf = true → encode i = some (.drain w) → decodeDrain w = .ok i)
    ∧ (decodeDrain w = .ok i → i.wf = true ∧ encode i = some (.drain w)))
  ∧ (∀ (i : Instr) (b : List Byte),
    (i.wf = true → (encode i = some (.copy b) → decodeCopy b = .ok i ∧ b.length = 64)
      ∧ (encode i = some (.queue b) → decodeQueue b = .ok i ∧ b.length = 64)
      ∧ (encode i = some (.command b) → decodeCommand b = .ok i ∧ b.length = 64))
    ∧ (b.length = 64 → (decodeCopy b = .ok i → i.wf = true ∧ encode i = some (.copy b))
      ∧ (decodeQueue b = .ok i → i.wf = true ∧ encode i = some (.queue b))
      ∧ (decodeCommand b = .ok i → i.wf = true ∧ encode i = some (.command b))))

/-- R92: an op whose predicate does not hold in its sense does nothing, whatever its kind: no effect, no landing and no
charge. -/
def Obligations.PredicatedOff : Prop :=
  ∀ (i : Instr) (s : State) (kind : PeKind) (opc : Nat) (f : OpF) (e : OpEnv),
    i.op? = some (kind, opc, f) → s.opEnv f = some e → e.k.run.predicate e.core f.pi.toNat = f.ps →
    exec i s = .next s

/-- 00 R3, 16 R403: no host instruction changes the registers, the program counter or the trap registers of another
thread; but a `kstop` that releases a kernel ends the waits on its barriers (15 R398): a waiter takes its trap, and
keeps its registers all the same. -/
def Obligations.HostIsolation : Prop :=
  ∀ (i : Instr) (s t : State) (n : Nat),
    ((∃ w, encode i = some (.host w)) ∨ ∃ h, encode i = some (.parcel h)) → exec i s = .next t → n ≠ s.cur.thr →
    let x := t.thr n
    let y := s.thr n
    (x.x = y.x ∧ x.f = y.f ∧ x.fcsr = y.fcsr ∧ x.ctx = y.ctx ∧ x.htvec = y.htvec ∧ x.kctl = y.kctl ∧ x.scsel = y.scsel
      ∧ x.lease = y.lease)
    ∧ ((∀ rs kh e, i = .kstop rs → e ∈ s.thrs → e.1 = n → e.2.bwaits s.myCtx kh = false) →
      x.pc = y.pc ∧ x.hcause = y.hcause ∧ x.hepc = y.hepc ∧ x.htval = y.htval)

/-- Step runs the decoded instruction (model: log entry 1): the agent that moves next is the head of the schedule; a
host thread whose turn it is on its core (log entry 78) takes the turn and executes what its fetch decodes, unless a
cause has arrived; the command interface executes the next record of its ring; a queue, a domain, an engine and a lane
act by their next instruction; an event acts at its place; the clock does not pass the start of a timetable's unit nor
the end of a trial, and the ports train as it goes on behind a cold reset; what firmware does of its own accord and
errors in stores act between (log entries 69 and 70). An agent that does not exist is a fault (log entry 55), GTC
advances by the clock alone (log entry 56), and a start comes before its clock (log entry 26). -/
def Obligations.StepRuns : Prop :=
  ∀ (s t u : State) (i : Instr) (n ctx kh q l m : Nat) (f : Focus) (rest : List Agent) (lo hi : Half16) (k : Kernel)
    (x : Site) (sites : List Site) (p : Nat × CopyEnt) (msg : Msg) (act : FwAct) (up : Upset),
    let a : State := { s with sched := rest }
    let b : State := { a.giveTurn (cluOf n) n with cur := { a.cur with thr := n } }
    let pc := b.me.pc.toNat
    let r := a.cmdRecord
    let dom : State := { a with cur := { a.cur with ctx := ctx, kern := kh, beat := none } }
    let eng : State := { a with cur := { a.cur with eng := n } }
    let lan : State := { a with cur := { a.cur with lane := l } }
    let host := s.sched = .host n :: rest ∧ n < 128
    let runs := a.kernel? ctx kh = some k ∧ k.state = .running ∧ (a.ctx ctx).st = .running
    let site := (dom.modRun ctx kh fun y => { y with todo := sites }).atSite ctx kh k x
    (host → a.mayIssue n = false → step s = .next a)
    ∧ (host → a.mayIssue n = true → (a.thr n).inbox ≠ [] → step s = exec .asyncTrapDeliver b)
    ∧ (host → a.mayIssue n = true → (a.thr n).inbox = [] → b.fetch = .instr i t → step s = exec i t)
    ∧ (b.fetchHalf b.myCtx b.myClu pc = .ok (lo, t) → isCompressed lo = true → lo ≠ 0 → decodeHost16 lo = .ok i →
      b.fetch = .instr i t)
    ∧ (b.fetchHalf b.myCtx b.myClu pc = .ok (lo, t) → isCompressed lo = false →
      t.fetchHalf t.myCtx t.myClu (pc + 2) = .ok (hi, u) → decodeHost32 (hi ++ lo) = .ok i → b.fetch = .instr i u)
    ∧ (s.sched = .command :: rest → a.boot = .ready → a.pow.hold = false → a.sys.busy = none →
      a.sys.done.toNat < a.sys.kick.toNat →
      (a.recordReadable r = true → decodeCommand (a.ringBytes r) = .ok i → step s = exec i a)
      ∧ (a.recordReadable r = false → step s = .next (a.finish 1))
      ∧ (∀ e, decodeCommand (a.ringBytes r) = .error e → step s = .next (a.finish 1)))
    ∧ (s.sched = .queue ctx q :: rest → ctx < 64 → q < 64 → a.queueMove ctx q = some (.run i) →
      step s = exec i { a with cur := { a.cur with ctx := ctx, queue := q } })
    ∧ (s.sched = .domain ctx kh :: rest → ctx < 64 → kh < 256 → runs →
      (k.run.phase = .rotate → step s = exec .rotate dom) ∧ (k.run.phase = .check → step s = exec .domainResume dom)
      ∧ (k.run.phase = .issue → k.run.todo = [] → step s = exec .land dom)
      ∧ (k.run.phase = .issue → k.run.todo = x :: sites → siteInstr k site x = some i → step s = exec i site))
    ∧ (s.sched = .copy n :: rest → n < 128 → (a.eng n).own = some ctx → (a.ctx ctx).st = .running →
      (a.eng n).bound = none → (a.eng n).halted = false →
      ((a.eng n).st = .waiting → step s = exec .waitsSatisfied eng)
      ∧ ((a.eng n).st = .running → (a.eng n).launch.timed = false → eng.fetchEntry n = .ok p t →
        copyKind p.1 p.2 = some i → step s = exec i t))
    ∧ (s.sched = .lane l :: rest → l < 512 → (a.lane l).st = .running → (a.lane l).loaded = true →
      (a.lane l).halted = false → (a.lane l).failing = none → (a.lane l).bound = none →
      step s = exec (if (a.lane l).complete then .laneCommit else .laneByteStep) lan)
    ∧ (s.sched = .event i f :: rest → step s = if isEvent i then exec i { a with cur := f } else .next a)
    ∧ (s.sched = .clock m :: rest → step s = .next { a with gtc := Word.of (a.gtcAfter m) }.trainPorts
      ∧ (a.starts = [] → a.fw.deadline = none → a.gtcAfter m = a.gtc.toNat + m)
      ∧ a.gtc.toNat ≤ a.gtcAfter m ∧ ∀ d, d ∈ a.starts ∨ a.fw.deadline = some d → a.gtcAfter m ≤ max d a.gtc.toNat)
    ∧ (s.sched = .arrival msg :: rest → step s = .next (a.takeMsg msg))
    ∧ (s.sched = .firmware act :: rest → step s = .next (a.firmwareMove act))
    ∧ (s.sched = .upset up :: rest → step s = .next (a.upsetMove up))
    ∧ (a.mayIssue n = true ↔ a.canIssue n = true ∧ ∀ m, cluOf m = cluOf n → a.canIssue m = true →
      (n + 16 - (a.clu (cluOf n)).turn % 16) % 16 ≤ (m + 16 - (a.clu (cluOf n)).turn % 16) % 16)
    ∧ (s.sched = .host n :: rest → 128 ≤ n → step s = .fault .noSuchUnit)

/-- Memory stands in its canonical form after every step that goes on from a state in which it does (13 R354). -/
def Obligations.StepKeepsInv : Prop := ∀ s t : State, s.Inv → step s = .next t → t.Inv

/-- At reset memory stands in its canonical form. R428, R448, R443, R405, R37, R444, R467: what the spec says of
the state after reset: SCLOG 6 and no command, the ports DOWN at rate 896 with no lane, no outbound window,
every context slot EMPTY and every host thread off, every scratchpad and pool byte zero, the store SOLID. -/
def Obligations.ResetState : Prop :=
  (State.reset.Inv)
  ∧ (∀ (n a : Nat),
    let s := State.reset
    s.sys.log = 6 ∧ s.sys.base = 0 ∧ s.sys.kick = 0 ∧ s.sys.done = 0
    ∧ (s.port n).st = .down ∧ (s.port n).rate = 896 ∧ (s.port n).lanes = 0 ∧ (s.port n).replay = 0
    ∧ (s.port n).retrain = 0 ∧ s.windows = [] ∧ s.winLock = false
    ∧ (s.ctx n).st = .empty ∧ (s.ctx n).cstat = 0 ∧ (s.thr n).st = .off ∧ (s.eng n).st = .free ∧ (s.lane n).st = .free
    ∧ (regionOf a = 1 ∨ regionOf a = 2 → Memory.read s.mem a = 0) ∧ s.pow.store = .solid ∧ s.pow.hold = false
    ∧ s.fw.trial = false ∧ s.recov.rstat = 0)
end

