-- ==== Sys2Proof/Laws/Issue.lean ====
section
/-! SUPPORT. What the issue of an op does, said once: lemmas to cite instead of unfolding `issueWith`. -/
namespace Sys2Proof.Machine

/-- The environment of an op holds its own ring words. -/
theorem opEnv_f {s : State} {f : OpF} {e : OpEnv} (h : s.opEnv f = some e) : e.f = f := by
  unfold State.opEnv at h
  split at h
  · cases h
  · cases h; rfl

/-- Only ops of MPE slots wait for a word on a kind port. -/
theorem portLate_of_ne {e : OpEnv} {kind : PeKind} (opc : Nat) (h : kind ≠ .mpe) :
    e.portLate kind opc = false := by
  simp [OpEnv.portLate, h]

/-- An op whose predicate holds in its sense and that reads no word on its way issues. -/
theorem issueWith_issues {s : State} {f : OpF} {e : OpEnv} {kind : PeKind} {opc : Nat}
    (go : State → OpEnv → Issue) (h : Issues s f e) (hl : e.portLate kind opc = false) :
    issueWith kind opc f s go
      = match go s e with
        | .late s => .next (s.late e)
        | .done s x => .next (issued s e kind opc x) := by
  obtain ⟨he, hp⟩ := h
  have hf := opEnv_f he
  subst hf
  simp only [issueWith, he, hp, hl, issued]
  have hb : ((!e.f.ps) == e.f.ps) = false := by cases e.f.ps <;> rfl
  simp only [hb]
  rfl

/-- An op whose predicate does not hold in its sense does nothing (04 R92). -/
theorem issueWith_skips {s : State} {f : OpF} {e : OpEnv} {kind : PeKind} {opc : Nat}
    (go : State → OpEnv → Issue) (he : s.opEnv f = some e)
    (hp : e.k.run.predicate e.core f.pi.toNat = f.ps) : issueWith kind opc f s go = .next s := by
  simp [issueWith, he, hp]

/-- An op that is never late has its effect. -/
theorem issueOp_never {s : State} {f : OpF} {e : OpEnv} {kind : PeKind} {opc : Nat}
    (eff : State → OpEnv → Effect) (h : Issues s f e) (hl : e.portLate kind opc = false) :
    issueOp kind opc f s neverLate eff = .next (issued s e kind opc (eff s e)) := by
  simp [issueOp, issueWith_issues _ h hl, neverLate]

/-- An op whose test for lateness fails has its effect. -/
theorem issueOp_done {s : State} {f : OpF} {e : OpEnv} {kind : PeKind} {opc : Nat}
    (late : State → OpEnv → Bool) (eff : State → OpEnv → Effect) (h : Issues s f e)
    (hl : e.portLate kind opc = false) (hn : late s e = false) :
    issueOp kind opc f s late eff = .next (issued s e kind opc (eff s e)) := by
  simp [issueOp, issueWith_issues _ h hl, hn]

/-- An op whose test for lateness succeeds is late. -/
theorem issueOp_late {s : State} {f : OpF} {e : OpEnv} {kind : PeKind} {opc : Nat}
    (late : State → OpEnv → Bool) (eff : State → OpEnv → Effect) (h : Issues s f e)
    (hl : e.portLate kind opc = false) (hn : late s e = true) :
    issueOp kind opc f s late eff = .next (s.late e) := by
  simp [issueOp, issueWith_issues _ h hl, hn]

/-- A result op outside the MPE slots lands its results after its latency. -/
theorem resultOp_lands {s : State} {f : OpF} {e : OpEnv} {kind : PeKind} {opc : Nat} (g : OpEnv → PeOut)
    (extra : OpEnv → List LandAct) (h : Issues s f e) (hk : kind ≠ .mpe) :
    resultOp kind opc f s g extra
      = .next (lands s e kind opc (opLatency kind opc f) (opResults kind opc f = 2)
          (BitVec.ofNat 512 (g e).r1) (BitVec.ofNat 512 (g e).r2) (extra e)) := by
  rw [resultOp, issueOp_never _ h (portLate_of_ne opc hk)]
  have hf := opEnv_f h.1
  subst hf
  rfl

end Sys2Proof.Machine
end

