-- ==== Sys2Proof/Laws/Lanes.lean ====
section
/-! SUPPORT. Lanes of joined results: what one lane of `mapLanes` reads. -/
namespace Sys2Proof

/-- A joined list of lanes fits its width. -/
theorem joinLanes_lt (w : Nat) (xs : List Nat) : joinLanes w xs < 2 ^ (w * xs.length) := by
  induction xs with
  | nil => simp [joinLanes]
  | cons x t ih =>
    simp only [joinLanes, List.length_cons]
    have hx : x % 2 ^ w < 2 ^ w := Nat.mod_lt _ (Nat.two_pow_pos w)
    have : 2 ^ (w * (t.length + 1)) = 2 ^ w * 2 ^ (w * t.length) := by
      rw [← Nat.pow_add]; congr 1; rw [Nat.mul_succ]; omega
    rw [this]
    calc x % 2 ^ w + 2 ^ w * joinLanes w t < 2 ^ w + 2 ^ w * joinLanes w t := by omega
      _ = 2 ^ w * (joinLanes w t + 1) := by rw [Nat.mul_succ]; omega
      _ ≤ 2 ^ w * 2 ^ (w * t.length) := Nat.mul_le_mul_left _ ih

/-- One lane of a joined list. -/
theorem joinLanes_lane (w : Nat) (xs : List Nat) (i : Nat) :
    joinLanes w xs / 2 ^ (w * i) % 2 ^ w = xs.getD i 0 % 2 ^ w := by
  induction xs generalizing i with
  | nil => simp [joinLanes]
  | cons x t ih =>
    have hx : x % 2 ^ w < 2 ^ w := Nat.mod_lt _ (Nat.two_pow_pos w)
    cases i with
    | zero => simp [joinLanes]
    | succ i =>
      have h : 2 ^ (w * (i + 1)) = 2 ^ w * 2 ^ (w * i) := by
        rw [← Nat.pow_add]; congr 1; rw [Nat.mul_succ]; omega
      rw [h, ← Nat.div_div_eq_div_mul]
      have : joinLanes w (x :: t) / 2 ^ w = joinLanes w t := by
        simp only [joinLanes]
        rw [Nat.add_mul_div_left _ _ (Nat.two_pow_pos w), Nat.div_eq_of_lt hx, Nat.zero_add]
      rw [this, ih]
      simp

/-- One lane of a result given lane by lane. -/
theorem laneNat_mapLanes (ty : Nat) (g : Nat → Nat) (i : Nat) (h : i < laneCount ty) :
    laneNat ty (mapLanes ty g) i = g i % 2 ^ typeWidth ty := by
  simp only [laneNat, mapLanes]
  rw [joinLanes_lane]
  simp [List.getD, h]

/-- A result given lane by lane fits 512 bits. -/
theorem mapLanes_lt (ty : Nat) (g : Nat → Nat) : mapLanes ty g < 2 ^ 512 := by
  refine Nat.lt_of_lt_of_le (joinLanes_lt _ _) (Nat.pow_le_pow_right (by decide) ?_)
  simp only [List.length_map, List.length_range, laneCount]
  exact Nat.mul_div_le 512 _

/-- The low bits of an integer fit. -/
theorem lowBits_lt (v : Int) (n : Nat) : lowBits v n < 2 ^ n := by
  have h2 : (0 : Int) < (2 ^ n : Nat) := by exact_mod_cast Nat.two_pow_pos n
  have h := Int.emod_lt_of_pos v h2
  have h0 := Int.emod_nonneg v (Int.ne_of_gt h2)
  simp only [lowBits]
  omega

/-- One lane of a result of integers. -/
theorem laneNat_mapInts (ty : Nat) (g : Nat → Int) (i : Nat) (h : i < laneCount ty) :
    laneNat ty (mapInts ty g) i = lowBits (g i) (typeWidth ty) := by
  rw [mapInts, laneNat_mapLanes _ _ _ h, Nat.mod_eq_of_lt (lowBits_lt _ _)]

/-- A lane fits its width. -/
theorem laneNat_lt (ty x i : Nat) : laneNat ty x i < 2 ^ typeWidth ty :=
  Nat.mod_lt _ (Nat.two_pow_pos _)

end Sys2Proof
end

