-- ==== Sys2Proof/Laws/State.lean ====
section
/-! SUPPORT. State: what each replacement of a unit leaves in each field, and what each accessor reads behind it. -/
namespace Sys2Proof.Machine

/-! ### Tables -/

/-- A table reads what was put. -/
@[simp] theorem Tab.get?_put_self {α : Type} (t : Tab α) (k : Nat) (v : α) : Tab.get? (Tab.put t k v) k = some v := by
  induction t with
  | nil => simp [Tab.put, Tab.get?]
  | cons e t ih =>
    obtain ⟨a, w⟩ := e
    unfold Tab.put
    split
    · simp [Tab.get?]
    · split
      · simp [Tab.get?]
      · rename_i h _
        simp [Tab.get?, h, ih]

/-- Every other entry reads as before. -/
theorem Tab.get?_put_ne {α : Type} (t : Tab α) {k j : Nat} (v : α) (h : j ≠ k) :
    Tab.get? (Tab.put t k v) j = Tab.get? t j := by
  induction t with
  | nil => simp [Tab.put, Tab.get?, h.symm]
  | cons e t ih =>
    obtain ⟨a, w⟩ := e
    unfold Tab.put
    split
    · rename_i ha
      subst ha
      simp [Tab.get?, h.symm]
    · split
      · simp [Tab.get?, h.symm]
      · simp only [Tab.get?, ih]

/-- The fresh entry aside, a table reads what was put. -/
@[simp] theorem Tab.getD_put_self {α : Type} (t : Tab α) (k : Nat) (v d : α) : Tab.getD (Tab.put t k v) k d = v := by
  simp [Tab.getD]

/-- Every other entry reads as before. -/
theorem Tab.getD_put_ne {α : Type} (t : Tab α) {k j : Nat} (v d : α) (h : j ≠ k) :
    Tab.getD (Tab.put t k v) j d = Tab.getD t j d := by
  simp [Tab.getD, Tab.get?_put_ne t v h]

/-- Of two values put at a key the second stays. -/
@[simp] theorem Tab.put_put {α : Type} (t : Tab α) (k : Nat) (v w : α) :
    Tab.put (Tab.put t k v) k w = Tab.put t k w := by
  induction t with
  | nil => simp [Tab.put]
  | cons e t ih =>
    obtain ⟨a, u⟩ := e
    by_cases h : a = k
    · simp [Tab.put, h]
    · by_cases h2 : k < a
      · simp [Tab.put, h, h2]
      · simp [Tab.put, h, h2, ih]

/-- A mapped table reads the function of what stood there. -/
@[simp] theorem Tab.get?_mapVal {α : Type} (t : Tab α) (f : Nat → α → α) (k : Nat) :
    Tab.get? (Tab.mapVal t f) k = (Tab.get? t k).map (f k) := by
  induction t with
  | nil => rfl
  | cons e t ih =>
    obtain ⟨a, w⟩ := e
    by_cases h : a = k
    · subst h; simp [Tab.mapVal, Tab.get?]
    · simp only [Tab.mapVal, List.map_cons, Tab.get?, h, if_false]
      exact ih

/-- A deleted entry is gone. -/
@[simp] theorem Tab.get?_del_self {α : Type} (t : Tab α) (k : Nat) : Tab.get? (Tab.del t k) k = none := by
  induction t with
  | nil => rfl
  | cons e t ih =>
    obtain ⟨a, w⟩ := e
    by_cases h : a = k
    · subst h; simpa [Tab.del] using ih
    · simp only [Tab.del, List.filter_cons, ne_eq, h, not_false_eq_true, decide_true, if_true, Tab.get?, if_false]
      exact ih

/-! ### Accessors behind a replacement -/

@[simp] theorem State.thr_putThr_self (s : State) (n : Nat) (x : Thr) : (s.putThr n x).thr n = x :=
  Tab.getD_put_self ..
theorem State.thr_putThr_ne (s : State) {n m : Nat} (x : Thr) (h : m ≠ n) : (s.putThr n x).thr m = s.thr m :=
  Tab.getD_put_ne _ _ _ h
@[simp] theorem State.putThr_putThr (s : State) (n : Nat) (x y : Thr) : (s.putThr n x).putThr n y = s.putThr n y := by
  simp [State.putThr]
@[simp] theorem State.ctx_putCtx_self (s : State) (n : Nat) (x : Ctx) : (s.putCtx n x).ctx n = x :=
  Tab.getD_put_self ..
theorem State.ctx_putCtx_ne (s : State) {n m : Nat} (x : Ctx) (h : m ≠ n) : (s.putCtx n x).ctx m = s.ctx m :=
  Tab.getD_put_ne _ _ _ h
@[simp] theorem State.putCtx_putCtx (s : State) (n : Nat) (x y : Ctx) : (s.putCtx n x).putCtx n y = s.putCtx n y := by
  simp [State.putCtx]
@[simp] theorem State.clu_putClu_self (s : State) (n : Nat) (x : Cluster) : (s.putClu n x).clu n = x :=
  Tab.getD_put_self ..
theorem State.clu_putClu_ne (s : State) {n m : Nat} (x : Cluster) (h : m ≠ n) : (s.putClu n x).clu m = s.clu m :=
  Tab.getD_put_ne _ _ _ h
@[simp] theorem State.putClu_putClu (s : State) (n : Nat) (x y : Cluster) : (s.putClu n x).putClu n y = s.putClu n y := by
  simp [State.putClu]
@[simp] theorem State.port_putPort_self (s : State) (n : Nat) (x : Port) : (s.putPort n x).port n = x :=
  Tab.getD_put_self ..
theorem State.port_putPort_ne (s : State) {n m : Nat} (x : Port) (h : m ≠ n) : (s.putPort n x).port m = s.port m :=
  Tab.getD_put_ne _ _ _ h
@[simp] theorem State.putPort_putPort (s : State) (n : Nat) (x y : Port) : (s.putPort n x).putPort n y = s.putPort n y := by
  simp [State.putPort]
@[simp] theorem State.eng_putEng_self (s : State) (n : Nat) (x : Engine) : (s.putEng n x).eng n = x :=
  Tab.getD_put_self ..
theorem State.eng_putEng_ne (s : State) {n m : Nat} (x : Engine) (h : m ≠ n) : (s.putEng n x).eng m = s.eng m :=
  Tab.getD_put_ne _ _ _ h
@[simp] theorem State.putEng_putEng (s : State) (n : Nat) (x y : Engine) : (s.putEng n x).putEng n y = s.putEng n y := by
  simp [State.putEng]
@[simp] theorem State.lane_putLane_self (s : State) (n : Nat) (x : Lane) : (s.putLane n x).lane n = x :=
  Tab.getD_put_self ..
theorem State.lane_putLane_ne (s : State) {n m : Nat} (x : Lane) (h : m ≠ n) : (s.putLane n x).lane m = s.lane m :=
  Tab.getD_put_ne _ _ _ h
@[simp] theorem State.putLane_putLane (s : State) (n : Nat) (x y : Lane) : (s.putLane n x).putLane n y = s.putLane n y := by
  simp [State.putLane]

/-- The thread on the move behind a change of it. -/
@[simp] theorem State.me_modMe (s : State) (f : Thr → Thr) : (s.modMe f).me = f s.me := State.thr_putThr_self ..

/-- A kernel put is read. -/
@[simp] theorem State.kernel?_putKernel_self (s : State) (ctx kh : Nat) (k : Kernel) :
    (s.putKernel ctx kh k).kernel? ctx kh = some k := by
  simp [State.kernel?, State.putKernel]

/-- x0 reads zero (00 R3). -/
@[simp] theorem Thr.reg_zero (t : Thr) : t.reg 0 = 0 := rfl

/-- x0 discards what is written (00 R3). -/
@[simp] theorem Thr.setReg_zero (t : Thr) (v : Word) : t.setReg 0 v = t := rfl

/-- A register written reads its value. -/
theorem Thr.reg_setReg_self (t : Thr) {r : Reg} (v : Word) (h : r ≠ 0) : (t.setReg r v).reg r = v := by
  rw [Thr.setReg, if_neg h, Thr.reg, if_neg h]
  exact Vector.getElem_set_self _

/-- Every other register reads as before. -/
theorem Thr.reg_setReg_ne (t : Thr) {r q : Reg} (v : Word) (h : q ≠ r) : (t.setReg r v).reg q = t.reg q := by
  unfold Thr.setReg
  split
  · rfl
  · have : q.toNat ≠ r.toNat := fun e => h (BitVec.eq_of_toNat_eq e)
    simp only [Thr.reg]
    split
    · rfl
    · exact Vector.getElem_set_ne _ _ (Ne.symm this)

/-- A result and the way on, as one change of the thread. -/
theorem Thr.setReg_pc_eq_moved (t : Thr) (rd : Reg) (v : Word) (n : Nat) :
    { t.setReg rd v with pc := (t.setReg rd v).pc + Word.of n } = t.moved rd v n := by
  unfold Thr.setReg Thr.moved
  split <;> rfl

/-! ### Fields behind a replacement -/

@[simp] theorem State.putThr_sched (s : State) (n : Nat) (x : Thr) : (s.putThr n x).sched = s.sched := rfl
@[simp] theorem State.putThr_cur (s : State) (n : Nat) (x : Thr) : (s.putThr n x).cur = s.cur := rfl
@[simp] theorem State.putThr_draws (s : State) (n : Nat) (x : Thr) : (s.putThr n x).draws = s.draws := rfl
@[simp] theorem State.putThr_gtc (s : State) (n : Nat) (x : Thr) : (s.putThr n x).gtc = s.gtc := rfl
@[simp] theorem State.putThr_mem (s : State) (n : Nat) (x : Thr) : (s.putThr n x).mem = s.mem := rfl
@[simp] theorem State.putThr_clus (s : State) (n : Nat) (x : Thr) : (s.putThr n x).clus = s.clus := rfl
@[simp] theorem State.putThr_ctxs (s : State) (n : Nat) (x : Thr) : (s.putThr n x).ctxs = s.ctxs := rfl
@[simp] theorem State.putThr_engs (s : State) (n : Nat) (x : Thr) : (s.putThr n x).engs = s.engs := rfl
@[simp] theorem State.putThr_lanes (s : State) (n : Nat) (x : Thr) : (s.putThr n x).lanes = s.lanes := rfl
@[simp] theorem State.putThr_orders (s : State) (n : Nat) (x : Thr) : (s.putThr n x).orders = s.orders := rfl
@[simp] theorem State.putThr_tlb (s : State) (n : Nat) (x : Thr) : (s.putThr n x).tlb = s.tlb := rfl
@[simp] theorem State.putThr_frames (s : State) (n : Nat) (x : Thr) : (s.putThr n x).frames = s.frames := rfl
@[simp] theorem State.putThr_counts (s : State) (n : Nat) (x : Thr) : (s.putThr n x).counts = s.counts := rfl
@[simp] theorem State.putThr_poison (s : State) (n : Nat) (x : Thr) : (s.putThr n x).poison = s.poison := rfl
@[simp] theorem State.putThr_failedCh (s : State) (n : Nat) (x : Thr) : (s.putThr n x).failedCh = s.failedCh := rfl
@[simp] theorem State.putThr_chanRet (s : State) (n : Nat) (x : Thr) : (s.putThr n x).chanRet = s.chanRet := rfl
@[simp] theorem State.putThr_limits (s : State) (n : Nat) (x : Thr) : (s.putThr n x).limits = s.limits := rfl
@[simp] theorem State.putThr_banks (s : State) (n : Nat) (x : Thr) : (s.putThr n x).banks = s.banks := rfl
@[simp] theorem State.putThr_resvs (s : State) (n : Nat) (x : Thr) : (s.putThr n x).resvs = s.resvs := rfl
@[simp] theorem State.putThr_wc (s : State) (n : Nat) (x : Thr) : (s.putThr n x).wc = s.wc := rfl
@[simp] theorem State.putThr_pools (s : State) (n : Nat) (x : Thr) : (s.putThr n x).pools = s.pools := rfl
@[simp] theorem State.putThr_codec (s : State) (n : Nat) (x : Thr) : (s.putThr n x).codec = s.codec := rfl
@[simp] theorem State.putThr_steps (s : State) (n : Nat) (x : Thr) : (s.putThr n x).steps = s.steps := rfl
@[simp] theorem State.putThr_stepLast (s : State) (n : Nat) (x : Thr) : (s.putThr n x).stepLast = s.stepLast := rfl
@[simp] theorem State.putThr_windows (s : State) (n : Nat) (x : Thr) : (s.putThr n x).windows = s.windows := rfl
@[simp] theorem State.putThr_winLock (s : State) (n : Nat) (x : Thr) : (s.putThr n x).winLock = s.winLock := rfl
@[simp] theorem State.putThr_portMask (s : State) (n : Nat) (x : Thr) : (s.putThr n x).portMask = s.portMask := rfl
@[simp] theorem State.putThr_pkgid (s : State) (n : Nat) (x : Thr) : (s.putThr n x).pkgid = s.pkgid := rfl
@[simp] theorem State.putThr_epbase (s : State) (n : Nat) (x : Thr) : (s.putThr n x).epbase = s.epbase := rfl
@[simp] theorem State.putThr_ports (s : State) (n : Nat) (x : Thr) : (s.putThr n x).ports = s.ports := rfl
@[simp] theorem State.putThr_msgs (s : State) (n : Nat) (x : Thr) : (s.putThr n x).msgs = s.msgs := rfl
@[simp] theorem State.putThr_msgIds (s : State) (n : Nat) (x : Thr) : (s.putThr n x).msgIds = s.msgIds := rfl
@[simp] theorem State.putThr_sent (s : State) (n : Nat) (x : Thr) : (s.putThr n x).sent = s.sent := rfl
@[simp] theorem State.putThr_sys (s : State) (n : Nat) (x : Thr) : (s.putThr n x).sys = s.sys := rfl
@[simp] theorem State.putThr_served (s : State) (n : Nat) (x : Thr) : (s.putThr n x).served = s.served := rfl
@[simp] theorem State.putThr_fw (s : State) (n : Nat) (x : Thr) : (s.putThr n x).fw = s.fw := rfl
@[simp] theorem State.putThr_pow (s : State) (n : Nat) (x : Thr) : (s.putThr n x).pow = s.pow := rfl
@[simp] theorem State.putThr_ival (s : State) (n : Nat) (x : Thr) : (s.putThr n x).ival = s.ival := rfl
@[simp] theorem State.putThr_boot (s : State) (n : Nat) (x : Thr) : (s.putThr n x).boot = s.boot := rfl
@[simp] theorem State.putThr_recov (s : State) (n : Nat) (x : Thr) : (s.putThr n x).recov = s.recov := rfl
@[simp] theorem State.putThr_flash (s : State) (n : Nat) (x : Thr) : (s.putThr n x).flash = s.flash := rfl
@[simp] theorem State.putThr_meas (s : State) (n : Nat) (x : Thr) : (s.putThr n x).meas = s.meas := rfl
@[simp] theorem State.putThr_saveKey (s : State) (n : Nat) (x : Thr) : (s.putThr n x).saveKey = s.saveKey := rfl
@[simp] theorem State.putThr_identKey (s : State) (n : Nat) (x : Thr) : (s.putThr n x).identKey = s.identKey := rfl

@[simp] theorem State.putCtx_sched (s : State) (n : Nat) (x : Ctx) : (s.putCtx n x).sched = s.sched := rfl
@[simp] theorem State.putCtx_cur (s : State) (n : Nat) (x : Ctx) : (s.putCtx n x).cur = s.cur := rfl
@[simp] theorem State.putCtx_draws (s : State) (n : Nat) (x : Ctx) : (s.putCtx n x).draws = s.draws := rfl
@[simp] theorem State.putCtx_gtc (s : State) (n : Nat) (x : Ctx) : (s.putCtx n x).gtc = s.gtc := rfl
@[simp] theorem State.putCtx_mem (s : State) (n : Nat) (x : Ctx) : (s.putCtx n x).mem = s.mem := rfl
@[simp] theorem State.putCtx_thrs (s : State) (n : Nat) (x : Ctx) : (s.putCtx n x).thrs = s.thrs := rfl
@[simp] theorem State.putCtx_clus (s : State) (n : Nat) (x : Ctx) : (s.putCtx n x).clus = s.clus := rfl
@[simp] theorem State.putCtx_engs (s : State) (n : Nat) (x : Ctx) : (s.putCtx n x).engs = s.engs := rfl
@[simp] theorem State.putCtx_lanes (s : State) (n : Nat) (x : Ctx) : (s.putCtx n x).lanes = s.lanes := rfl
@[simp] theorem State.putCtx_orders (s : State) (n : Nat) (x : Ctx) : (s.putCtx n x).orders = s.orders := rfl
@[simp] theorem State.putCtx_tlb (s : State) (n : Nat) (x : Ctx) : (s.putCtx n x).tlb = s.tlb := rfl
@[simp] theorem State.putCtx_frames (s : State) (n : Nat) (x : Ctx) : (s.putCtx n x).frames = s.frames := rfl
@[simp] theorem State.putCtx_counts (s : State) (n : Nat) (x : Ctx) : (s.putCtx n x).counts = s.counts := rfl
@[simp] theorem State.putCtx_poison (s : State) (n : Nat) (x : Ctx) : (s.putCtx n x).poison = s.poison := rfl
@[simp] theorem State.putCtx_failedCh (s : State) (n : Nat) (x : Ctx) : (s.putCtx n x).failedCh = s.failedCh := rfl
@[simp] theorem State.putCtx_chanRet (s : State) (n : Nat) (x : Ctx) : (s.putCtx n x).chanRet = s.chanRet := rfl
@[simp] theorem State.putCtx_limits (s : State) (n : Nat) (x : Ctx) : (s.putCtx n x).limits = s.limits := rfl
@[simp] theorem State.putCtx_banks (s : State) (n : Nat) (x : Ctx) : (s.putCtx n x).banks = s.banks := rfl
@[simp] theorem State.putCtx_resvs (s : State) (n : Nat) (x : Ctx) : (s.putCtx n x).resvs = s.resvs := rfl
@[simp] theorem State.putCtx_wc (s : State) (n : Nat) (x : Ctx) : (s.putCtx n x).wc = s.wc := rfl
@[simp] theorem State.putCtx_pools (s : State) (n : Nat) (x : Ctx) : (s.putCtx n x).pools = s.pools := rfl
@[simp] theorem State.putCtx_codec (s : State) (n : Nat) (x : Ctx) : (s.putCtx n x).codec = s.codec := rfl
@[simp] theorem State.putCtx_steps (s : State) (n : Nat) (x : Ctx) : (s.putCtx n x).steps = s.steps := rfl
@[simp] theorem State.putCtx_stepLast (s : State) (n : Nat) (x : Ctx) : (s.putCtx n x).stepLast = s.stepLast := rfl
@[simp] theorem State.putCtx_windows (s : State) (n : Nat) (x : Ctx) : (s.putCtx n x).windows = s.windows := rfl
@[simp] theorem State.putCtx_winLock (s : State) (n : Nat) (x : Ctx) : (s.putCtx n x).winLock = s.winLock := rfl
@[simp] theorem State.putCtx_portMask (s : State) (n : Nat) (x : Ctx) : (s.putCtx n x).portMask = s.portMask := rfl
@[simp] theorem State.putCtx_pkgid (s : State) (n : Nat) (x : Ctx) : (s.putCtx n x).pkgid = s.pkgid := rfl
@[simp] theorem State.putCtx_epbase (s : State) (n : Nat) (x : Ctx) : (s.putCtx n x).epbase = s.epbase := rfl
@[simp] theorem State.putCtx_ports (s : State) (n : Nat) (x : Ctx) : (s.putCtx n x).ports = s.ports := rfl
@[simp] theorem State.putCtx_msgs (s : State) (n : Nat) (x : Ctx) : (s.putCtx n x).msgs = s.msgs := rfl
@[simp] theorem State.putCtx_msgIds (s : State) (n : Nat) (x : Ctx) : (s.putCtx n x).msgIds = s.msgIds := rfl
@[simp] theorem State.putCtx_sent (s : State) (n : Nat) (x : Ctx) : (s.putCtx n x).sent = s.sent := rfl
@[simp] theorem State.putCtx_sys (s : State) (n : Nat) (x : Ctx) : (s.putCtx n x).sys = s.sys := rfl
@[simp] theorem State.putCtx_served (s : State) (n : Nat) (x : Ctx) : (s.putCtx n x).served = s.served := rfl
@[simp] theorem State.putCtx_fw (s : State) (n : Nat) (x : Ctx) : (s.putCtx n x).fw = s.fw := rfl
@[simp] theorem State.putCtx_pow (s : State) (n : Nat) (x : Ctx) : (s.putCtx n x).pow = s.pow := rfl
@[simp] theorem State.putCtx_ival (s : State) (n : Nat) (x : Ctx) : (s.putCtx n x).ival = s.ival := rfl
@[simp] theorem State.putCtx_boot (s : State) (n : Nat) (x : Ctx) : (s.putCtx n x).boot = s.boot := rfl
@[simp] theorem State.putCtx_recov (s : State) (n : Nat) (x : Ctx) : (s.putCtx n x).recov = s.recov := rfl
@[simp] theorem State.putCtx_flash (s : State) (n : Nat) (x : Ctx) : (s.putCtx n x).flash = s.flash := rfl
@[simp] theorem State.putCtx_meas (s : State) (n : Nat) (x : Ctx) : (s.putCtx n x).meas = s.meas := rfl
@[simp] theorem State.putCtx_saveKey (s : State) (n : Nat) (x : Ctx) : (s.putCtx n x).saveKey = s.saveKey := rfl
@[simp] theorem State.putCtx_identKey (s : State) (n : Nat) (x : Ctx) : (s.putCtx n x).identKey = s.identKey := rfl

@[simp] theorem State.putClu_sched (s : State) (n : Nat) (x : Cluster) : (s.putClu n x).sched = s.sched := rfl
@[simp] theorem State.putClu_cur (s : State) (n : Nat) (x : Cluster) : (s.putClu n x).cur = s.cur := rfl
@[simp] theorem State.putClu_draws (s : State) (n : Nat) (x : Cluster) : (s.putClu n x).draws = s.draws := rfl
@[simp] theorem State.putClu_gtc (s : State) (n : Nat) (x : Cluster) : (s.putClu n x).gtc = s.gtc := rfl
@[simp] theorem State.putClu_mem (s : State) (n : Nat) (x : Cluster) : (s.putClu n x).mem = s.mem := rfl
@[simp] theorem State.putClu_thrs (s : State) (n : Nat) (x : Cluster) : (s.putClu n x).thrs = s.thrs := rfl
@[simp] theorem State.putClu_ctxs (s : State) (n : Nat) (x : Cluster) : (s.putClu n x).ctxs = s.ctxs := rfl
@[simp] theorem State.putClu_engs (s : State) (n : Nat) (x : Cluster) : (s.putClu n x).engs = s.engs := rfl
@[simp] theorem State.putClu_lanes (s : State) (n : Nat) (x : Cluster) : (s.putClu n x).lanes = s.lanes := rfl
@[simp] theorem State.putClu_orders (s : State) (n : Nat) (x : Cluster) : (s.putClu n x).orders = s.orders := rfl
@[simp] theorem State.putClu_tlb (s : State) (n : Nat) (x : Cluster) : (s.putClu n x).tlb = s.tlb := rfl
@[simp] theorem State.putClu_frames (s : State) (n : Nat) (x : Cluster) : (s.putClu n x).frames = s.frames := rfl
@[simp] theorem State.putClu_counts (s : State) (n : Nat) (x : Cluster) : (s.putClu n x).counts = s.counts := rfl
@[simp] theorem State.putClu_poison (s : State) (n : Nat) (x : Cluster) : (s.putClu n x).poison = s.poison := rfl
@[simp] theorem State.putClu_failedCh (s : State) (n : Nat) (x : Cluster) : (s.putClu n x).failedCh = s.failedCh := rfl
@[simp] theorem State.putClu_chanRet (s : State) (n : Nat) (x : Cluster) : (s.putClu n x).chanRet = s.chanRet := rfl
@[simp] theorem State.putClu_limits (s : State) (n : Nat) (x : Cluster) : (s.putClu n x).limits = s.limits := rfl
@[simp] theorem State.putClu_banks (s : State) (n : Nat) (x : Cluster) : (s.putClu n x).banks = s.banks := rfl
@[simp] theorem State.putClu_resvs (s : State) (n : Nat) (x : Cluster) : (s.putClu n x).resvs = s.resvs := rfl
@[simp] theorem State.putClu_wc (s : State) (n : Nat) (x : Cluster) : (s.putClu n x).wc = s.wc := rfl
@[simp] theorem State.putClu_pools (s : State) (n : Nat) (x : Cluster) : (s.putClu n x).pools = s.pools := rfl
@[simp] theorem State.putClu_codec (s : State) (n : Nat) (x : Cluster) : (s.putClu n x).codec = s.codec := rfl
@[simp] theorem State.putClu_steps (s : State) (n : Nat) (x : Cluster) : (s.putClu n x).steps = s.steps := rfl
@[simp] theorem State.putClu_stepLast (s : State) (n : Nat) (x : Cluster) : (s.putClu n x).stepLast = s.stepLast := rfl
@[simp] theorem State.putClu_windows (s : State) (n : Nat) (x : Cluster) : (s.putClu n x).windows = s.windows := rfl
@[simp] theorem State.putClu_winLock (s : State) (n : Nat) (x : Cluster) : (s.putClu n x).winLock = s.winLock := rfl
@[simp] theorem State.putClu_portMask (s : State) (n : Nat) (x : Cluster) : (s.putClu n x).portMask = s.portMask := rfl
@[simp] theorem State.putClu_pkgid (s : State) (n : Nat) (x : Cluster) : (s.putClu n x).pkgid = s.pkgid := rfl
@[simp] theorem State.putClu_epbase (s : State) (n : Nat) (x : Cluster) : (s.putClu n x).epbase = s.epbase := rfl
@[simp] theorem State.putClu_ports (s : State) (n : Nat) (x : Cluster) : (s.putClu n x).ports = s.ports := rfl
@[simp] theorem State.putClu_msgs (s : State) (n : Nat) (x : Cluster) : (s.putClu n x).msgs = s.msgs := rfl
@[simp] theorem State.putClu_msgIds (s : State) (n : Nat) (x : Cluster) : (s.putClu n x).msgIds = s.msgIds := rfl
@[simp] theorem State.putClu_sent (s : State) (n : Nat) (x : Cluster) : (s.putClu n x).sent = s.sent := rfl
@[simp] theorem State.putClu_sys (s : State) (n : Nat) (x : Cluster) : (s.putClu n x).sys = s.sys := rfl
@[simp] theorem State.putClu_served (s : State) (n : Nat) (x : Cluster) : (s.putClu n x).served = s.served := rfl
@[simp] theorem State.putClu_fw (s : State) (n : Nat) (x : Cluster) : (s.putClu n x).fw = s.fw := rfl
@[simp] theorem State.putClu_pow (s : State) (n : Nat) (x : Cluster) : (s.putClu n x).pow = s.pow := rfl
@[simp] theorem State.putClu_ival (s : State) (n : Nat) (x : Cluster) : (s.putClu n x).ival = s.ival := rfl
@[simp] theorem State.putClu_boot (s : State) (n : Nat) (x : Cluster) : (s.putClu n x).boot = s.boot := rfl
@[simp] theorem State.putClu_recov (s : State) (n : Nat) (x : Cluster) : (s.putClu n x).recov = s.recov := rfl
@[simp] theorem State.putClu_flash (s : State) (n : Nat) (x : Cluster) : (s.putClu n x).flash = s.flash := rfl
@[simp] theorem State.putClu_meas (s : State) (n : Nat) (x : Cluster) : (s.putClu n x).meas = s.meas := rfl
@[simp] theorem State.putClu_saveKey (s : State) (n : Nat) (x : Cluster) : (s.putClu n x).saveKey = s.saveKey := rfl
@[simp] theorem State.putClu_identKey (s : State) (n : Nat) (x : Cluster) : (s.putClu n x).identKey = s.identKey := rfl

@[simp] theorem State.putPort_sched (s : State) (n : Nat) (x : Port) : (s.putPort n x).sched = s.sched := rfl
@[simp] theorem State.putPort_cur (s : State) (n : Nat) (x : Port) : (s.putPort n x).cur = s.cur := rfl
@[simp] theorem State.putPort_draws (s : State) (n : Nat) (x : Port) : (s.putPort n x).draws = s.draws := rfl
@[simp] theorem State.putPort_gtc (s : State) (n : Nat) (x : Port) : (s.putPort n x).gtc = s.gtc := rfl
@[simp] theorem State.putPort_mem (s : State) (n : Nat) (x : Port) : (s.putPort n x).mem = s.mem := rfl
@[simp] theorem State.putPort_thrs (s : State) (n : Nat) (x : Port) : (s.putPort n x).thrs = s.thrs := rfl
@[simp] theorem State.putPort_clus (s : State) (n : Nat) (x : Port) : (s.putPort n x).clus = s.clus := rfl
@[simp] theorem State.putPort_ctxs (s : State) (n : Nat) (x : Port) : (s.putPort n x).ctxs = s.ctxs := rfl
@[simp] theorem State.putPort_engs (s : State) (n : Nat) (x : Port) : (s.putPort n x).engs = s.engs := rfl
@[simp] theorem State.putPort_lanes (s : State) (n : Nat) (x : Port) : (s.putPort n x).lanes = s.lanes := rfl
@[simp] theorem State.putPort_orders (s : State) (n : Nat) (x : Port) : (s.putPort n x).orders = s.orders := rfl
@[simp] theorem State.putPort_tlb (s : State) (n : Nat) (x : Port) : (s.putPort n x).tlb = s.tlb := rfl
@[simp] theorem State.putPort_frames (s : State) (n : Nat) (x : Port) : (s.putPort n x).frames = s.frames := rfl
@[simp] theorem State.putPort_counts (s : State) (n : Nat) (x : Port) : (s.putPort n x).counts = s.counts := rfl
@[simp] theorem State.putPort_poison (s : State) (n : Nat) (x : Port) : (s.putPort n x).poison = s.poison := rfl
@[simp] theorem State.putPort_failedCh (s : State) (n : Nat) (x : Port) : (s.putPort n x).failedCh = s.failedCh := rfl
@[simp] theorem State.putPort_chanRet (s : State) (n : Nat) (x : Port) : (s.putPort n x).chanRet = s.chanRet := rfl
@[simp] theorem State.putPort_limits (s : State) (n : Nat) (x : Port) : (s.putPort n x).limits = s.limits := rfl
@[simp] theorem State.putPort_banks (s : State) (n : Nat) (x : Port) : (s.putPort n x).banks = s.banks := rfl
@[simp] theorem State.putPort_resvs (s : State) (n : Nat) (x : Port) : (s.putPort n x).resvs = s.resvs := rfl
@[simp] theorem State.putPort_wc (s : State) (n : Nat) (x : Port) : (s.putPort n x).wc = s.wc := rfl
@[simp] theorem State.putPort_pools (s : State) (n : Nat) (x : Port) : (s.putPort n x).pools = s.pools := rfl
@[simp] theorem State.putPort_codec (s : State) (n : Nat) (x : Port) : (s.putPort n x).codec = s.codec := rfl
@[simp] theorem State.putPort_steps (s : State) (n : Nat) (x : Port) : (s.putPort n x).steps = s.steps := rfl
@[simp] theorem State.putPort_stepLast (s : State) (n : Nat) (x : Port) : (s.putPort n x).stepLast = s.stepLast := rfl
@[simp] theorem State.putPort_windows (s : State) (n : Nat) (x : Port) : (s.putPort n x).windows = s.windows := rfl
@[simp] theorem State.putPort_winLock (s : State) (n : Nat) (x : Port) : (s.putPort n x).winLock = s.winLock := rfl
@[simp] theorem State.putPort_portMask (s : State) (n : Nat) (x : Port) : (s.putPort n x).portMask = s.portMask := rfl
@[simp] theorem State.putPort_pkgid (s : State) (n : Nat) (x : Port) : (s.putPort n x).pkgid = s.pkgid := rfl
@[simp] theorem State.putPort_epbase (s : State) (n : Nat) (x : Port) : (s.putPort n x).epbase = s.epbase := rfl
@[simp] theorem State.putPort_msgs (s : State) (n : Nat) (x : Port) : (s.putPort n x).msgs = s.msgs := rfl
@[simp] theorem State.putPort_msgIds (s : State) (n : Nat) (x : Port) : (s.putPort n x).msgIds = s.msgIds := rfl
@[simp] theorem State.putPort_sent (s : State) (n : Nat) (x : Port) : (s.putPort n x).sent = s.sent := rfl
@[simp] theorem State.putPort_sys (s : State) (n : Nat) (x : Port) : (s.putPort n x).sys = s.sys := rfl
@[simp] theorem State.putPort_served (s : State) (n : Nat) (x : Port) : (s.putPort n x).served = s.served := rfl
@[simp] theorem State.putPort_fw (s : State) (n : Nat) (x : Port) : (s.putPort n x).fw = s.fw := rfl
@[simp] theorem State.putPort_pow (s : State) (n : Nat) (x : Port) : (s.putPort n x).pow = s.pow := rfl
@[simp] theorem State.putPort_ival (s : State) (n : Nat) (x : Port) : (s.putPort n x).ival = s.ival := rfl
@[simp] theorem State.putPort_boot (s : State) (n : Nat) (x : Port) : (s.putPort n x).boot = s.boot := rfl
@[simp] theorem State.putPort_recov (s : State) (n : Nat) (x : Port) : (s.putPort n x).recov = s.recov := rfl
@[simp] theorem State.putPort_flash (s : State) (n : Nat) (x : Port) : (s.putPort n x).flash = s.flash := rfl
@[simp] theorem State.putPort_meas (s : State) (n : Nat) (x : Port) : (s.putPort n x).meas = s.meas := rfl
@[simp] theorem State.putPort_saveKey (s : State) (n : Nat) (x : Port) : (s.putPort n x).saveKey = s.saveKey := rfl
@[simp] theorem State.putPort_identKey (s : State) (n : Nat) (x : Port) : (s.putPort n x).identKey = s.identKey := rfl

@[simp] theorem State.putEng_sched (s : State) (n : Nat) (x : Engine) : (s.putEng n x).sched = s.sched := rfl
@[simp] theorem State.putEng_cur (s : State) (n : Nat) (x : Engine) : (s.putEng n x).cur = s.cur := rfl
@[simp] theorem State.putEng_draws (s : State) (n : Nat) (x : Engine) : (s.putEng n x).draws = s.draws := rfl
@[simp] theorem State.putEng_gtc (s : State) (n : Nat) (x : Engine) : (s.putEng n x).gtc = s.gtc := rfl
@[simp] theorem State.putEng_mem (s : State) (n : Nat) (x : Engine) : (s.putEng n x).mem = s.mem := rfl
@[simp] theorem State.putEng_thrs (s : State) (n : Nat) (x : Engine) : (s.putEng n x).thrs = s.thrs := rfl
@[simp] theorem State.putEng_clus (s : State) (n : Nat) (x : Engine) : (s.putEng n x).clus = s.clus := rfl
@[simp] theorem State.putEng_ctxs (s : State) (n : Nat) (x : Engine) : (s.putEng n x).ctxs = s.ctxs := rfl
@[simp] theorem State.putEng_lanes (s : State) (n : Nat) (x : Engine) : (s.putEng n x).lanes = s.lanes := rfl
@[simp] theorem State.putEng_orders (s : State) (n : Nat) (x : Engine) : (s.putEng n x).orders = s.orders := rfl
@[simp] theorem State.putEng_tlb (s : State) (n : Nat) (x : Engine) : (s.putEng n x).tlb = s.tlb := rfl
@[simp] theorem State.putEng_frames (s : State) (n : Nat) (x : Engine) : (s.putEng n x).frames = s.frames := rfl
@[simp] theorem State.putEng_counts (s : State) (n : Nat) (x : Engine) : (s.putEng n x).counts = s.counts := rfl
@[simp] theorem State.putEng_poison (s : State) (n : Nat) (x : Engine) : (s.putEng n x).poison = s.poison := rfl
@[simp] theorem State.putEng_failedCh (s : State) (n : Nat) (x : Engine) : (s.putEng n x).failedCh = s.failedCh := rfl
@[simp] theorem State.putEng_chanRet (s : State) (n : Nat) (x : Engine) : (s.putEng n x).chanRet = s.chanRet := rfl
@[simp] theorem State.putEng_limits (s : State) (n : Nat) (x : Engine) : (s.putEng n x).limits = s.limits := rfl
@[simp] theorem State.putEng_banks (s : State) (n : Nat) (x : Engine) : (s.putEng n x).banks = s.banks := rfl
@[simp] theorem State.putEng_resvs (s : State) (n : Nat) (x : Engine) : (s.putEng n x).resvs = s.resvs := rfl
@[simp] theorem State.putEng_wc (s : State) (n : Nat) (x : Engine) : (s.putEng n x).wc = s.wc := rfl
@[simp] theorem State.putEng_pools (s : State) (n : Nat) (x : Engine) : (s.putEng n x).pools = s.pools := rfl
@[simp] theorem State.putEng_codec (s : State) (n : Nat) (x : Engine) : (s.putEng n x).codec = s.codec := rfl
@[simp] theorem State.putEng_steps (s : State) (n : Nat) (x : Engine) : (s.putEng n x).steps = s.steps := rfl
@[simp] theorem State.putEng_stepLast (s : State) (n : Nat) (x : Engine) : (s.putEng n x).stepLast = s.stepLast := rfl
@[simp] theorem State.putEng_windows (s : State) (n : Nat) (x : Engine) : (s.putEng n x).windows = s.windows := rfl
@[simp] theorem State.putEng_winLock (s : State) (n : Nat) (x : Engine) : (s.putEng n x).winLock = s.winLock := rfl
@[simp] theorem State.putEng_portMask (s : State) (n : Nat) (x : Engine) : (s.putEng n x).portMask = s.portMask := rfl
@[simp] theorem State.putEng_pkgid (s : State) (n : Nat) (x : Engine) : (s.putEng n x).pkgid = s.pkgid := rfl
@[simp] theorem State.putEng_epbase (s : State) (n : Nat) (x : Engine) : (s.putEng n x).epbase = s.epbase := rfl
@[simp] theorem State.putEng_ports (s : State) (n : Nat) (x : Engine) : (s.putEng n x).ports = s.ports := rfl
@[simp] theorem State.putEng_msgs (s : State) (n : Nat) (x : Engine) : (s.putEng n x).msgs = s.msgs := rfl
@[simp] theorem State.putEng_msgIds (s : State) (n : Nat) (x : Engine) : (s.putEng n x).msgIds = s.msgIds := rfl
@[simp] theorem State.putEng_sent (s : State) (n : Nat) (x : Engine) : (s.putEng n x).sent = s.sent := rfl
@[simp] theorem State.putEng_sys (s : State) (n : Nat) (x : Engine) : (s.putEng n x).sys = s.sys := rfl
@[simp] theorem State.putEng_served (s : State) (n : Nat) (x : Engine) : (s.putEng n x).served = s.served := rfl
@[simp] theorem State.putEng_fw (s : State) (n : Nat) (x : Engine) : (s.putEng n x).fw = s.fw := rfl
@[simp] theorem State.putEng_pow (s : State) (n : Nat) (x : Engine) : (s.putEng n x).pow = s.pow := rfl
@[simp] theorem State.putEng_ival (s : State) (n : Nat) (x : Engine) : (s.putEng n x).ival = s.ival := rfl
@[simp] theorem State.putEng_boot (s : State) (n : Nat) (x : Engine) : (s.putEng n x).boot = s.boot := rfl
@[simp] theorem State.putEng_recov (s : State) (n : Nat) (x : Engine) : (s.putEng n x).recov = s.recov := rfl
@[simp] theorem State.putEng_flash (s : State) (n : Nat) (x : Engine) : (s.putEng n x).flash = s.flash := rfl
@[simp] theorem State.putEng_meas (s : State) (n : Nat) (x : Engine) : (s.putEng n x).meas = s.meas := rfl
@[simp] theorem State.putEng_saveKey (s : State) (n : Nat) (x : Engine) : (s.putEng n x).saveKey = s.saveKey := rfl
@[simp] theorem State.putEng_identKey (s : State) (n : Nat) (x : Engine) : (s.putEng n x).identKey = s.identKey := rfl

@[simp] theorem State.putLane_sched (s : State) (n : Nat) (x : Lane) : (s.putLane n x).sched = s.sched := rfl
@[simp] theorem State.putLane_cur (s : State) (n : Nat) (x : Lane) : (s.putLane n x).cur = s.cur := rfl
@[simp] theorem State.putLane_draws (s : State) (n : Nat) (x : Lane) : (s.putLane n x).draws = s.draws := rfl
@[simp] theorem State.putLane_gtc (s : State) (n : Nat) (x : Lane) : (s.putLane n x).gtc = s.gtc := rfl
@[simp] theorem State.putLane_mem (s : State) (n : Nat) (x : Lane) : (s.putLane n x).mem = s.mem := rfl
@[simp] theorem State.putLane_thrs (s : State) (n : Nat) (x : Lane) : (s.putLane n x).thrs = s.thrs := rfl
@[simp] theorem State.putLane_clus (s : State) (n : Nat) (x : Lane) : (s.putLane n x).clus = s.clus := rfl
@[simp] theorem State.putLane_ctxs (s : State) (n : Nat) (x : Lane) : (s.putLane n x).ctxs = s.ctxs := rfl
@[simp] theorem State.putLane_engs (s : State) (n : Nat) (x : Lane) : (s.putLane n x).engs = s.engs := rfl
@[simp] theorem State.putLane_orders (s : State) (n : Nat) (x : Lane) : (s.putLane n x).orders = s.orders := rfl
@[simp] theorem State.putLane_tlb (s : State) (n : Nat) (x : Lane) : (s.putLane n x).tlb = s.tlb := rfl
@[simp] theorem State.putLane_frames (s : State) (n : Nat) (x : Lane) : (s.putLane n x).frames = s.frames := rfl
@[simp] theorem State.putLane_counts (s : State) (n : Nat) (x : Lane) : (s.putLane n x).counts = s.counts := rfl
@[simp] theorem State.putLane_poison (s : State) (n : Nat) (x : Lane) : (s.putLane n x).poison = s.poison := rfl
@[simp] theorem State.putLane_failedCh (s : State) (n : Nat) (x : Lane) : (s.putLane n x).failedCh = s.failedCh := rfl
@[simp] theorem State.putLane_chanRet (s : State) (n : Nat) (x : Lane) : (s.putLane n x).chanRet = s.chanRet := rfl
@[simp] theorem State.putLane_limits (s : State) (n : Nat) (x : Lane) : (s.putLane n x).limits = s.limits := rfl
@[simp] theorem State.putLane_banks (s : State) (n : Nat) (x : Lane) : (s.putLane n x).banks = s.banks := rfl
@[simp] theorem State.putLane_resvs (s : State) (n : Nat) (x : Lane) : (s.putLane n x).resvs = s.resvs := rfl
@[simp] theorem State.putLane_wc (s : State) (n : Nat) (x : Lane) : (s.putLane n x).wc = s.wc := rfl
@[simp] theorem State.putLane_pools (s : State) (n : Nat) (x : Lane) : (s.putLane n x).pools = s.pools := rfl
@[simp] theorem State.putLane_codec (s : State) (n : Nat) (x : Lane) : (s.putLane n x).codec = s.codec := rfl
@[simp] theorem State.putLane_steps (s : State) (n : Nat) (x : Lane) : (s.putLane n x).steps = s.steps := rfl
@[simp] theorem State.putLane_stepLast (s : State) (n : Nat) (x : Lane) : (s.putLane n x).stepLast = s.stepLast := rfl
@[simp] theorem State.putLane_windows (s : State) (n : Nat) (x : Lane) : (s.putLane n x).windows = s.windows := rfl
@[simp] theorem State.putLane_winLock (s : State) (n : Nat) (x : Lane) : (s.putLane n x).winLock = s.winLock := rfl
@[simp] theorem State.putLane_portMask (s : State) (n : Nat) (x : Lane) : (s.putLane n x).portMask = s.portMask := rfl
@[simp] theorem State.putLane_pkgid (s : State) (n : Nat) (x : Lane) : (s.putLane n x).pkgid = s.pkgid := rfl
@[simp] theorem State.putLane_epbase (s : State) (n : Nat) (x : Lane) : (s.putLane n x).epbase = s.epbase := rfl
@[simp] theorem State.putLane_ports (s : State) (n : Nat) (x : Lane) : (s.putLane n x).ports = s.ports := rfl
@[simp] theorem State.putLane_msgs (s : State) (n : Nat) (x : Lane) : (s.putLane n x).msgs = s.msgs := rfl
@[simp] theorem State.putLane_msgIds (s : State) (n : Nat) (x : Lane) : (s.putLane n x).msgIds = s.msgIds := rfl
@[simp] theorem State.putLane_sent (s : State) (n : Nat) (x : Lane) : (s.putLane n x).sent = s.sent := rfl
@[simp] theorem State.putLane_sys (s : State) (n : Nat) (x : Lane) : (s.putLane n x).sys = s.sys := rfl
@[simp] theorem State.putLane_served (s : State) (n : Nat) (x : Lane) : (s.putLane n x).served = s.served := rfl
@[simp] theorem State.putLane_fw (s : State) (n : Nat) (x : Lane) : (s.putLane n x).fw = s.fw := rfl
@[simp] theorem State.putLane_pow (s : State) (n : Nat) (x : Lane) : (s.putLane n x).pow = s.pow := rfl
@[simp] theorem State.putLane_ival (s : State) (n : Nat) (x : Lane) : (s.putLane n x).ival = s.ival := rfl
@[simp] theorem State.putLane_boot (s : State) (n : Nat) (x : Lane) : (s.putLane n x).boot = s.boot := rfl
@[simp] theorem State.putLane_recov (s : State) (n : Nat) (x : Lane) : (s.putLane n x).recov = s.recov := rfl
@[simp] theorem State.putLane_flash (s : State) (n : Nat) (x : Lane) : (s.putLane n x).flash = s.flash := rfl
@[simp] theorem State.putLane_meas (s : State) (n : Nat) (x : Lane) : (s.putLane n x).meas = s.meas := rfl
@[simp] theorem State.putLane_saveKey (s : State) (n : Nat) (x : Lane) : (s.putLane n x).saveKey = s.saveKey := rfl
@[simp] theorem State.putLane_identKey (s : State) (n : Nat) (x : Lane) : (s.putLane n x).identKey = s.identKey := rfl

@[simp] theorem State.modMe_sched (s : State) (f : Thr → Thr) : (s.modMe f).sched = s.sched := rfl
@[simp] theorem State.modMe_cur (s : State) (f : Thr → Thr) : (s.modMe f).cur = s.cur := rfl
@[simp] theorem State.modMe_draws (s : State) (f : Thr → Thr) : (s.modMe f).draws = s.draws := rfl
@[simp] theorem State.modMe_gtc (s : State) (f : Thr → Thr) : (s.modMe f).gtc = s.gtc := rfl
@[simp] theorem State.modMe_mem (s : State) (f : Thr → Thr) : (s.modMe f).mem = s.mem := rfl
@[simp] theorem State.modMe_clus (s : State) (f : Thr → Thr) : (s.modMe f).clus = s.clus := rfl
@[simp] theorem State.modMe_ctxs (s : State) (f : Thr → Thr) : (s.modMe f).ctxs = s.ctxs := rfl
@[simp] theorem State.modMe_engs (s : State) (f : Thr → Thr) : (s.modMe f).engs = s.engs := rfl
@[simp] theorem State.modMe_lanes (s : State) (f : Thr → Thr) : (s.modMe f).lanes = s.lanes := rfl
@[simp] theorem State.modMe_orders (s : State) (f : Thr → Thr) : (s.modMe f).orders = s.orders := rfl
@[simp] theorem State.modMe_tlb (s : State) (f : Thr → Thr) : (s.modMe f).tlb = s.tlb := rfl
@[simp] theorem State.modMe_frames (s : State) (f : Thr → Thr) : (s.modMe f).frames = s.frames := rfl
@[simp] theorem State.modMe_counts (s : State) (f : Thr → Thr) : (s.modMe f).counts = s.counts := rfl
@[simp] theorem State.modMe_poison (s : State) (f : Thr → Thr) : (s.modMe f).poison = s.poison := rfl
@[simp] theorem State.modMe_failedCh (s : State) (f : Thr → Thr) : (s.modMe f).failedCh = s.failedCh := rfl
@[simp] theorem State.modMe_chanRet (s : State) (f : Thr → Thr) : (s.modMe f).chanRet = s.chanRet := rfl
@[simp] theorem State.modMe_limits (s : State) (f : Thr → Thr) : (s.modMe f).limits = s.limits := rfl
@[simp] theorem State.modMe_banks (s : State) (f : Thr → Thr) : (s.modMe f).banks = s.banks := rfl
@[simp] theorem State.modMe_resvs (s : State) (f : Thr → Thr) : (s.modMe f).resvs = s.resvs := rfl
@[simp] theorem State.modMe_wc (s : State) (f : Thr → Thr) : (s.modMe f).wc = s.wc := rfl
@[simp] theorem State.modMe_pools (s : State) (f : Thr → Thr) : (s.modMe f).pools = s.pools := rfl
@[simp] theorem State.modMe_codec (s : State) (f : Thr → Thr) : (s.modMe f).codec = s.codec := rfl
@[simp] theorem State.modMe_steps (s : State) (f : Thr → Thr) : (s.modMe f).steps = s.steps := rfl
@[simp] theorem State.modMe_stepLast (s : State) (f : Thr → Thr) : (s.modMe f).stepLast = s.stepLast := rfl
@[simp] theorem State.modMe_windows (s : State) (f : Thr → Thr) : (s.modMe f).windows = s.windows := rfl
@[simp] theorem State.modMe_winLock (s : State) (f : Thr → Thr) : (s.modMe f).winLock = s.winLock := rfl
@[simp] theorem State.modMe_portMask (s : State) (f : Thr → Thr) : (s.modMe f).portMask = s.portMask := rfl
@[simp] theorem State.modMe_pkgid (s : State) (f : Thr → Thr) : (s.modMe f).pkgid = s.pkgid := rfl
@[simp] theorem State.modMe_epbase (s : State) (f : Thr → Thr) : (s.modMe f).epbase = s.epbase := rfl
@[simp] theorem State.modMe_ports (s : State) (f : Thr → Thr) : (s.modMe f).ports = s.ports := rfl
@[simp] theorem State.modMe_msgs (s : State) (f : Thr → Thr) : (s.modMe f).msgs = s.msgs := rfl
@[simp] theorem State.modMe_msgIds (s : State) (f : Thr → Thr) : (s.modMe f).msgIds = s.msgIds := rfl
@[simp] theorem State.modMe_sent (s : State) (f : Thr → Thr) : (s.modMe f).sent = s.sent := rfl
@[simp] theorem State.modMe_sys (s : State) (f : Thr → Thr) : (s.modMe f).sys = s.sys := rfl
@[simp] theorem State.modMe_served (s : State) (f : Thr → Thr) : (s.modMe f).served = s.served := rfl
@[simp] theorem State.modMe_fw (s : State) (f : Thr → Thr) : (s.modMe f).fw = s.fw := rfl
@[simp] theorem State.modMe_pow (s : State) (f : Thr → Thr) : (s.modMe f).pow = s.pow := rfl
@[simp] theorem State.modMe_ival (s : State) (f : Thr → Thr) : (s.modMe f).ival = s.ival := rfl
@[simp] theorem State.modMe_boot (s : State) (f : Thr → Thr) : (s.modMe f).boot = s.boot := rfl
@[simp] theorem State.modMe_recov (s : State) (f : Thr → Thr) : (s.modMe f).recov = s.recov := rfl
@[simp] theorem State.modMe_flash (s : State) (f : Thr → Thr) : (s.modMe f).flash = s.flash := rfl
@[simp] theorem State.modMe_meas (s : State) (f : Thr → Thr) : (s.modMe f).meas = s.meas := rfl
@[simp] theorem State.modMe_saveKey (s : State) (f : Thr → Thr) : (s.modMe f).saveKey = s.saveKey := rfl
@[simp] theorem State.modMe_identKey (s : State) (f : Thr → Thr) : (s.modMe f).identKey = s.identKey := rfl

end Sys2Proof.Machine
end

