-- ==== Sys2Proof/Laws/Memory.lean ====
section
/-! SUPPORT. Memory: a read behind a write, and that every operation that writes memory keeps the canonical form. -/
namespace Sys2Proof.Machine

/-! ### One byte -/

/-- A lower bound may be lowered. -/
theorem Memory.wfFrom_mono {m : List Host.Cell} {lo hi : Nat} (h : lo ≤ hi) (w : Memory.wfFrom hi m = true) :
    Memory.wfFrom lo m = true := by
  cases m with
  | nil => rfl
  | cons c t =>
    obtain ⟨a, v⟩ := c
    simp only [Memory.wfFrom, Bool.and_eq_true, decide_eq_true_eq] at w ⊢
    exact ⟨⟨by omega, w.1.2⟩, w.2⟩

/-- Below the lowest listed address every byte is blank. -/
theorem Memory.read_below {m : List Host.Cell} {lo a : Nat} (w : Memory.wfFrom lo m = true) (h : a < lo) :
    Memory.read m a = blankByte := by
  induction m generalizing lo with
  | nil => rfl
  | cons c t ih =>
    obtain ⟨b, v⟩ := c
    simp only [Memory.wfFrom, Bool.and_eq_true, decide_eq_true_eq] at w
    have : a ≠ b := by omega
    simp only [Memory.read, this, if_false]
    exact ih w.2 (by omega)

/-- A write keeps the canonical form. -/
theorem Memory.wfFrom_write {m : List Host.Cell} {lo a : Nat} (v : Byte) (w : Memory.wfFrom lo m = true) (h : lo ≤ a) :
    Memory.wfFrom lo (Memory.write m a v) = true := by
  induction m generalizing lo with
  | nil =>
    unfold Memory.write
    split
    · rfl
    · rename_i hv; simp [Memory.wfFrom, h, hv]
  | cons c t ih =>
    obtain ⟨b, u⟩ := c
    simp only [Memory.wfFrom, Bool.and_eq_true, decide_eq_true_eq] at w
    unfold Memory.write
    split
    · rename_i hab
      subst hab
      split
      · exact Memory.wfFrom_mono (by omega) w.2
      · rename_i hv; simp [Memory.wfFrom, h, hv, w.2]
    · split
      · split
        · simp [Memory.wfFrom, w]
        · rename_i hab hv
          have h2 : a + 1 ≤ b := hab
          have h3 : u ≠ blankByte := by simpa using w.1.2
          simp [Memory.wfFrom, h, hv, h2, h3, w.2]
      · have h3 : u ≠ blankByte := by simpa using w.1.2
        simp only [Memory.wfFrom, Bool.and_eq_true, decide_eq_true_eq]
        exact ⟨⟨w.1.1, by simpa using h3⟩, ih w.2 (by omega)⟩

/-- A write keeps the canonical form. -/
theorem Memory.wf_write {m : List Host.Cell} (a : Nat) (v : Byte) (w : Memory.wf m = true) :
    Memory.wf (Memory.write m a v) = true := Memory.wfFrom_write v w (Nat.zero_le a)

/-- A byte written reads its value. -/
theorem Memory.read_write_self {m : List Host.Cell} (a : Nat) (v : Byte) (w : Memory.wf m = true) :
    Memory.read (Memory.write m a v) a = v := by
  unfold Memory.wf at w
  generalize 0 = lo at w
  induction m generalizing lo with
  | nil =>
    unfold Memory.write
    split
    · rename_i hv; simp [Memory.read, hv]
    · simp [Memory.read]
  | cons c t ih =>
    obtain ⟨b, u⟩ := c
    simp only [Memory.wfFrom, Bool.and_eq_true, decide_eq_true_eq] at w
    unfold Memory.write
    split
    · rename_i hab
      subst hab
      split
      · rename_i hv
        rw [hv, Memory.read_below w.2 (by omega)]
      · simp [Memory.read]
    · split
      · split
        · rename_i hab hlt hv
          rw [hv, Memory.read, if_neg hab, Memory.read_below w.2 (by omega)]
        · simp [Memory.read]
      · rename_i hab _
        rw [Memory.read, if_neg hab]
        exact ih _ w.2

/-- Every other byte reads as before. -/
theorem Memory.read_write_ne (m : List Host.Cell) {a b : Nat} (v : Byte) (h : b ≠ a) :
    Memory.read (Memory.write m a v) b = Memory.read m b := by
  induction m with
  | nil =>
    unfold Memory.write
    split
    · rfl
    · simp [Memory.read, h]
  | cons c t ih =>
    obtain ⟨d, u⟩ := c
    unfold Memory.write
    split
    · rename_i hab
      subst hab
      split
      · simp [Memory.read, h]
      · simp [Memory.read, h]
    · split
      · split
        · rfl
        · simp [Memory.read, h]
      · simp only [Memory.read, ih]

/-! ### Several bytes -/

/-- Bytes written keep the canonical form. -/
theorem Memory.wf_writeEn {m : List Host.Cell} (a : Nat) (v en : List Nat) (w : Memory.wf m = true) :
    Memory.wf (Memory.writeEn m a v en) = true := by
  induction v generalizing m a en with
  | nil => cases en <;> exact w
  | cons x t ih =>
    cases en with
    | nil => exact w
    | cons e es =>
      unfold Memory.writeEn
      apply ih
      split
      · exact Memory.wf_write _ _ w
      · exact w

/-- Bytes outside those written read as before. -/
theorem Memory.read_writeEn_outside (m : List Host.Cell) (a : Nat) (v en : List Nat) {b : Nat}
    (h : b < a ∨ a + v.length ≤ b) : Memory.read (Memory.writeEn m a v en) b = Memory.read m b := by
  induction v generalizing m a en with
  | nil => cases en <;> rfl
  | cons x t ih =>
    cases en with
    | nil => rfl
    | cons e es =>
      simp only [List.length_cons] at h
      unfold Memory.writeEn
      rw [ih _ _ _ (by omega)]
      split
      · exact Memory.read_write_ne _ _ (by omega)
      · rfl

/-- A byte written with its enable reads its value. -/
theorem Memory.read_writeEn_inside {m : List Host.Cell} (a : Nat) (v en : List Nat) (w : Memory.wf m = true)
    {i : Nat} (hi : i < v.length) (he : i < en.length) (hn : en[i] ≠ 0) :
    Memory.read (Memory.writeEn m a v en) (a + i) = BitVec.ofNat 8 v[i] := by
  induction v generalizing m a en i with
  | nil => simp at hi
  | cons x t ih =>
    cases en with
    | nil => simp at he
    | cons e es =>
      unfold Memory.writeEn
      cases i with
      | zero =>
        have hz : e ≠ 0 := by simpa using hn
        rw [Memory.read_writeEn_outside _ _ _ _ (by omega), if_pos hz]
        exact Memory.read_write_self _ _ w
      | succ j =>
        have w2 : Memory.wf (if e ≠ 0 then Memory.write m a (BitVec.ofNat 8 x) else m) = true := by
          split
          · exact Memory.wf_write _ _ w
          · exact w
        have := ih (a + 1) es w2 (i := j) (by simpa using hi) (by simpa using he) (by simpa using hn)
        rw [show a + (j + 1) = a + 1 + j by omega]
        simpa using this

/-- A filtered list of cells keeps the canonical form. -/
theorem Memory.wfFrom_filter {m : List Host.Cell} {lo : Nat} (p : Host.Cell → Bool) (w : Memory.wfFrom lo m = true) :
    Memory.wfFrom lo (m.filter p) = true := by
  induction m generalizing lo with
  | nil => rfl
  | cons c t ih =>
    obtain ⟨a, v⟩ := c
    simp only [Memory.wfFrom, Bool.and_eq_true, decide_eq_true_eq] at w
    rw [List.filter_cons]
    split
    · simp only [Memory.wfFrom, Bool.and_eq_true, decide_eq_true_eq]
      exact ⟨w.1, ih w.2⟩
    · exact ih (Memory.wfFrom_mono (by omega) w.2)

/-- A filtered list of cells keeps the canonical form. -/
theorem Memory.wf_filter {m : List Host.Cell} (p : Host.Cell → Bool) (w : Memory.wf m = true) :
    Memory.wf (m.filter p) = true := Memory.wfFrom_filter p w

/-! ### Operations of the machine -/

/-- A fold of steps that keep the form keeps it. -/
theorem State.foldl_inv {α : Type} (f : State → α → State) (hf : ∀ s a, s.Inv → (f s a).Inv) (l : List α) {s : State}
    (h : s.Inv) : (l.foldl f s).Inv := by
  induction l generalizing s with
  | nil => exact h
  | cons a t ih => exact ih (hf _ _ h)

/-- What a write does beside its bytes leaves memory. -/
@[simp] theorem State.touched_mem (s : State) (keep : Option Nat) (pa n : Nat) : (s.touched keep pa n).mem = s.mem := rfl
/-- What a write does beside its bytes leaves the posted operations. -/
@[simp] theorem State.touched_banks (s : State) (keep : Option Nat) (pa n : Nat) : (s.touched keep pa n).banks = s.banks :=
  rfl

/-- What a write does beside its bytes keeps the form. -/
theorem State.touched_inv {s : State} (keep : Option Nat) (pa n : Nat) (h : s.Inv) : (s.touched keep pa n).Inv := h

/-- A change of a round keeps the form. -/
theorem State.modRun_inv {s : State} (ctx kh : Nat) (f : Run → Run) (h : s.Inv) : (s.modRun ctx kh f).Inv := by
  unfold State.modRun State.modKernel
  split <;> exact h

/-- A merge into a block of a codec page keeps the form. -/
theorem State.mergeBlock_inv {s : State} (cri b : Nat) (wr : Nat → Option Nat) (h : s.Inv) : (s.mergeBlock cri b wr).Inv := by
  unfold State.mergeBlock
  dsimp only
  split
  · exact h
  · exact Memory.wf_writeEn _ _ _ (State.foldl_inv _ (fun _ _ h => State.touched_inv _ _ _ h) _ (s := s.unpoison _ _) h)

/-- A write to a codec page keeps the form. -/
theorem State.merge_inv {s : State} (pa : Nat) (v en : List Nat) (h : s.Inv) : (s.merge pa v en).Inv :=
  State.foldl_inv _ (fun _ _ h => State.mergeBlock_inv _ _ _ h) _ h

/-- A write at home keeps the form. -/
theorem State.poke_inv {s : State} (pa : Nat) (v en : List Nat) (h : s.Inv) (keep : Option Nat := none) :
    (s.poke pa v en keep).Inv := by
  unfold State.poke
  split
  · split
    · exact State.merge_inv _ _ _ h
    · exact h
  · dsimp only
    split
    · exact State.merge_inv _ _ _ (State.touched_inv keep pa v.length h)
    · split <;> exact Memory.wf_writeEn _ _ _ h

/-- A number written at home keeps the form. -/
theorem State.pokeLE_inv {s : State} (pa n v : Nat) (h : s.Inv) : (s.pokeLE pa n v).Inv := State.poke_inv _ _ _ h

/-- A number that the device writes keeps the form. -/
theorem State.sysPoke_inv {s : State} (pa n v : Nat) (h : s.Inv) : (s.sysPoke pa n v).Inv := by
  unfold State.sysPoke
  split
  · exact State.pokeLE_inv _ _ _ h
  · exact h

/-- A fault of an engine keeps the form. -/
theorem State.faultEngine_inv {s : State} (en : Nat) (c : BitVec 16) (i : Nat) (h : s.Inv) : (s.faultEngine en c i).Inv := h

/-- A cause of a posted operation keeps the form. -/
theorem State.postedFault_inv {s : State} (b : BankOp) (c : BitVec 16) (i : Nat) (h : s.Inv) : (s.postedFault b c i).Inv := by
  unfold State.postedFault
  dsimp only
  split
  · split <;> exact h
  · split
    · split
      · exact State.faultEngine_inv _ _ _ h
      · exact h
    · split
      · exact State.modRun_inv _ _ _ h
      · exact h

/-- A posted operation performed keeps the form. -/
theorem State.perform_inv {s : State} (b : BankOp) (h : s.Inv) : (s.perform b).Inv := by
  unfold State.perform
  dsimp only
  split
  · exact State.poke_inv _ _ _ h _
  · split
    · exact State.postedFault_inv _ _ _ h
    · exact State.pokeLE_inv _ _ _ h

/-- Posted operations performed keep the form. -/
theorem State.drainBanks_inv {s : State} (p : BankOp → Bool) (h : s.Inv) : (s.drainBanks p).Inv :=
  State.foldl_inv State.perform (fun _ _ h => State.perform_inv _ h) (s.banks.filter p) h

/-- The settling of some bytes keeps the form. -/
theorem State.settle_inv {s : State} (pa n : Nat) (h : s.Inv) : (s.settle pa n).Inv := State.drainBanks_inv _ h

/-- A load keeps the form. -/
theorem State.load_inv {s : State} (pa n : Nat) (h : s.Inv) : (s.load pa n).2.Inv := State.settle_inv _ _ h

/-- A store keeps the form. -/
theorem State.store_inv {s : State} (src pa : Nat) (v en : List Nat) (h : s.Inv) : (s.store src pa v en).Inv := by
  unfold State.store
  dsimp only
  split
  · exact State.settle_inv _ _ h
  · exact State.poke_inv _ _ _ (State.settle_inv _ _ h) _

/-- A notification keeps the form. -/
theorem State.notice_inv {s : State} (ctx unit key : Nat) (cs : List Nat) (h : s.Inv) : (s.notice ctx unit key cs).Inv := by
  unfold State.notice
  dsimp only
  split
  · exact State.sysPoke_inv _ _ _ (State.sysPoke_inv _ _ _ (State.sysPoke_inv _ _ _ (State.sysPoke_inv _ _ _ h)))
  · exact State.sysPoke_inv _ _ _ h

/-- A counted line keeps the form. -/
theorem State.countHome_inv {s : State} (ctx clu pa : Nat) (h : s.Inv) : (s.countHome ctx clu pa).Inv := by
  unfold State.countHome
  split
  · exact h
  · dsimp only
    split
    · exact State.notice_inv _ _ _ _ h
    · exact h

/-- A write-combining buffer that drains keeps the form. -/
theorem State.wcDrain_inv {s : State} (key : Nat) (h : s.Inv) : (s.wcDrain key).Inv := by
  unfold State.wcDrain
  split
  · exact h
  · dsimp only
    have hp {t : State} (a : Nat) (v en : List Nat) (k : Option Nat) (w : Tab WcBuf) (ht : t.Inv) :
        ({ t.poke a v en k with wc := w } : State).Inv := State.poke_inv _ _ _ ht _
    split
    · exact h
    · split
      · exact State.countHome_inv _ _ _ (hp _ _ _ _ _ (State.settle_inv _ _ h))
      · exact hp _ _ _ _ _ (State.settle_inv _ _ h)

/-- What is on its way to some memory arrives and keeps the form. -/
theorem State.arriveAt_inv {s : State} (a n : Nat) (h : s.Inv) : (s.arriveAt a n).Inv :=
  State.settle_inv _ _ (State.foldl_inv _ (fun _ _ h => State.wcDrain_inv _ h) _ h)

/-- A line that comes into a pool keeps the form. -/
theorem State.poolTake_inv {s : State} (d pa : Nat) (h : s.Inv) : (s.poolTake d pa).Inv := by
  unfold State.poolTake
  split <;> exact h

/-- A request for a line, counted or not, keeps the form. -/
theorem State.countAccess_inv {s : State} (ctx clu pa : Nat) (a c : Bool) (h : s.Inv) :
    (s.countAccess ctx clu pa a c).Inv := by
  unfold State.countAccess
  have hp : (if c then s.poolTake (clu / 2) pa else s).Inv := by
    split
    · exact State.poolTake_inv _ _ h
    · exact h
  dsimp only
  split
  · exact State.countHome_inv _ _ _ hp
  · exact hp

/-- The request of an atomic operation keeps the form. -/
theorem State.countAtomic_inv {s : State} (ctx clu pa : Nat) (a : Bool) (h : s.Inv) : (s.countAtomic ctx clu pa a).Inv := by
  unfold State.countAtomic
  dsimp only
  split
  · exact State.countHome_inv _ _ _ (State.poolTake_inv _ _ h)
  · exact State.poolTake_inv _ _ h

/-- What a release waits for keeps the form. -/
theorem State.flushMine_inv {s : State} (h : s.Inv) : s.flushMine.Inv := State.drainBanks_inv _ (State.wcDrain_inv _ h)

/-- What a release of a context waits for keeps the form. -/
theorem State.flushCtx_inv {s : State} (ctx : Nat) (h : s.Inv) : (s.flushCtx ctx).Inv :=
  State.drainBanks_inv _ (State.foldl_inv _ (fun _ _ h => State.wcDrain_inv _ h) _ h)

/-- A range zeroed keeps the form. -/
theorem State.zeroRange_inv {s : State} (a n : Nat) (h : s.Inv) : (s.zeroRange a n).Inv := Memory.wf_filter _ h

/-- A signal keeps the form. -/
theorem State.signalMsix_inv {s : State} (h : s.Inv) : s.signalMsix.Inv := by
  unfold State.signalMsix
  split
  · exact h
  · split <;> exact h

/-- A command that completes keeps the form. -/
theorem State.finish_inv {s : State} (st : Nat) (h : s.Inv) : (s.finish st).Inv := by
  have hp : (if s.ringOk (s.cmdRecord + 1) true then s.pokeLE (s.cmdRecord + 1) 1 (0x80 + st) else s).Inv := by
    split
    · exact State.pokeLE_inv _ _ _ h
    · exact h
  exact State.signalMsix_inv (s := { (if s.ringOk (s.cmdRecord + 1) true then
    s.pokeLE (s.cmdRecord + 1) 1 (0x80 + st) else s) with sys := _ }) hp

end Sys2Proof.Machine
end

