-- ==== Sys2Proof/Laws/PerInstr.lean ====
section
/-! SUPPORT. What holds of each instruction as syntax: it has at most one of the four forms that are read as a whole, a
ring position, a copy entry, a queue entry or a host word. -/
namespace Sys2Proof

/-- An instruction is an op of a ring, a copy entry, a queue entry or a host word, and never two of them. -/
def Laws.OneForm.Statement (i : Instr) : Prop :=
  (if i.op?.isSome then 1 else 0) + (if i.copy?.isSome then 1 else 0) + (if i.queue?.isSome then 1 else 0)
    + (if (encodeXpleotte i).isSome then 1 else 0) ≤ 1

theorem Laws.OneForm.kld (rd rs1 : Reg) : Statement (.kld rd rs1) := Nat.le_refl 1
theorem Laws.OneForm.kfork (rd rs1 : Reg) : Statement (.kfork rd rs1) := Nat.le_refl 1
theorem Laws.OneForm.krdv (rd rs1 : Reg) : Statement (.krdv rd rs1) := Nat.le_refl 1
theorem Laws.OneForm.karg (rs1 rs2 : Reg) : Statement (.karg rs1 rs2) := Nat.le_refl 1
theorem Laws.OneForm.kstop (rs1 : Reg) : Statement (.kstop rs1) := Nat.le_refl 1
theorem Laws.OneForm.kres (rs1 : Reg) : Statement (.kres rs1) := Nat.le_refl 1
theorem Laws.OneForm.kstat (rd rs1 : Reg) : Statement (.kstat rd rs1) := Nat.le_refl 1
theorem Laws.OneForm.cstart (rd rs1 : Reg) : Statement (.cstart rd rs1) := Nat.le_refl 1
theorem Laws.OneForm.cstep (rs1 rs2 : Reg) : Statement (.cstep rs1 rs2) := Nat.le_refl 1
theorem Laws.OneForm.cwait (rs1 rs2 : Reg) : Statement (.cwait rs1 rs2) := Nat.le_refl 1
theorem Laws.OneForm.cadd (rs1 rs2 : Reg) : Statement (.cadd rs1 rs2) := Nat.le_refl 1
theorem Laws.OneForm.cstat (rd rs1 : Reg) : Statement (.cstat rd rs1) := Nat.le_refl 1
theorem Laws.OneForm.cpub (sc : Scope) (rs1 : Reg) : Statement (.cpub sc rs1) := Nat.le_refl 1
theorem Laws.OneForm.binit (rs1 rs2 : Reg) : Statement (.binit rs1 rs2) := Nat.le_refl 1
theorem Laws.OneForm.barr (rs1 : Reg) : Statement (.barr rs1) := Nat.le_refl 1
theorem Laws.OneForm.bwait (rd rs1 : Reg) : Statement (.bwait rd rs1) := Nat.le_refl 1
theorem Laws.OneForm.bpois (rs1 : Reg) : Statement (.bpois rs1) := Nat.le_refl 1
theorem Laws.OneForm.mwait (c : MwaitCond) (rd rs1 rs2 : Reg) : Statement (.mwait c rd rs1 rs2) := Nat.le_refl 1
theorem Laws.OneForm.gstep (rs1 rs2 : Reg) : Statement (.gstep rs1 rs2) := Nat.le_refl 1
theorem Laws.OneForm.gabort (rs1 rs2 : Reg) : Statement (.gabort rs1 rs2) := Nat.le_refl 1
theorem Laws.OneForm.gtab (rd rs1 : Reg) : Statement (.gtab rd rs1) := Nat.le_refl 1
theorem Laws.OneForm.lease (rd rs1 rs2 : Reg) : Statement (.lease rd rs1 rs2) := Nat.le_refl 1
theorem Laws.OneForm.qsub (rd rs1 rs2 : Reg) : Statement (.qsub rd rs1 rs2) := Nat.le_refl 1
theorem Laws.OneForm.lstart (rd rs1 rs2 : Reg) : Statement (.lstart rd rs1 rs2) := Nat.le_refl 1
theorem Laws.OneForm.lstat (rd rs1 : Reg) : Statement (.lstat rd rs1) := Nat.le_refl 1
theorem Laws.OneForm.lda (sc : Scope) (rd rs1 : Reg) : Statement (.lda sc rd rs1) := Nat.le_refl 1
theorem Laws.OneForm.stl (sc : Scope) (rs1 rs2 : Reg) : Statement (.stl sc rs1 rs2) := Nat.le_refl 1
theorem Laws.OneForm.pfence (sc : Scope) : Statement (.pfence sc) := Nat.le_refl 1
theorem Laws.OneForm.patom (op : AtomOp) (ty : AtomType) (rd rs1 rs2 : Reg) : Statement (.patom op ty rd rs1 rs2) := Nat.le_refl 1
theorem Laws.OneForm.predF32 (rs1 rs2 : Reg) : Statement (.predF32 rs1 rs2) := Nat.le_refl 1
theorem Laws.OneForm.predFx (rs1 rs2 : Reg) : Statement (.predFx rs1 rs2) := Nat.le_refl 1
theorem Laws.OneForm.stmc (rs1 rs2 : Reg) : Statement (.stmc rs1 rs2) := Nat.le_refl 1
theorem Laws.OneForm.rchk (rd rs1 : Reg) : Statement (.rchk rd rs1) := Nat.le_refl 1
theorem Laws.OneForm.sigst (rs1 rs2 : Reg) : Statement (.sigst rs1 rs2) := Nat.le_refl 1
theorem Laws.OneForm.nop (kind : PeKind) (f : OpF) : Statement (.nop kind f) := Nat.le_refl 1
theorem Laws.OneForm.mulw (f : OpF) : Statement (.mulw f) := Nat.le_refl 1
theorem Laws.OneForm.muls (f : OpF) : Statement (.muls f) := Nat.le_refl 1
theorem Laws.OneForm.mulc (f : OpF) : Statement (.mulc f) := Nat.le_refl 1
theorem Laws.OneForm.dotx (f : OpF) : Statement (.dotx f) := Nat.le_refl 1
theorem Laws.OneForm.outer (f : OpF) : Statement (.outer f) := Nat.le_refl 1
theorem Laws.OneForm.outerz (f : OpF) : Statement (.outerz f) := Nat.le_refl 1
theorem Laws.OneForm.fold (f : OpF) : Statement (.fold f) := Nat.le_refl 1
theorem Laws.OneForm.pack (f : OpF) : Statement (.pack f) := Nat.le_refl 1
theorem Laws.OneForm.xtrc (f : OpF) : Statement (.xtrc f) := Nat.le_refl 1
theorem Laws.OneForm.addw (f : OpF) : Statement (.addw f) := Nat.le_refl 1
theorem Laws.OneForm.subw (f : OpF) : Statement (.subw f) := Nat.le_refl 1
theorem Laws.OneForm.shlw (f : OpF) : Statement (.shlw f) := Nat.le_refl 1
theorem Laws.OneForm.shrw (f : OpF) : Statement (.shrw f) := Nat.le_refl 1
theorem Laws.OneForm.clzw (f : OpF) : Statement (.clzw f) := Nat.le_refl 1
theorem Laws.OneForm.rndw (f : OpF) : Statement (.rndw f) := Nat.le_refl 1
theorem Laws.OneForm.sclda (f : OpF) : Statement (.sclda f) := Nat.le_refl 1
theorem Laws.OneForm.scldb (f : OpF) : Statement (.scldb f) := Nat.le_refl 1
theorem Laws.OneForm.accrd (f : OpF) : Statement (.accrd f) := Nat.le_refl 1
theorem Laws.OneForm.accwr (f : OpF) : Statement (.accwr f) := Nat.le_refl 1
theorem Laws.OneForm.accclr (f : OpF) : Statement (.accclr f) := Nat.le_refl 1
theorem Laws.OneForm.drn (f : OpF) : Statement (.drn f) := Nat.le_refl 1
theorem Laws.OneForm.bsel (f : OpF) : Statement (.bsel f) := Nat.le_refl 1
theorem Laws.OneForm.rowp (f : OpF) : Statement (.rowp f) := Nat.le_refl 1
theorem Laws.OneForm.gwset (f : OpF) : Statement (.gwset f) := Nat.le_refl 1
theorem Laws.OneForm.cset (f : OpF) : Statement (.cset f) := Nat.le_refl 1
theorem Laws.OneForm.add (f : OpF) : Statement (.add f) := Nat.le_refl 1
theorem Laws.OneForm.sub (f : OpF) : Statement (.sub f) := Nat.le_refl 1
theorem Laws.OneForm.adds (f : OpF) : Statement (.adds f) := Nat.le_refl 1
theorem Laws.OneForm.subs (f : OpF) : Statement (.subs f) := Nat.le_refl 1
theorem Laws.OneForm.mul (f : OpF) : Statement (.mul f) := Nat.le_refl 1
theorem Laws.OneForm.mulh (f : OpF) : Statement (.mulh f) := Nat.le_refl 1
theorem Laws.OneForm.mad (f : OpF) : Statement (.mad f) := Nat.le_refl 1
theorem Laws.OneForm.min (f : OpF) : Statement (.min f) := Nat.le_refl 1
theorem Laws.OneForm.max (f : OpF) : Statement (.max f) := Nat.le_refl 1
theorem Laws.OneForm.abs (f : OpF) : Statement (.abs f) := Nat.le_refl 1
theorem Laws.OneForm.neg (f : OpF) : Statement (.neg f) := Nat.le_refl 1
theorem Laws.OneForm.and (f : OpF) : Statement (.and f) := Nat.le_refl 1
theorem Laws.OneForm.or (f : OpF) : Statement (.or f) := Nat.le_refl 1
theorem Laws.OneForm.xor (f : OpF) : Statement (.xor f) := Nat.le_refl 1
theorem Laws.OneForm.andn (f : OpF) : Statement (.andn f) := Nat.le_refl 1
theorem Laws.OneForm.shl (f : OpF) : Statement (.shl f) := Nat.le_refl 1
theorem Laws.OneForm.shr (f : OpF) : Statement (.shr f) := Nat.le_refl 1
theorem Laws.OneForm.sra (f : OpF) : Statement (.sra f) := Nat.le_refl 1
theorem Laws.OneForm.rot (f : OpF) : Statement (.rot f) := Nat.le_refl 1
theorem Laws.OneForm.cmp (f : OpF) : Statement (.cmp f) := Nat.le_refl 1
theorem Laws.OneForm.sel (f : OpF) : Statement (.sel f) := Nat.le_refl 1
theorem Laws.OneForm.cnt (f : OpF) : Statement (.cnt f) := Nat.le_refl 1
theorem Laws.OneForm.lzc (f : OpF) : Statement (.lzc f) := Nat.le_refl 1
theorem Laws.OneForm.fadd (f : OpF) : Statement (.fadd f) := Nat.le_refl 1
theorem Laws.OneForm.fsub (f : OpF) : Statement (.fsub f) := Nat.le_refl 1
theorem Laws.OneForm.fmul (f : OpF) : Statement (.fmul f) := Nat.le_refl 1
theorem Laws.OneForm.fma (f : OpF) : Statement (.fma f) := Nat.le_refl 1
theorem Laws.OneForm.fmin (f : OpF) : Statement (.fmin f) := Nat.le_refl 1
theorem Laws.OneForm.fmax (f : OpF) : Statement (.fmax f) := Nat.le_refl 1
theorem Laws.OneForm.fcmp (f : OpF) : Statement (.fcmp f) := Nat.le_refl 1
theorem Laws.OneForm.frcp (f : OpF) : Statement (.frcp f) := Nat.le_refl 1
theorem Laws.OneForm.frsq (f : OpF) : Statement (.frsq f) := Nat.le_refl 1
theorem Laws.OneForm.fexp2 (f : OpF) : Statement (.fexp2 f) := Nat.le_refl 1
theorem Laws.OneForm.flog2 (f : OpF) : Statement (.flog2 f) := Nat.le_refl 1
theorem Laws.OneForm.fcvt (f : OpF) : Statement (.fcvt f) := Nat.le_refl 1
theorem Laws.OneForm.bcast (f : OpF) : Statement (.bcast f) := Nat.le_refl 1
theorem Laws.OneForm.perm (f : OpF) : Statement (.perm f) := Nat.le_refl 1
theorem Laws.OneForm.shufl (f : OpF) : Statement (.shufl f) := Nat.le_refl 1
theorem Laws.OneForm.rsum (f : OpF) : Statement (.rsum f) := Nat.le_refl 1
theorem Laws.OneForm.rmax (f : OpF) : Statement (.rmax f) := Nat.le_refl 1
theorem Laws.OneForm.rmin (f : OpF) : Statement (.rmin f) := Nat.le_refl 1
theorem Laws.OneForm.zip (f : OpF) : Statement (.zip f) := Nat.le_refl 1
theorem Laws.OneForm.unzip (f : OpF) : Statement (.unzip f) := Nat.le_refl 1
theorem Laws.OneForm.ext (f : OpF) : Statement (.ext f) := Nat.le_refl 1
theorem Laws.OneForm.tunp (f : OpF) : Statement (.tunp f) := Nat.le_refl 1
theorem Laws.OneForm.tacc (f : OpF) : Statement (.tacc f) := Nat.le_refl 1
theorem Laws.OneForm.sat (f : OpF) : Statement (.sat f) := Nat.le_refl 1
theorem Laws.OneForm.clamp (f : OpF) : Statement (.clamp f) := Nat.le_refl 1
theorem Laws.OneForm.mov (f : OpF) : Statement (.mov f) := Nat.le_refl 1
theorem Laws.OneForm.mask (f : OpF) : Statement (.mask f) := Nat.le_refl 1
theorem Laws.OneForm.iota (f : OpF) : Statement (.iota f) := Nat.le_refl 1
theorem Laws.OneForm.lut (f : OpF) : Statement (.lut f) := Nat.le_refl 1
theorem Laws.OneForm.pset (f : OpF) : Statement (.pset f) := Nat.le_refl 1
theorem Laws.OneForm.pcmp (f : OpF) : Statement (.pcmp f) := Nat.le_refl 1
theorem Laws.OneForm.pand (f : OpF) : Statement (.pand f) := Nat.le_refl 1
theorem Laws.OneForm.por (f : OpF) : Statement (.por f) := Nat.le_refl 1
theorem Laws.OneForm.pnot (f : OpF) : Statement (.pnot f) := Nat.le_refl 1
theorem Laws.OneForm.iter (f : OpF) : Statement (.iter f) := Nat.le_refl 1
theorem Laws.OneForm.vcc (f : OpF) : Statement (.vcc f) := Nat.le_refl 1
theorem Laws.OneForm.sadd (f : OpF) : Statement (.sadd f) := Nat.le_refl 1
theorem Laws.OneForm.ssub (f : OpF) : Statement (.ssub f) := Nat.le_refl 1
theorem Laws.OneForm.sshl (f : OpF) : Statement (.sshl f) := Nat.le_refl 1
theorem Laws.OneForm.speBarr (f : OpF) : Statement (.speBarr f) := Nat.le_refl 1
theorem Laws.OneForm.bwt (f : OpF) : Statement (.bwt f) := Nat.le_refl 1
theorem Laws.OneForm.speSigst (f : OpF) : Statement (.speSigst f) := Nat.le_refl 1
theorem Laws.OneForm.kexit (f : OpF) : Statement (.kexit f) := Nat.le_refl 1
theorem Laws.OneForm.trapk (f : OpF) : Statement (.trapk f) := Nat.le_refl 1
theorem Laws.OneForm.speHint (f : OpF) : Statement (.speHint f) := Nat.le_refl 1
theorem Laws.OneForm.ld (f : OpF) : Statement (.ld f) := Nat.le_refl 1
theorem Laws.OneForm.ldk (f : OpF) : Statement (.ldk f) := Nat.le_refl 1
theorem Laws.OneForm.unf (f : OpF) : Statement (.unf f) := Nat.le_refl 1
theorem Laws.OneForm.st (f : OpF) : Statement (.st f) := Nat.le_refl 1
theorem Laws.OneForm.stk (f : OpF) : Statement (.stk f) := Nat.le_refl 1
theorem Laws.OneForm.ldx (f : OpF) : Statement (.ldx f) := Nat.le_refl 1
theorem Laws.OneForm.stx (f : OpF) : Statement (.stx f) := Nat.le_refl 1
theorem Laws.OneForm.lds (f : OpF) : Statement (.lds f) := Nat.le_refl 1
theorem Laws.OneForm.sts (f : OpF) : Statement (.sts f) := Nat.le_refl 1
theorem Laws.OneForm.atm (f : OpF) : Statement (.atm f) := Nat.le_refl 1
theorem Laws.OneForm.sbar (f : OpF) : Statement (.sbar f) := Nat.le_refl 1
theorem Laws.OneForm.sadv (f : OpF) : Statement (.sadv f) := Nat.le_refl 1
theorem Laws.OneForm.pfh (f : OpF) : Statement (.pfh f) := Nat.le_refl 1
theorem Laws.OneForm.wsync (f : OpF) : Statement (.wsync f) := Nat.le_refl 1
theorem Laws.OneForm.vmsk (f : OpF) : Statement (.vmsk f) := Nat.le_refl 1
theorem Laws.OneForm.dcvsOp (f : OpF) : Statement (.dcvsOp f) := Nat.le_refl 1
theorem Laws.OneForm.mpx8 (f : OpF) : Statement (.mpx8 f) := Nat.le_refl 1
theorem Laws.OneForm.mpx16 (f : OpF) : Statement (.mpx16 f) := Nat.le_refl 1
theorem Laws.OneForm.dld (dd : BitVec 4) : Statement (.dld dd) := Nat.zero_le 1
theorem Laws.OneForm.dldStream (dd : BitVec 4) (m : Bool) (st : BitVec 4) : Statement (.dldStream dd m st) := Nat.zero_le 1
theorem Laws.OneForm.dscl (dd da db : BitVec 4) (lt rm : BitVec 2) (sat : Bool) (j : BitVec 4) : Statement (.dscl dd da db lt rm sat j) := Nat.zero_le 1
theorem Laws.OneForm.dbias (dd da db : BitVec 4) (lt rm : BitVec 2) (sat : Bool) (nb : BitVec 4) : Statement (.dbias dd da db lt rm sat nb) := Nat.zero_le 1
theorem Laws.OneForm.dact (dd da db : BitVec 4) (rm : BitVec 2) (sat : Bool) (fn : BitVec 2) : Statement (.dact dd da db rm sat fn) := Nat.zero_le 1
theorem Laws.OneForm.dclp (dd da db : BitVec 4) (lt : BitVec 2) (j : BitVec 4) : Statement (.dclp dd da db lt j) := Nat.zero_le 1
theorem Laws.OneForm.dmax (dd da db : BitVec 4) (lt : BitVec 2) (abs : Bool) : Statement (.dmax dd da db lt abs) := Nat.zero_le 1
theorem Laws.OneForm.dmaxGrp (dd da : BitVec 4) (lt : BitVec 2) (abs : Bool) : Statement (.dmaxGrp dd da lt abs) := Nat.zero_le 1
theorem Laws.OneForm.dqnt (dd da : BitVec 4) (fmt : BitVec 4) (sat : Bool) (rm : BitVec 2) : Statement (.dqnt dd da fmt sat rm) := Nat.zero_le 1
theorem Laws.OneForm.dqntScl (dd da db : BitVec 4) (fmt : BitVec 4) (sat : Bool) (rm : BitVec 2) : Statement (.dqntScl dd da db fmt sat rm) := Nat.zero_le 1
theorem Laws.OneForm.dqntMks (dd da : BitVec 4) (fmt : BitVec 4) (sat : Bool) (rm : BitVec 2) : Statement (.dqntMks dd da fmt sat rm) := Nat.zero_le 1
theorem Laws.OneForm.dcvt (dd da db : BitVec 4) (dlt rm : BitVec 2) (sat : Bool) (slt : BitVec 2) (hi : Bool) : Statement (.dcvt dd da db dlt rm sat slt hi) := Nat.zero_le 1
theorem Laws.OneForm.dpack (dd da : BitVec 4) (cs : BitVec 2) : Statement (.dpack dd da cs) := Nat.zero_le 1
theorem Laws.OneForm.dmpk (dd da : BitVec 4) (nz80 w16 : Bool) : Statement (.dmpk dd da nz80 w16) := Nat.zero_le 1
theorem Laws.OneForm.dst (da : BitVec 4) (gf m : Bool) (st : BitVec 4) : Statement (.dst da gf m st) := Nat.zero_le 1
theorem Laws.OneForm.dloop (g : BitVec 4) : Statement (.dloop g) := Nat.zero_le 1
theorem Laws.OneForm.dmov (dd da : BitVec 4) : Statement (.dmov dd da) := Nat.zero_le 1
theorem Laws.OneForm.dmovImm (dd : BitVec 4) (fl : Bool) (v : BitVec 12) : Statement (.dmovImm dd fl v) := Nat.zero_le 1
theorem Laws.OneForm.dadd (dd da db : BitVec 4) (lt rm : BitVec 2) (sat : Bool) : Statement (.dadd dd da db lt rm sat) := Nat.zero_le 1
theorem Laws.OneForm.dmul (dd da db : BitVec 4) (lt rm : BitVec 2) (sat : Bool) : Statement (.dmul dd da db lt rm sat) := Nat.zero_le 1
theorem Laws.OneForm.dsel (dd da db : BitVec 4) (lt : BitVec 2) : Statement (.dsel dd da db lt) := Nat.zero_le 1
theorem Laws.OneForm.dcvs (dd da : BitVec 4) (q : BitVec 2) (sat : Bool) (tgt : BitVec 3) : Statement (.dcvs dd da q sat tgt) := Nat.zero_le 1
theorem Laws.OneForm.dtab (dd da db : BitVec 4) (rm : BitVec 2) (sat : Bool) : Statement (.dtab dd da db rm sat) := Nat.zero_le 1
theorem Laws.OneForm.foldComplete (core : Nat) (cpe bank : Bool) : Statement (.foldComplete core cpe bank) := Nat.zero_le 1
theorem Laws.OneForm.placementPass (cluster : Nat) : Statement (.placementPass cluster) := Nat.zero_le 1
theorem Laws.OneForm.streamFillReturn (core : Nat) (m : Bool) (st pos : Nat) : Statement (.streamFillReturn core m st pos) := Nat.zero_le 1
theorem Laws.OneForm.remoteArrival (n : Nat) : Statement (.remoteArrival n) := Nat.zero_le 1
theorem Laws.OneForm.faultTimeout (ctx fid : Nat) : Statement (.faultTimeout ctx fid) := Nat.zero_le 1
theorem Laws.OneForm.move (e : CopyEnt) : Statement (.move e) := Nat.le_refl 1
theorem Laws.OneForm.movec (e : CopyEnt) : Statement (.movec e) := Nat.le_refl 1
theorem Laws.OneForm.gath (e : CopyEnt) : Statement (.gath e) := Nat.le_refl 1
theorem Laws.OneForm.scat (e : CopyEnt) : Statement (.scat e) := Nat.le_refl 1
theorem Laws.OneForm.fill (e : CopyEnt) : Statement (.fill e) := Nat.le_refl 1
theorem Laws.OneForm.redu (e : CopyEnt) : Statement (.redu e) := Nat.le_refl 1
theorem Laws.OneForm.pub (e : CopyEnt) : Statement (.pub e) := Nat.le_refl 1
theorem Laws.OneForm.copyCnt (e : CopyEnt) : Statement (.copyCnt e) := Nat.le_refl 1
theorem Laws.OneForm.waits (e : CopyEnt) : Statement (.waits e) := Nat.le_refl 1
theorem Laws.OneForm.predBankAdd (n : Nat) : Statement (.predBankAdd n) := Nat.zero_le 1
theorem Laws.OneForm.atmBankOp (n : Nat) : Statement (.atmBankOp n) := Nat.zero_le 1
theorem Laws.OneForm.codecMerge (n : Nat) : Statement (.codecMerge n) := Nat.zero_le 1
theorem Laws.OneForm.wcBufferDrain (n : Nat) : Statement (.wcBufferDrain n) := Nat.zero_le 1
theorem Laws.OneForm.uncorrectableError (pa : Nat) : Statement (.uncorrectableError pa) := Nat.zero_le 1
theorem Laws.OneForm.channelFail (ch : Nat) : Statement (.channelFail ch) := Nat.zero_le 1
theorem Laws.OneForm.inval (h : Nat) (va pages : Word) : Statement (.inval h va pages) := Nat.zero_le 1
theorem Laws.OneForm.frameset (pa count attr : Word) : Statement (.frameset pa count attr) := Nat.zero_le 1
theorem Laws.OneForm.replay (h : Nat) (fid : Word) : Statement (.replay h fid) := Nat.zero_le 1
theorem Laws.OneForm.abort (h : Nat) (fid : Word) : Statement (.abort h fid) := Nat.zero_le 1
theorem Laws.OneForm.create (h : Nat) (obj : Word) : Statement (.create h obj) := Nat.zero_le 1
theorem Laws.OneForm.start (h : Nat) : Statement (.start h) := Nat.zero_le 1
theorem Laws.OneForm.save (h : Nat) : Statement (.save h) := Nat.zero_le 1
theorem Laws.OneForm.restore (h : Nat) : Statement (.restore h) := Nat.zero_le 1
theorem Laws.OneForm.kill (h : Nat) : Statement (.kill h) := Nat.zero_le 1
theorem Laws.OneForm.assign (res : BitVec 8) (h : Nat) (first count : Word) : Statement (.assign res h first count) := Nat.zero_le 1
theorem Laws.OneForm.reclaim (res : BitVec 8) (h : Nat) (first count mask : Word) : Statement (.reclaim res h first count mask) := Nat.zero_le 1
theorem Laws.OneForm.qctlEnable (h q : Nat) : Statement (.qctlEnable h q) := Nat.zero_le 1
theorem Laws.OneForm.qctlDisable (h q : Nat) : Statement (.qctlDisable h q) := Nat.zero_le 1
theorem Laws.OneForm.qctlReset (h q : Nat) : Statement (.qctlReset h q) := Nat.zero_le 1
theorem Laws.OneForm.fwload (pa len : Word) : Statement (.fwload pa len) := Nat.zero_le 1
theorem Laws.OneForm.fwCommit (v : Word) : Statement (.fwCommit v) := Nat.zero_le 1
theorem Laws.OneForm.arbiterAck (h n : Nat) : Statement (.arbiterAck h n) := Nat.zero_le 1
theorem Laws.OneForm.kickWrite (pqn : Nat) (v : Word) (bytes : Nat) : Statement (.kickWrite pqn v bytes) := Nat.zero_le 1
theorem Laws.OneForm.launch (e : QEnt) : Statement (.launch e) := Nat.le_refl 1
theorem Laws.OneForm.timetable (e : QEnt) : Statement (.timetable e) := Nat.le_refl 1
theorem Laws.OneForm.copy (e : QEnt) : Statement (.copy e) := Nat.le_refl 1
theorem Laws.OneForm.lane (e : QEnt) : Statement (.lane e) := Nat.le_refl 1
theorem Laws.OneForm.wait (e : QEnt) : Statement (.wait e) := Nat.le_refl 1
theorem Laws.OneForm.signal (e : QEnt) : Statement (.signal e) := Nat.le_refl 1
theorem Laws.OneForm.mark (e : QEnt) : Statement (.mark e) := Nat.le_refl 1
theorem Laws.OneForm.fence (e : QEnt) : Statement (.fence e) := Nat.le_refl 1
theorem Laws.OneForm.queueEntryComplete (idx : Nat) : Statement (.queueEntryComplete idx) := Nat.zero_le 1
theorem Laws.OneForm.timetableUnitStart (idx unit : Nat) : Statement (.timetableUnitStart idx unit) := Nat.zero_le 1
theorem Laws.OneForm.registerWrite (src : RegSrc) (off : Nat) (bytes : Nat) (v : Word) : Statement (.registerWrite src off bytes v) := Nat.zero_le 1
theorem Laws.OneForm.portRst (p : Nat) : Statement (.portRst p) := Nat.zero_le 1
theorem Laws.OneForm.energySelect (bar : Bool) (v : Word) : Statement (.energySelect bar v) := Nat.zero_le 1
theorem Laws.OneForm.eloRead (bar : Bool) (bytes : Nat) : Statement (.eloRead bar bytes) := Nat.zero_le 1
theorem Laws.OneForm.flashDone (err : Bool) : Statement (.flashDone err) := Nat.zero_le 1
theorem Laws.OneForm.signalStoreArrival (n : Nat) : Statement (.signalStoreArrival n) := Nat.zero_le 1
theorem Laws.OneForm.sigstAck (thr : Nat) (cause : BitVec 16) : Statement (.sigstAck thr cause) := Nat.zero_le 1
theorem Laws.OneForm.windowAccess (n : Nat) : Statement (.windowAccess n) := Nat.zero_le 1
theorem Laws.OneForm.windowResponse (eng : Nat) (cause : BitVec 16) (data : List Byte) : Statement (.windowResponse eng cause data) := Nat.zero_le 1
theorem Laws.OneForm.trainingComplete (p : Nat) (lanes : BitVec 2) : Statement (.trainingComplete p lanes) := Nat.zero_le 1
theorem Laws.OneForm.trainingTimeout (p : Nat) : Statement (.trainingTimeout p) := Nat.zero_le 1
theorem Laws.OneForm.laneLost (p : Nat) (l : Bool) : Statement (.laneLost p l) := Nat.zero_le 1
theorem Laws.OneForm.shedRetrainDone (p : Nat) : Statement (.shedRetrainDone p) := Nat.zero_le 1
theorem Laws.OneForm.shedTimeout (p : Nat) : Statement (.shedTimeout p) := Nat.zero_le 1
theorem Laws.OneForm.portWiden (p : Nat) : Statement (.portWiden p) := Nat.zero_le 1
theorem Laws.OneForm.abortToken (ctx g : Nat) (origin : Word) (reason : BitVec 16) : Statement (.abortToken ctx g origin reason) := Nat.zero_le 1
theorem Laws.OneForm.cstepReport (ctx g : Nat) (pkg step : Word) : Statement (.cstepReport ctx g pkg step) := Nat.zero_le 1
theorem Laws.OneForm.agreementTimeout (ctx g : Nat) : Statement (.agreementTimeout ctx g) := Nat.zero_le 1
theorem Laws.OneForm.agreementResult (ctx g : Nat) (step : Word) (nexcl : Nat) : Statement (.agreementResult ctx g step nexcl) := Nat.zero_le 1
theorem Laws.OneForm.meltUpdate (m : BitVec 16) : Statement (.meltUpdate m) := Nat.zero_le 1
theorem Laws.OneForm.opChange (rail : Rail) (op : BitVec 2) : Statement (.opChange rail op) := Nat.zero_le 1
theorem Laws.OneForm.thermalCritical (tj : Byte) : Statement (.thermalCritical tj) := Nat.zero_le 1
theorem Laws.OneForm.thermalRelease (tj : Byte) : Statement (.thermalRelease tj) := Nat.zero_le 1
theorem Laws.OneForm.hostInstruction (r : Rv) (compressed : Bool) : Statement (.hostInstruction r compressed) := Nat.zero_le 1
theorem Laws.OneForm.flitRefused (p : Nat) : Statement (.flitRefused p) := Nat.zero_le 1
theorem Laws.OneForm.hostLinkAgentAccess (a : LinkAccess) : Statement (.hostLinkAgentAccess a) := Nat.zero_le 1
theorem Laws.OneForm.hret : Statement (.hret) := Nat.le_refl 1
theorem Laws.OneForm.yield : Statement (.yield) := Nat.le_refl 1
theorem Laws.OneForm.lrel : Statement (.lrel) := Nat.le_refl 1
theorem Laws.OneForm.hintC : Statement (.hintC) := Nat.le_refl 1
theorem Laws.OneForm.hintM : Statement (.hintM) := Nat.le_refl 1
theorem Laws.OneForm.hintW : Statement (.hintW) := Nat.le_refl 1
theorem Laws.OneForm.poolmk : Statement (.poolmk) := Nat.le_refl 1
theorem Laws.OneForm.pfenceSc : Statement (.pfenceSc) := Nat.le_refl 1
theorem Laws.OneForm.asyncTrapDeliver : Statement (.asyncTrapDeliver) := Nat.zero_le 1
theorem Laws.OneForm.hostMissReturn : Statement (.hostMissReturn) := Nat.zero_le 1
theorem Laws.OneForm.watchFire : Statement (.watchFire) := Nat.zero_le 1
theorem Laws.OneForm.krdvWake : Statement (.krdvWake) := Nat.zero_le 1
theorem Laws.OneForm.dend : Statement (.dend) := Nat.zero_le 1
theorem Laws.OneForm.land : Statement (.land) := Nat.zero_le 1
theorem Laws.OneForm.rotate : Statement (.rotate) := Nat.zero_le 1
theorem Laws.OneForm.moveComplete : Statement (.moveComplete) := Nat.zero_le 1
theorem Laws.OneForm.forkAccepted : Statement (.forkAccepted) := Nat.zero_le 1
theorem Laws.OneForm.domainResume : Statement (.domainResume) := Nat.zero_le 1
theorem Laws.OneForm.drainBeat : Statement (.drainBeat) := Nat.zero_le 1
theorem Laws.OneForm.drainPadWrite : Statement (.drainPadWrite) := Nat.zero_le 1
theorem Laws.OneForm.faultQueueSpace : Statement (.faultQueueSpace) := Nat.zero_le 1
theorem Laws.OneForm.copyArmedStart : Statement (.copyArmedStart) := Nat.zero_le 1
theorem Laws.OneForm.copyBeat : Statement (.copyBeat) := Nat.zero_le 1
theorem Laws.OneForm.waitsSatisfied : Statement (.waitsSatisfied) := Nat.zero_le 1
theorem Laws.OneForm.fwswitch : Statement (.fwswitch) := Nat.zero_le 1
theorem Laws.OneForm.fwWatchdog : Statement (.fwWatchdog) := Nat.zero_le 1
theorem Laws.OneForm.contextLoaded : Statement (.contextLoaded) := Nat.zero_le 1
theorem Laws.OneForm.saveComplete : Statement (.saveComplete) := Nat.zero_le 1
theorem Laws.OneForm.restoreCommit : Statement (.restoreCommit) := Nat.zero_le 1
theorem Laws.OneForm.msixUnmask : Statement (.msixUnmask) := Nat.zero_le 1
theorem Laws.OneForm.outboundLock : Statement (.outboundLock) := Nat.zero_le 1
theorem Laws.OneForm.flashErase : Statement (.flashErase) := Nat.zero_le 1
theorem Laws.OneForm.flashProgram : Statement (.flashProgram) := Nat.zero_le 1
theorem Laws.OneForm.coldReset : Statement (.coldReset) := Nat.zero_le 1
theorem Laws.OneForm.intervalEnd : Statement (.intervalEnd) := Nat.zero_le 1
theorem Laws.OneForm.leaseExpiry : Statement (.leaseExpiry) := Nat.zero_le 1
theorem Laws.OneForm.laneByteStep : Statement (.laneByteStep) := Nat.zero_le 1
theorem Laws.OneForm.laneCommit : Statement (.laneCommit) := Nat.zero_le 1
theorem Laws.OneForm.meltSensorFault : Statement (.meltSensorFault) := Nat.zero_le 1

end Sys2Proof
end

