-- ==== Sys2Proof/Tests/Slice0.lean ====
section
/-! SUPPORT. Tests: words written out from the spec's encodings, ill-formed terms that `wf` refuses, and for every
statement a witness, a state and operands that meet the premises of its clauses. -/
namespace Sys2Proof.Tests
open Sys2Proof Sys2Proof.Machine
set_option Elab.async false

/-! ### Decoding: words from the rules and worked examples of 04 -/

/-- Ring words of an op with its predicate index, type, MOD, route and address words. -/
def opw (ty mod route addr : Nat) (pi : Nat := 0) : OpF :=
  ⟨BitVec.ofNat 4 pi, false, BitVec.ofNat 4 ty, BitVec.ofNat 9 mod, BitVec.ofNat 16 route, BitVec.ofNat 16 addr⟩

theorem test_decode_kld : decodeHost32 0x0005850B = .ok (.kld 10 11) := rfl
theorem test_decode_kfork : decodeHost32 0x0204828B = .ok (.kfork 5 9) := rfl
theorem test_decode_cwait : decodeHost32 0x04B5100B = .ok (.cwait 10 11) := rfl
theorem test_decode_mwait : decodeHost32 0x0CC5A50B = .ok (.mwait .geu 10 11 12) := rfl
theorem test_decode_addi : decodeHost32 0xFFF10093 = .ok (.hostInstruction (.immOp .addi 1 2 0xFFF) false) := rfl
theorem test_decode_mulc : decodeOp .cpe 0x0E4040 0x4705 0x0015 = .ok (.mulc (opw 0 0x40 0x4705 0x15 9)) := rfl
theorem test_decode_fma : decodeOp .ape 0x6E5200 0x7214 0x1819 = .ok (.fma (opw 9 0 0x7214 0x1819 9)) := rfl
theorem test_decode_ld : decodeOp .mpe 0x060A00 0xE004 0x0011 = .ok (.ld (opw 5 0 0xE004 0x11 8)) := rfl
theorem test_decode_pcmp : decodeOp .spe 0x0A4E62 0xE100 0 = .ok (.pcmp (opw 7 0x62 0xE100 0 9)) := rfl
theorem test_decode_dbias : decodeDrain 0x0C020003 = .ok (.dbias 0 0 8 0 0 false 3) := rfl

/-- One word of each group of 04 R115 and R116, from its fields. -/
theorem test_decode_groups :
    decodeHost32 0x00B5200B = .ok (.binit 10 11) ∧ decodeHost32 0x0403328B = .ok (.gtab 5 6)
    ∧ decodeHost32 0x0000400B = .ok .hret ∧ decodeHost32 0x0294538B = .ok (.lstart 7 8 9)
    ∧ decodeHost32 0x107332AB = .ok (.patom .min .s64 5 6 7) ∧ decodeHost32 0x020302AB = .ok (.lda .clu 5 6)
    ∧ decodeHost32 0x0262C02B = .ok (.predFx 5 6) ∧ decodeHost32 0x0462D02B = .ok (.sigst 5 6)
    ∧ decodeHost32 0x0000700B = .ok .poolmk ∧ decodeHost16 0x8082 = .ok (.hostInstruction (.jalr 0 1 0) true)
    ∧ decodeDrain 0x30000003 = .ok (.dloop 3) ∧ decodeOp .dpe 0x4A4002 0x4004 0 = .ok (.dcvsOp (opw 0 2 0x4004 0 9))
    := ⟨rfl, rfl, rfl, rfl, rfl, rfl, rfl, rfl, rfl, rfl, rfl, rfl⟩

/-- Records of 64 bytes: START of context 3 (17 R429), FENCE (17 R432), and CNT adding 5 to counter 2 (04 R113). -/
theorem test_decode_records :
    decodeCommand (0x11#8 :: List.replicate 7 0#8 ++ [3#8] ++ List.replicate 55 0#8) = .ok (.start 3)
    ∧ decodeQueue (0x08#8 :: List.replicate 63 0#8) = .ok (.fence ⟨false, 0, 0, 0, 0, 0, 0, 0⟩)
    ∧ decodeCopy ([0x08#8] ++ List.replicate 15 0#8 ++ [1, 0, 1, 0, 1, 0, 1, 0, 1, 0, 2, 0, 5, 0, 0, 0]
        ++ List.replicate 32 0#8) = .ok (.copyCnt ⟨0, 0, 0, 0, 0, 0, [1, 1, 1, 1, 1], 2, 5, [0, 0, 0, 0, 0],
          [0, 0, 0, 0, 0]⟩) := ⟨rfl, rfl, rfl⟩

/-- Reserved encodings are refused by name: a reserved funct7, an opcode past the map, a modifier that the op does
not have, a reserved drain opcode, a kind past the list. -/
theorem test_decode_refused :
    decodeHost32 0x0E00000B = .error .xpleotte ∧ decodeOp .spe (0x11#6 ++ 0#18) 0 0 = .error .opcode
    ∧ decodeOp .ape (0x01#6 ++ 0#5 ++ 0#4 ++ 0#9) 0 0 = .error .field ∧ decodeDrain 0xFC000000 = .error .drain
    ∧ decodeCommand (0x15#8 :: List.replicate 63 0#8) = .error .record := ⟨rfl, rfl, rfl, rfl, rfl⟩

/-! ### Ill-formed terms, one for each check -/

/-- A copy entry of unit bounds. -/
def copyEnt1 (cnt : BitVec 8) : CopyEnt :=
  ⟨0, 0, 0, 0, 0, 0, [1, 1, 1, 1, 1], cnt, 0, [0, 0, 0, 0, 0], [0, 0, 0, 0, 0]⟩

theorem test_wf_host : ([.hostInstruction (.jal 1 3) false, .hostInstruction (.branch .beq 0 0 1) false,
    .hostInstruction (.shift .slliw 1 1 32) false, .hostInstruction (.lui 1 0) true] : List Instr).all (!·.wf) = true := by
  decide +kernel
theorem test_wf_ops : ([.add (opw 0 0 0 0), .nop .dpe (opw 0 0 0 1), .outer (opw 0xB 0 0 1), .mpx8 (opw 0 0 0 0)] :
    List Instr).all (!·.wf) = true := by decide +kernel
theorem test_wf_drain : ([.dldStream 0 false 12, .dscl 0 0 0 1 0 false 0, .dbias 0 0 15 0 0 false 1,
    .dact 0 0 1 1 false 0, .dact 0 0 0 0 false 3, .dclp 0 0 0 0 15, .dqnt 0 0 8 false 0, .dqntScl 0 0 0 8 false 0, .dqntMks 0 0 8 false 0,
    .dcvt 0 0 0 0 0 false 0 false, .dpack 0 0 3, .dst 0 false false 12, .dloop 2, .dadd 0 0 0 1 1 false,
    .dmul 0 0 0 1 1 false, .dcvs 0 0 2 false 0, .dtab 0 0 14 0 false] : List Instr).all (!·.wf) = true := by
  decide +kernel
theorem test_wf_commands : ([.inval 64 0 0, .inval 0 1 0, .frameset 1 1 0, .frameset 0 0 0, .frameset 0 1 0x10,
    .replay 64 0, .abort 64 0, .create 64 0, .start 64, .save 64, .restore 64, .kill 64, .assign 3 0 0 0,
    .reclaim 0 0 0 0 1, .qctlEnable 0 64, .qctlDisable 0 64, .qctlReset 64 0] : List Instr).all (!·.wf) = true := by
  decide +kernel
theorem test_wf_events : ([.foldComplete 128 false false, .placementPass 8, .streamFillReturn 0 false 12 0,
    .faultTimeout 64 0, .uncorrectableError (2 ^ 52), .channelFail 512, .arbiterAck 64 0, .registerWrite .bar 0 3 0,
    .kickWrite 0 0 3, .eloRead true 3, .portRst 64, .sigstAck 128 0, .windowResponse 128 0 [], .trainingComplete 64 0,
    .trainingTimeout 64, .laneLost 64 false, .shedRetrainDone 64, .shedTimeout 64, .portWiden 64, .flitRefused 64,
    .abortToken 0 256 0 0, .cstepReport 64 0 0 0, .agreementTimeout 0 256, .agreementResult 0 256 0 0,
    .hostLinkAgentAccess (.snoop (2 ^ 52))] : List Instr).all (!·.wf) = true := by decide +kernel
theorem test_wf_records : ([.move { copyEnt1 255 with bounds := [1, 1, 1, 1, 0] }, .copyCnt { copyEnt1 2 with sbuf := 16 },
    .launch ⟨false, 8, 0, 0, 0, 0, 0, 0⟩, .lane ⟨false, 0, 512, 0, 0, 0, 0, 0⟩] : List Instr).all (!·.wf) = true := by
  decide +kernel

/-! ### Witnesses: ops of PE slots -/

/-- Words of an op whose operands are RRF entries 1 and 2 and latch l0. -/
def opv (ty mod : Nat) : OpF := opw ty mod 0x23C0 0x0880

/-- A PE whose operands under `opv` are a, b and c. -/
def peOf (a b c : Nat) : Pe := { rrf := BitVec.ofNat 16384 (a * 2 ^ 512 + b * 2 ^ 1024), l0 := BitVec.ofNat 512 c }

/-- A running kernel of one core in a round. -/
def kernOf (r : Run) : Kernel := { state := .running, cfg := List.replicate 16 {}, run := { r with phase := .issue } }

/-- A state that runs a kernel in context 0, an op of a slot of its core 0 on the move. -/
def onKern (k : Kernel) (slot : Nat) : State :=
  { boot := .ready, cur := { slot := slot }, ctxs := [(0, { st := .running, kernels := [(0, k)] })],
    clus := [(0, { meter := 2 ^ 20 })] }

/-- The same with a PE in the slot. -/
def onPe (p : Pe) (slot : Nat) : State := onKern (kernOf { pes := [(slot, p)] }) slot

/-- An op issues, and its environment has a property. -/
def opCheck (x : State × OpF × (OpEnv → Bool)) : Bool :=
  match x.1.opEnv x.2.1 with
  | some e => (e.k.run.predicate e.core x.2.1.pi.toNat == !x.2.1.ps) && x.2.2 e
  | none => false

theorem issues_all {l : List (State × OpF × (OpEnv → Bool))} (h : l.all opCheck = true) :
    ∀ x ∈ l, ∃ e, Issues x.1 x.2.1 e ∧ x.2.2 e = true := by
  intro x hx
  have h := List.all_eq_true.mp h x hx
  unfold opCheck at h
  split at h
  · rename_i e he
    simp only [Bool.and_eq_true, beq_iff_eq] at h
    exact ⟨e, ⟨he, h.1⟩, h.2⟩
  · cases h

theorem portLate_quiet {s : State} {f : OpF} {e : OpEnv} {kind : PeKind} {opc : Nat} (h : s.opEnv f = some e)
    (ha : f.sa < 14) (hb : f.sb < 14) (hc : f.sc < 14) : e.portLate kind opc = false := by
  have hf : e.f = f := by
    unfold State.opEnv at h
    split at h <;> simp_all
    rw [← h]
  have n (x y : Nat) (h : x < y) : x ≠ y := Nat.ne_of_lt h
  simp [OpEnv.portLate, hf, n _ _ ha, n _ _ hb, n _ _ hc, n _ _ (Nat.lt_succ_of_lt ha), n _ _ (Nat.lt_succ_of_lt hb),
    n _ _ (Nat.lt_succ_of_lt hc)]

/-- A fold at work on bank 0. -/
def folding : Pe := { peOf 7 9 0 with folds := [⟨false, 0, 0, 0, 0, 0, false⟩] }

def any (_ : OpEnv) : Bool := true

theorem witness_CpeArithmetic : ∀ x ∈ [
    (onPe (peOf 3 600 1) 5, opv 7 0x1E0, fun e => decide (e.b = 600)), (onPe {} 5, opv 8 0, any),
    (onPe {} 5, opv 1 0, fun e => cpeLegal 0x02 e.f), (onPe {} 5, opv 8 0x18, fun e => cpeLegal 0x02 e.f),
    (onPe {} 5, opv 0 0, fun e => decide (e.f.modBits 0 0 = 0)), (onPe {} 5, opv 0 1, fun e => decide (e.f.modBits 0 0 = 1)),
    (onPe {} 5, opv 1 0x41, fun e => cpeLegal 0x08 e.f), (onPe {} 5, opv 6 0x40, fun e => cpeLegal 0x09 e.f)],
    ∃ e, Issues x.1 x.2.1 e ∧ x.2.2 e = true := issues_all (by decide +kernel)

theorem witness_CpeBankAccess : (∀ x ∈ [
    (onPe (peOf 7 9 0) 5, opv 0 1, fun e => !e.portLate .cpe 0 && !(e.st.folds.any fun x => x.bank = e.st.sel && !x.done)),
    (onPe folding 5, opv 0 0, fun e => decide (e.f.modBits 0 0 = 0)),
    (onPe folding 5, opv 0 1, fun e => e.st.folds.any fun x => x.bank = e.st.sel && !x.done)],
    ∃ e, Issues x.1 x.2.1 e ∧ x.2.2 e = true)
    ∧ (255 : Nat) < 256 ∧ (9 : Nat) ≠ 0xB ∧ (({} : Pe).bank false).mode ≠ some ⟨0, 1⟩ :=
  ⟨issues_all (by decide +kernel), by decide +kernel⟩

theorem witness_CpeOuterProduct :
    ((1 : Nat) = 0 ∧ ((4 : Nat) = 1 ∨ (4 : Nat) = 2)) ∨ ((1 : Nat) = 1 ∧ ((4 : Nat) = 3 ∨ (4 : Nat) = 4))
    ∧ (({ bank1 := { mode := some ⟨1, 4⟩ } } : Pe).bank true).mode = some ⟨1, 4⟩
    ∧ (({ bank1 := { mode := some ⟨3, 10⟩ } } : Pe).bank true).mode = some ⟨3, 10⟩ ∧ (3 : Nat) = 3 ∧ (10 : Nat) = 10
    ∧ (let p : Pe := { bank1 := { mode := some ⟨1, 11⟩, fk := 15 }, folds := [⟨true, 0, 1, 0, 0, 0, false⟩] }
      (1 : Nat) ≤ 1 ∧ (p.bank true).mode = some ⟨1, 11⟩ ∧ (p.bank true).fk ≠ 0 ∧ ((p.bank true).fk.toNat + 1) % 64 = 32 / 2 ^ 1
      ∧ (p.bank false).fk = 0 ∧ p.folds.find? (fun g => g.bank = true && !g.done) = some ⟨true, 0, 1, 0, 0, 0, false⟩) := by
  decide +kernel

theorem witness_ApeIntegers : ∀ x ∈ [
    (onPe (peOf 200 9 0) 1, opv 1 0x40, fun e => e.f.tyInt), (onPe {} 1, opv 8 5, fun e => e.f.tyInt && e.f.modBits 2 0 ≤ 5),
    (onPe {} 1, opv 9 0, fun e => typeFloat e.f.ty), (onPe {} 1, opv 0xA 0, fun e => e.f.tyAny), (onPe {} 1, opv 0 0, any)],
    ∃ e, Issues x.1 x.2.1 e ∧ x.2.2 e = true := issues_all (by decide +kernel)

theorem witness_ApeFloats : ∀ x ∈ [
    (onPe (peOf 0x7F800000 1 0) 1, opv 9 0x1E0, fun e => typeFloat e.f.ty), (onPe {} 1, opv 0xA 0, fun e => typeFloat e.f.ty),
    (onPe {} 1, opv 5 2, fun e => apeLegal 0x23 e.f && typeWidth e.f.ty = typeWidth (fcvtSrc (e.f.modBits 1 0))),
    (onPe {} 1, opv 7 0, fun e => apeLegal 0x23 e.f && typeWidth e.f.ty = 64 && typeWidth (fcvtSrc (e.f.modBits 1 0)) = 32),
    (onPe {} 1, opv 9 3, fun e => apeLegal 0x23 e.f && typeWidth e.f.ty = 32 && typeWidth (fcvtSrc (e.f.modBits 1 0)) = 64)],
    ∃ e, Issues x.1 x.2.1 e ∧ x.2.2 e = true := issues_all (by decide +kernel)

theorem witness_ApeLaneMovement : ∀ x ∈ [
    (onPe (peOf 7 0 0) 1, opv 2 1, fun e => e.f.tyInt && e.f.tyAny), (onPe {} 1, opv 9 1, fun e => typeFloat e.f.ty)],
    ∃ e, Issues x.1 x.2.1 e ∧ x.2.2 e = true := issues_all (by decide +kernel)

theorem witness_ApeTernaryTables : ∀ x ∈ [
    (onPe (peOf 243 4 0) 1, opv 0xC 0, fun e => e.f.typ = 0xC && e.b % 2 ^ 64 ≤ 4),
    (onPe (peOf 0 5 0) 1, opv 0xC 0, fun e => e.f.typ = 0xC && 5 ≤ e.b % 2 ^ 64),
    (onPe {} 1, opv 2 0, fun e => decide (e.f.typ = 2)), (onPe {} 1, opv 1 7, fun e => apeLegal 0x2F e.f),
    (onPe {} 1, opv 8 0, fun e => e.f.tyInt), (onPe {} 1, opv 0xA 0, fun e => typeFloat e.f.ty)],
    ∃ e, Issues x.1 x.2.1 e ∧ x.2.2 e = true := issues_all (by decide +kernel)

theorem witness_SpePredicates : (∀ x ∈ [(onPe {} 12, opv 0 0x1E0, any), (onPe {} 12, opv 7 0x1E3, any)],
    ∃ e, Issues x.1 x.2.1 e ∧ x.2.2 e = true)
    ∧ (onPe {} 12).kernel? 0 0 = some (kernOf { pes := [(12, {})] }) ∧ (7 : Nat) ≤ 7 ∧ (1 : Nat) ≤ 1 :=
  ⟨issues_all (by decide +kernel), by decide +kernel⟩

/-- The SPE op on the move at a kernel with barrier word w at barrier 0, in strict mode or not, of two cores. -/
def onBar (a b : Nat) (w : Word) (strict : Bool) : State :=
  let k := kernOf { pes := [(12, peOf a b 0)], strict := strict }
  onKern { k with cfg := List.replicate 32 {}, desc := { cols := 2 }, bars := [(0, w)] } 12

/-- A barrier word in a state and a generation. -/
def barOf (st gen : Nat) : Word := Word.of (gen * 2 ^ 48 + st * 2 ^ 32 + 1)

theorem witness_SpeScalars : ∀ x ∈ [
    (onPe (peOf 5 64 0) 12, opv 7 1, any), (onPe (peOf 5 64 0) 12, opv 0 2, any),
    (onKern (kernOf { iter := 3, lim := 9 }) 12, opv 0 2, fun e =>
      e.f.modBits 2 0 ≤ e.k.run.iter && e.k.run.iter - e.f.modBits 2 0 < e.k.run.lim),
    (onKern (kernOf { iter := 1, lim := 9 }) 12, opv 0 2, fun e => decide (e.k.run.iter < e.f.modBits 2 0)),
    (onBar (2 ^ 14) 0 0 false, opv 0 0, fun e => decide (e.a ≥ 2 ^ 14)),
    (onBar 96 0 0 false, opv 0 0, fun e => decide (e.a % 128 > 95)),
    (onBar 256 0 0 false, opv 0 0, fun e => decide (e.a / 128 % 128 ≥ e.k.desc.cores)),
    (onBar 0 0 0 true, opv 0 0, fun e => e.k.run.strict), (onBar 0 0 0 false, opv 0 0, fun e => e.a / 128 % 128 = e.core),
    (onBar 128 0 0 false, opv 0 0, fun e => e.a / 128 % 128 ≠ e.core && e.a / 128 % 128 < e.k.desc.cores),
    (onBar 0 0 0 false, opv 0 1, fun e => decide (e.f.modBits 0 0 = 1)),
    (onBar 0 4 (barOf 1 5) false, opv 0 0, fun e => barState (e.k.bar 0) ≠ 3 && barGen (e.k.bar 0) ≠ e.b % 2 ^ 16),
    (onBar 0 4 (barOf 3 5) false, opv 0 0, fun e => barState (e.k.bar 0) = 3),
    (onBar 0 5 (barOf 1 5) false, opv 0 0, fun e => barState (e.k.bar 0) ≠ 3 && barGen (e.k.bar 0) = e.b % 2 ^ 16),
    (onBar 0 0 0 true, opv 0 0, fun e => ((onBar 0 0 0 true).spend e.k.cluster ((onBar 0 0 0 true).cost [4] 16) (.op e.ctx e.kh e.pe)).isSome),
    ({ onBar 0 0 0 true with clus := [], pow := { awt := BitVec.allOnes 40 } }, opv 0 0, fun e =>
      let s : State := { onBar 0 0 0 true with clus := [], pow := { awt := BitVec.allOnes 40 } }
      (s.spend e.k.cluster (s.cost [4] 16) (.op e.ctx e.kh e.pe)).isNone)],
    ∃ e, Issues x.1 x.2.1 e ∧ x.2.2 e = true := issues_all (by decide +kernel)

/-! ### Witnesses: MPE ops -/

/-- A page of HBM at its own address, for cluster 0. -/
def page (va : Nat) (leaf : Word := fetchLeaf) : TlbEnt := { clu := 0, asid := 0, va := va, pa := va, size := 4096, leaf := leaf }

/-- Stream 0 of MPE 0 on core 0, at the page of 0x10000, with elements of one byte. -/
def strm0 : StreamDesc := { base := 0x10000, bounds := [64, 64, 1, 1], strides := [1, 64, 0, 0] }

/-- A state in which an op of MPE 0 is on the move whose stream 0 is d in the state x. -/
def onStrm (d : StreamDesc) (x : StreamSt) (p : Pe) (slot : Nat := 0) : State :=
  { onKern { kernOf { pes := [(slot, p)], streams := [(0, x)] } with strms := [d] } slot with tlb := [page 0x10000] }

/-- A stream whose base has been translated. -/
def ready0 : StreamSt := { fmt := some ⟨0, false, 0⟩ }

/-- An op of an MPE issues, needs no port, and its stream with its environment has a property. -/
def strmCheck (x : State × OpF × (OpEnv → StreamDesc → StreamSt → Bool)) : Bool :=
  x.2.1.sa < 14 && x.2.1.sb < 14 && x.2.1.sc < 14 && opCheck (x.1, x.2.1, fun e =>
    let key := streamKey e.core (e.slot = 3) e.f.stream
    match e.k.strm? key with
    | some d => x.2.2 e d (e.k.run.stream key)
    | none => false)

theorem streams_all {l : List (State × OpF × (OpEnv → StreamDesc → StreamSt → Bool))} (h : l.all strmCheck = true) :
    ∀ x ∈ l, ∃ e d, Issues x.1 x.2.1 e ∧ (∀ opc, e.portLate .mpe opc = false) ∧
      let key := streamKey e.core (e.slot = 3) x.2.1.stream
      e.k.strm? key = some d ∧ x.2.2 e d (e.k.run.stream key) = true := by
  intro x hx
  have h := List.all_eq_true.mp h x hx
  simp only [strmCheck, Bool.and_eq_true, decide_eq_true_eq] at h
  obtain ⟨⟨⟨ha, hb⟩, hc⟩, h⟩ := h
  obtain ⟨e, hi, h⟩ := issues_all (l := [(x.1, x.2.1, _)]) (by simpa using h) _ (List.mem_singleton.mpr rfl)
  have hf : e.f = x.2.1 := by
    have h := hi.1
    unfold State.opEnv at h
    split at h <;> simp_all
    rw [← h]
  simp only [hf] at h
  split at h
  · exact ⟨e, _, hi, fun _ => portLate_quiet hi.1 ha hb hc, ‹_›, h⟩
  · cases h

theorem witness_MpeWindowReads : ∀ x ∈ [
    (onStrm strm0 {} {}, opv 0 0, fun (_ : OpEnv) (_ : StreamDesc) (x : StreamSt) => !x.wordLate (x.u / 64)),
    (onStrm strm0 {} {}, opv 0 2, fun e _ x => e.f.modBits 1 0 = 2 && !x.wordLate (x.u / 64)),
    (onStrm strm0 { fills := [{ word := 0 }] } {}, opv 0 1, fun _ _ x => x.wordLate (x.u / 64)),
    (onStrm strm0 {} (peOf 1 0 0), opv 0 0, fun e _ x => decide ((x.u : Int) + 64 * sx e.a 16 ≥ x.u + x.pref)),
    (onStrm strm0 { u := 64 } (peOf 0xFFFF 0 0), opv 0 0, fun e d x => let p : Int := x.u + 64 * sx e.a 16
      p < x.u + x.pref && p < 64 * d.tail x && !x.wordLate (p / 64).toNat),
    (onStrm strm0 {} {}, opv 0 0, fun e d x => let p : Int := x.u + 64 * sx e.a 16
      p < x.u + x.pref && 64 * d.tail x ≤ p && !x.wordLate (p / 64).toNat && !e.k.headLate e.core e.slot e.f.stream)],
    ∃ e d, Issues x.1 x.2.1 e ∧ (∀ opc, e.portLate .mpe opc = false) ∧
      let key := streamKey e.core (e.slot = 3) x.2.1.stream
      e.k.strm? key = some d ∧ x.2.2 e d (e.k.run.stream key) = true := streams_all (by decide +kernel)

/-- A STORE stream in a state, with operands a, b, c. -/
def onStore (u : Nat) (a b c : Nat) : State := onStrm { strm0 with store := true, ret := 64 } { ready0 with u := u } (peOf a b c)

/-- The words of the op find their translations, and a plan is paid for. -/
def paidPlan (s : State) (e : OpEnv) (p : StorePlan) : Bool :=
  p.wait.isNone && p.walks.isEmpty && !p.held && !e.k.run.heldNow (streamKey e.core (e.slot = 3) e.f.stream)
    && (s.spend e.k.cluster (s.cost [0] p.near.length) (.op e.ctx e.kh e.pe)).isSome

theorem witness_MpeStores : ∀ x ∈ [
    (onStore 0 5 0 0, opv 0 0, fun e d x => let s := onStore 0 5 0 0
      x.fmt.isSome && !x.failed && !d.full x
        && paidPlan s e (s.storePlan e.ctx e.k x (d.storeElems x (x.u / 64) (BitVec.ofNat 512 e.a)))),
    (onStrm { strm0 with store := true, ret := 2 ^ 21 } { ready0 with u := 2 ^ 21, far := [{ va := 0, bytes := [], cyc := 0, ready := 0, back := true }] } {}, opv 0 0,
      fun _ d x => x.fmt.isSome && !x.failed && d.full x),
    (onStore 64 5 0 0, opv 0 0, fun e d x => let s := onStore 64 5 0 0
      64 ≤ x.u && d.tail x ≤ (x.u - 64) / 64
        && paidPlan s e (s.storePlan e.ctx e.k x (d.storeElems x ((x.u - 64) / 64) (BitVec.ofNat 512 e.a)))),
    (onStore 0 0 0 0, opv 0 0, fun e _ x => decide (x.u < 64 * (1 + e.b % 2 ^ 16))),
    (onStore 0 0 0 0, opv 0 0, fun e d x => let s := onStore 0 0 0 0
      let es := (indexLanes (d.bits x) (nth d.bounds 0 0) e.a).map fun l =>
        (l.1, d.elemVa x l.2, laneBytes (d.bits x) (BitVec.ofNat 512 e.b) l.1)
      es.length = 64 && paidPlan s e (s.storePlan e.ctx e.k x es true)),
    (onStore 0 64 3 1, opv 0 0, fun e _ _ => let s := onStore 0 64 3 1
      (s.spend e.k.cluster (s.cost [0] 64) (.op e.ctx e.kh e.pe)).any fun t =>
        let pa := e.k.spm e.core + 64 * (e.a / 64 % 2 ^ 15)
        e.core < e.k.desc.cores && !e.k.run.strict && t.banks.isEmpty && (t.readError pa 64).isNone
          && (List.range 64).all fun i => !t.isCodec (pa + i)),
    (onStore 0 (2 ^ 21) 0 0, opv 0 1, fun e _ _ => decide (e.k.desc.cores ≤ e.a / 2 ^ 21 % 128)),
    (onStrm strm0 ready0 {}, opv 0 0, fun e d x => e.ldxHeld x = false && (x.fmt.any fun pf => (List.range (512 / d.bits x)).all fun j =>
        let v := sx (e.a / 2 ^ (d.bits x * j)) 32
        0 ≤ v && v < ((nth d.bounds 0 0 : Nat) : Int) && match (onStrm strm0 ready0 {}).ldxLane e.ctx e.k d x pf v.toNat with
          | .ok b => decide (b < 2 ^ d.bits x)
          | _ => false))],
    ∃ e d, Issues x.1 x.2.1 e ∧ (∀ opc, e.portLate .mpe opc = false) ∧
      let key := streamKey e.core (e.slot = 3) x.2.1.stream
      e.k.strm? key = some d ∧ x.2.2 e d (e.k.run.stream key) = true := streams_all (by decide +kernel)

theorem witness_MpeControl : ∀ x ∈ [
    (onStore 0 0x10000 3 0, opv 7 0, fun (e : OpEnv) (d : StreamDesc) (_ : StreamSt) => let s := onStore 0 0x10000 3 0
      let va := e.a % 2 ^ 57 / 8 * 8
      let c := ((s.aimOf e.ctx e.k.cluster va).map s.atomClasses).getD [2]
      d.store && (s.spend e.k.cluster (s.cost c 8) (.op e.ctx e.kh e.pe)).isSome),
    (onStrm strm0 ready0 {}, opv 0 0, fun _ d x => !d.store && d.kind ≠ .indexed && !x.failed && groupWords d.deliv = 1),
    (onStrm strm0 ready0 {} 15, opv 0 4, fun e _ _ =>
      e.f.modBits 2 0 ≤ 4 && e.f.modBits 6 5 * (16 * (cvtFmt (e.f.modBits 2 0)).width)
        + 16 * (cvtFmt (e.f.modBits 2 0)).width ≤ 512),
    (onStrm strm0 { ready0 with win := [(0, { data := 0x0003 })] } {} 15, opv 0 6, fun _ d x =>
      (expandGroups (d.byteAt x) 2 2 x.bp).toOption.isSome && (expandGroups (d.byteAt x) 1 4 x.bp).toOption.isSome),
    (onStrm strm0 ready0 {} 15, opv 0 5, fun _ d x => match expandGroups (d.byteAt x) 1 4 x.bp with
      | .error p => decide (p = 0)
      | .ok _ => false)],
    ∃ e d, Issues x.1 x.2.1 e ∧ (∀ opc, e.portLate .mpe opc = false) ∧
      let key := streamKey e.core (e.slot = 3) x.2.1.stream
      e.k.strm? key = some d ∧ x.2.2 e d (e.k.run.stream key) = true := streams_all (by decide +kernel)

/-! ### Witnesses: drain words -/

/-- A drain word of core 0 is on the move: its drain state, and the beat with serial 1 and index 1. -/
def onWord (d : DrainSt) (x : StreamSt := {}) : State :=
  let s := onKern { kernOf { drains := [(0, d)], streams := [(0, x)] } with strms := [{ strm0 with store := true }] } 15
  { s with cur := { s.cur with beat := some (1, 1) }, tlb := [page 0x10000] }

/-- Drain 1 with its beat 1 of 2 in hand, past the group wall. -/
def drain1 : DrainSt :=
  { image := [0x30000000#32, 0x18000080#32, 0x34000000#32], beats := [{ serial := 1, b := 1, n := 2, data := 5, k := 1, t0 := 0, t1 := 0 }] }

/-- A drain word runs in an environment with a property. -/
def drainCheck (x : State × (DEnv → Bool)) : Bool := x.1.drainEnv.any x.2

theorem drains_all {l : List (State × (DEnv → Bool))} (h : l.all drainCheck = true) :
    ∀ x ∈ l, ∃ e, x.1.drainEnv = some e ∧ x.2 e = true := by
  intro x hx
  have h := List.all_eq_true.mp h x hx
  unfold drainCheck at h
  cases he : x.1.drainEnv with
  | none => simp [he] at h
  | some e => exact ⟨e, rfl, by simpa [he] using h⟩

theorem witness_DrainArithmetic : (onWord drain1).drainEnv.isSome = true
    ∧ typeFloat (ltTy 0) = true ∧ typeFloat (ltTy 1) = false := by decide +kernel

theorem witness_DrainConvert : ∀ x ∈ [
    (onWord drain1, fun (e : DEnv) => (e.beat.any fun b => 0 < b.n && b.k = 1) && progWall e.d.image = some 0)],
    ∃ e, x.1.drainEnv = some e ∧ x.2 e = true := drains_all (by decide +kernel)

theorem witness_DrainQuantise : ∀ x ∈ [
    (onWord { drain1 with beats := [{ serial := 1, b := 1, n := 2, data := 5, k := 0, t0 := 0, t1 := 0 }] },
      fun (e : DEnv) => match Fmt.f32.dec (laneNat 9 (e.reg 0) 0) with | .fin _ m _ => m = 0 | _ => false),
    (onWord drain1, fun e => decide (Fmt.f32.dec (laneNat 9 (e.reg 0) 0) = .nan)),
    (onWord { drain1 with regs := 0x3F800000, beats := [{ serial := 1, b := 1, n := 2, data := 5, k := 0, t0 := 0, t1 := 0 }] },
      fun e => match Fmt.f32.dec (laneNat 9 (e.reg 0) 0) with | .fin _ m _ => m ≠ 0 | _ => false)],
    ∃ e, x.1.drainEnv = some e ∧ x.2 e = true := drains_all (by decide +kernel)

/-- Drain 1 with a partial word of some bytes for stream 0. -/
def partial1 (n : Nat) : DrainSt := { drain1 with parts := [⟨1, 0, List.replicate n 7⟩], lens := List.replicate 16 64 }

theorem witness_DrainMovement : ∀ x ∈ [
    (onWord { drain1 with image := [0x30000001#32, 0x34000000#32] }, fun (e : DEnv) => e.beat.any fun b =>
      0 < b.n && b.b % b.size e.d.image ≠ 0),
    (onWord drain1 { fills := [{ word := 0 }] }, fun e => (e.k.run.stream 0).wordLate 0 && (e.k.strm? 0).isSome),
    (onWord drain1, fun e => !(e.k.run.stream 0).wordLate 0 && (e.k.strm? 0).any fun d => d.tail {} ≤ 0),
    (onWord { drain1 with lens := [1] }, fun e => (e.d.part 1 0 ++ bytesOf (e.r 0) (e.len 0)).length < 64),
    ({ onWord (partial1 64) { ready0 with u := 64 } with tlb := [] }, fun e => 64 ≤ (e.d.part 1 0 ++ bytesOf (e.r 0) (e.len 0)).length
      && match { onWord (partial1 64) { ready0 with u := 64 } with tlb := [] }.putOut e 0 ((e.d.part 1 0 ++ bytesOf (e.r 0) (e.len 0)).take 64) with
        | .go _ _ _ => false
        | .wait _ => true),
    (onWord (partial1 64) { ready0 with u := 64 }, fun e =>
      let b := e.d.part 1 0 ++ bytesOf (e.r 0) (e.len 0)
      64 ≤ b.length && match (onWord (partial1 64) { ready0 with u := 64 }).putOut e 0 (b.take 64) with
        | .go _ _ _ => true
        | .wait _ => false)],
    ∃ e, x.1.drainEnv = some e ∧ x.2 e = true := drains_all (by decide +kernel)

/-! ### Witnesses: host instructions -/

/-- Thread 0 of context 0 is on the move with values in x10 and x11; the page of 0x10000 is mapped and its first lines
are in the L1. -/
def onHost (a b : Nat) (h : Thr := {}) (c : Ctx := {}) (leaf : Word := fetchLeaf) : State :=
  { boot := .ready, thrs := [(0, { h with st := .ready, x := (h.x.set 10 (Word.of a)).set 11 (Word.of b) })],
    ctxs := [(0, { c with st := .running })], tlb := [page 0x10000 leaf],
    clus := [(0, { meter := 2 ^ 20, lines := [0x400, 0x401, 0x402, 0x403] })] }

/-- Plain memory without a posted operation, and no buffer of its own on the way. -/
def plainCheck (t : State) (pa n : Nat) : Bool :=
  t.banks.isEmpty && ((List.range n).all fun i => !t.isCodec (pa + i)) && (t.readError pa n).isNone

theorem plain_of {t : State} {pa n : Nat} (h : plainCheck t pa n = true) : t.plain pa n := by
  simp only [plainCheck, Bool.and_eq_true, Bool.not_eq_true', List.isEmpty_iff, Option.isNone_iff_eq_none,
    List.all_eq_true, List.mem_range] at h
  exact ⟨by simp [h.1.1], h.1.2, h.2⟩

/-- An access of the thread on the move reaches its place, with a property. -/
def reachCheck (s : State) (va n : Nat) (a : Acc) (q : Nat → Word → State → Bool) : Bool :=
  match s.hostXlate s.myCtx s.myClu va a with
  | .hit pa leaf w =>
    let t := if cachedPol leaf then w else w.countAccess w.myCtx w.myClu pa (leafAcnt leaf) false
    va % n = 0 && regionOf pa ≠ 3 && decide (t.cur.thr < 128) && !w.movingAt w.myCtx pa && (w.readError pa n).isNone
      && (if cachedPol leaf then w.inL1 w.myClu pa else w.me.upset.isNone) && plainCheck t pa n && t.wc.isEmpty && q pa leaf t
  | .miss _ _ => false

theorem reach_of {s : State} {va n : Nat} {a : Acc} {q : Nat → Word → State → Bool} (h : reachCheck s va n a q = true) :
    ∃ pa leaf t, HostReach s va n a pa leaf t ∧ q pa leaf t = true := by
  unfold reachCheck at h
  split at h
  · rename_i pa leaf w hx
    simp only [Bool.and_eq_true, decide_eq_true_eq, Bool.not_eq_true', List.isEmpty_iff, Option.isNone_iff_eq_none,
      decide_eq_true_eq] at h
    obtain ⟨⟨⟨⟨⟨⟨⟨⟨h1, h2⟩, h0⟩, h3⟩, h6⟩, h7⟩, hp⟩, h8⟩, h9⟩ := h
    refine ⟨pa, leaf, _, ⟨h1, h2, h0, ⟨w, hx, h3, h6, ?_, rfl⟩, plain_of hp, ?_⟩, h9⟩
    · split at h7 <;> simp_all
    · intro b hb
      rw [h8] at hb
      exact nomatch hb
  · cases h

theorem witness_HostIntegers : (onHost 7 7).me.reg 10 = (onHost 7 7).me.reg 11
    ∧ ¬(onHost 7 8).me.reg 10 = (onHost 7 8).me.reg 11 ∧ ((onHost 7 8).me.reg 10).toInt ≠ -(2 ^ 63 : Nat)
    ∧ (onHost 7 8).me.reg 11 ≠ 0 ∧ (onHost 7 0).me.reg 11 = 0 := by decide +kernel

/-- A translation misses. -/
def missCheck (s : State) (va : Nat) (a : Acc) : Bool :=
  match s.hostXlate s.myCtx s.myClu va a with
  | .miss _ _ => true
  | .hit _ _ _ => false

theorem miss_of {s : State} {va : Nat} {a : Acc} (h : missCheck s va a = true) :
    ∃ c v, s.hostXlate s.myCtx s.myClu va a = .miss c v := by
  unfold missCheck at h
  split at h
  · exact ⟨_, _, ‹_›⟩
  · cases h

theorem witness_HostLoadsStores :
    (∃ pa leaf t, HostReach (onHost 0x10000 5) 0x10000 8 .read pa leaf t ∧ decide (pa = 0x10000) = true)
    ∧ (∃ pa leaf t, HostReach (onHost 0x10000 5) 0x10000 8 .write pa leaf t
        ∧ decide (Memory.wf t.mem = true ∧ leafPol leaf ≠ 3 ∧ t.me = (onHost 0x10000 5).me) = true)
    ∧ (∃ c v, (onHost 0x20000 5).hostXlate 0 0 0x20000 .read = .miss c v)
    ∧ (∃ c v, (onHost 0x20000 5).hostXlate 0 0 0x20000 .write = .miss c v)
    ∧ ((onHost 0x10000 5).me.reg 10).toNat = 0x10000 ∧ ((onHost 0x10001 5).me.reg 10).toNat % 2 ≠ 0 := by
  refine ⟨reach_of ?_, reach_of ?_, miss_of ?_, miss_of ?_, ?_⟩ <;> decide +kernel

/-- An atomic of the thread on the move reaches its place, with a property of the state. -/
def atomCheck (s : State) (va n pa : Nat) (q : State → Bool) : Bool :=
  match s.hostXlate s.myCtx s.myClu va .atomic with
  | .hit p leaf u => va % n = 0 && p = pa && !u.movingAt u.myCtx pa && (u.readError pa n).isNone && u.me.upset.isNone
      && match u.spend u.myClu (u.cost (u.atomClasses pa) n) (.thread u.cur.thr) with
        | some w =>
          let t := w.countAtomic w.myCtx w.myClu pa (leafAcnt leaf)
          plainCheck t pa n && q t
        | none => false
  | .miss _ _ => false

theorem atom_of {s : State} {va n pa : Nat} {q : State → Bool} (h : atomCheck s va n pa q = true) :
    ∃ t, AtomReach s va n pa t ∧ q t = true := by
  unfold atomCheck at h
  split at h
  · rename_i p leaf u hx
    simp only [Bool.and_eq_true, decide_eq_true_eq, Bool.not_eq_true', Option.isNone_iff_eq_none] at h
    obtain ⟨⟨⟨⟨⟨h1, rfl⟩, h2⟩, h3⟩, h4⟩, h⟩ := h
    split at h
    · rename_i w hw
      simp only [Bool.and_eq_true] at h
      exact ⟨_, ⟨h1, leaf, u, w, hx, h2, h3, h4, hw, rfl, plain_of h.1⟩, h.2⟩
    · cases h
  · cases h

/-- An atomic or a store finds the thread as it was and memory in its form. -/
def sameThr (s t : State) : Bool := decide (Memory.wf t.mem = true ∧ t.me = s.me ∧ t.cur = s.cur ∧ t.flushMine = t)

/-- Thread 0 holds a reservation on eight bytes at 0x10000. -/
def reserved : State := { onHost 0x10000 5 with resvs := [(0, 0x10000, 8)] }

theorem witness_HostAtomics :
    (∃ pa leaf t, HostReach (onHost 0x10000 5) 0x10000 8 .read pa leaf t ∧ decide (t = onHost 0x10000 5 ∧ pa = 0x10000 ∧ t.hostPa 0x10000 .read = some pa) = true)
    ∧ (∃ pa leaf t, HostReach reserved 0x10000 8 .write pa leaf t
        ∧ decide (t = reserved ∧ Memory.wf t.mem = true ∧ leafPol leaf ≠ 3 ∧ Tab.get? t.resvs 0 = some (pa, 8)) = true)
    ∧ (∃ pa leaf t, HostReach (onHost 0x10000 5) 0x10000 8 .write pa leaf t
        ∧ decide (t = onHost 0x10000 5 ∧ Tab.get? t.resvs 0 ≠ some (pa, 8)) = true)
    ∧ (∃ pa leaf t, HostReach
        { onHost 0x10000 5 {} {} (fetchLeaf ||| 0x18#64) with resvs := [(0, 0x10000, 8)], frames := [(16, { pol := 3 })] } 0x10000 8 .write pa leaf t
        ∧ decide (leafPol leaf = 3 ∧ Tab.get? t.resvs 0 = some (pa, 8)) = true)
    ∧ reserved.plain 0x10000 8 ∧ reserved.wcClear 0x10000 8
    ∧ (∃ t, AtomReach (onHost 0x10000 5) 0x10000 4 0x10000 t ∧ sameThr (onHost 0x10000 5) t = true)
    ∧ ((onHost 0x10002 5).me.reg 10).toNat % 4 ≠ 0 := by
  refine ⟨reach_of ?_, reach_of ?_, reach_of ?_, reach_of ?_, plain_of ?_, ?_, atom_of ?_, ?_⟩
  case refine_6 => intro b hb; exact nomatch hb
  all_goals decide +kernel

theorem witness_HostFloats : ({} : State).csrRead 0x004 = none ∧ ({} : State).csrRead 0xCD3 ≠ none
    ∧ (({} : State).csrRead 0x800 = some 0 ∧ (0x800 : Nat) < 0xCC0)
    ∧ rmField 7 0x40 = some .rdn ∧ rmField 5 0 = none := by decide +kernel

/-! ### Witnesses: traps, ordering, waiting -/

/-- A read answers a value v and a state t with a property of them. -/
def Rd.holds {α : Type} (r : Rd α) (q : α → State → Bool) : Bool :=
  match r with
  | .ok v t => q v t
  | .bad _ _ => false

/-- Thread 0 with the handler at 0x10000, in a handler or not. -/
def trapped (act : Bool) (vec : Nat) (inbox pend : List AsyncCause) (holds : List Nat) : State :=
  onHost 0 0 { htvec := Word.of vec, hcause := if act then 0x40000000#64 else 0, inbox := inbox, pend := pend, holds := holds }

def cause1 : AsyncCause := ⟨0x0901#16, false, 0⟩

/-- The thread on the move may issue, and the two parcels at its program counter, each a, have a property. -/
def stopsAt (a : Nat) (q : Half16 → Half16 → Bool) : Bool :=
  let s : State := { onHost 0 0 { pc := 0x10000 } with
    mem := (List.range 4).filterMap fun i => if a / 256 ^ (i % 2) % 256 = 0 then none else some (0x10000 + i, BitVec.ofNat 8 (a / 256 ^ (i % 2))) }
  s.mayIssue 0 && s.me.inbox = [] && match s.fetchHalf s.myCtx s.myClu 0x10000 with
    | .ok (lo, p) => (match p.fetchHalf p.myCtx p.myClu 0x10002 with
      | .ok (hi, _) => q lo hi
      | .error _ => false)
    | .error _ => false

theorem witness_TrapEntry :
    ((trapped false 0x10000 [] [] []).me.act = false ∧ (trapped false 0x10000 [] [] []).me.htvec &&& ~~~3#64 ≠ 0
      ∧ ((trapped false 0x10000 [] [] []).putThr 0 { (trapped false 0x10000 [] [] []).me with
          hcause := Word.of (2 ^ 30 + 0x0513), hepc := 0, htval := 0, st := ThrSt.ready }).canFetch 0 0 0x10000 = true)
    ∧ ((trapped true 0x10000 [] [] []).me.act = true ∧ ((trapped true 0x10000 [] [] []).ctx 0).st = .running)
    ∧ ((trapped false 3 [] [] []).me.act = false ∧ (trapped false 3 [] [] []).me.htvec &&& ~~~3#64 = 0)
    ∧ (0x0513#16).toNat / 256 ≠ 4 ∧ (0x0405#16).toNat / 256 = 4
    ∧ stopsAt 0xFFFF (fun lo hi => !isCompressed lo && (decodeHost32 (hi ++ lo)).toOption.isNone) = true
    ∧ stopsAt 4 (fun lo _ => isCompressed lo && lo ≠ 0 && (decodeHost16 lo).toOption.isNone) = true := by decide +kernel

theorem witness_TrapReturn :
    (trapped true 0 [] [] [1]).me.holds ≠ [] ∧ (trapped false 0 [cause1] [] []).me.st ≠ .faultWait
    ∧ cause1.cause.toNat / 256 ≠ 4 ∧ (trapped false 0 [] [] []).me.act = false
    ∧ ((trapped true 0 [] [] []).me.act = true ∧ (trapped true 0 [] [] []).me.pend = [])
    ∧ ((trapped true 0 [] [cause1] []).me.holds = [] ∧ (trapped true 0 [] [cause1] []).me.pend = cause1 :: [])
    ∧ (trapped false 0 [cause1] [] []).me.inbox = cause1 :: []
    ∧ (trapped true 0 [cause1] (List.replicate 3 cause1) []).me.pend.length < 4
    ∧ 4 ≤ (trapped true 0 [cause1] (List.replicate 4 cause1) []).me.pend.length
    ∧ (0x0405#16).toNat / 256 = 4 ∧ (⟨0x0405#16, false, 0⟩ : AsyncCause).kt = false
    ∧ (trapped false 0 [⟨0x0405#16, false, 0⟩] [] []).me.inbox = [⟨0x0405#16, false, 0⟩] := by decide +kernel

/-- No posted operation, no write-combining buffer. -/
def quiet (t : State) : Bool := t.banks.isEmpty && (Tab.get? t.wc t.cur.thr).isNone

theorem witness_HostOrdering :
    (∃ pa leaf t, HostReach (onHost 0x10000 5) 0x10000 8 .read pa leaf t ∧ quiet t = true)
    ∧ (∃ pa leaf t, HostReach (onHost 0x10000 5) 0x10000 8 .write pa leaf t
        ∧ (quiet (onHost 0x10000 5) && quiet t && sameThr (onHost 0x10000 5) t && decide (leafPol leaf ≠ 3)) = true)
    ∧ (1#4 &&& 5#4 ≠ 0#4) ∧ (2#4 &&& 5#4 = 0#4) ∧ ((onHost 0x10004 5).me.reg 10).toNat % 8 ≠ 0 := by
  refine ⟨reach_of ?_, reach_of ?_, ?_⟩ <;> decide +kernel

/-- A replicated leaf. -/
def replLeaf : Word := fetchLeaf ||| Word.of (2 ^ 60 + 2 ^ 61)

/-- A translation answers, with a property. -/
def hitCheck (s : State) (va : Nat) (a : Acc) (multi : Bool) (q : Nat → Word → State → Bool) : Bool :=
  match s.hostXlate s.myCtx s.myClu va a multi with
  | .hit pa leaf t => q pa leaf t
  | .miss _ _ => false

theorem hit_of {s : State} {va : Nat} {a : Acc} {m : Bool} {q : Nat → Word → State → Bool} (h : hitCheck s va a m q = true) :
    ∃ pa leaf t, s.hostXlate s.myCtx s.myClu va a m = .hit pa leaf t ∧ q pa leaf t = true := by
  unfold hitCheck at h
  split at h
  · exact ⟨_, _, _, ‹_›, h⟩
  · cases h

/-- Its page has a copy on die 0 and one on die 1. -/
def replHost : State :=
  { onHost 0x10000 5 with tlb := [{ page 0x10000 replLeaf with reps := ⟨3#4, [0, 2 ^ 36, 0, 0]⟩ }] }

/-- Stores through a page of POL 3 enter a write-combining buffer. -/
theorem witness_HostStores :
    ∃ pa leaf t, { onHost 0x10000 5 {} {} (fetchLeaf ||| 0x18#64) with frames := [(16, { pol := 3 })] }.hostXlate 0 0 0x10000 .write = .hit pa leaf t
      ∧ (!t.movingAt t.myCtx pa && regionOf pa ≠ 3 && (t.failedAt pa 8).isNone && leafPol leaf = 3) = true :=
  hit_of (by decide +kernel)

theorem witness_PoolBankOperations :
    (∃ t, AtomReach (onHost 0x10000 5) 0x10000 8 0x10000 t ∧ (sameThr (onHost 0x10000 5) t
        && Memory.readLE t.mem 0x10000 8 = ((onHost 0x10000 5).me.reg 0).toNat
        && Memory.readLE t.mem 0x10000 8 ≠ ((onHost 0x10000 5).me.reg 11).toNat) = true)
    ∧ (∃ pa leaf t, replHost.hostXlate 0 0 0x10000 .write true = .hit pa leaf t
        ∧ (leafRepl leaf && (t.copies 0x10000 pa).2.length = 2
          && (t.copies 0x10000 pa).2.all fun c => t.paOk t.myCtx c.2 Acc.write.rights && (t.failedAt c.2 8).isNone && (t.readError (c.2 / 128 * 128) 128).isNone) = true)
    ∧ (∃ pa leaf t, { replHost with failedCh := [1] }.hostXlate 0 0 0x10000 .write true = .hit pa leaf t
        ∧ (leafRepl leaf && ((t.copies 0x10000 pa).2.findSome? fun c => t.failedAt c.2 8).isSome
          && (t.copies 0x10000 pa).2.all fun c => t.paOk t.myCtx c.2 Acc.write.rights) = true)
    ∧ (∃ pa leaf t, { replHost with tlb := [{ page 0x10000 replLeaf with reps := ⟨3#4, [0, 2 ^ 52, 0, 0]⟩ }] }.hostXlate 0 0
        0x10000 .write true = .hit pa leaf t
        ∧ (leafRepl leaf && (t.copies 0x10000 pa).2.any fun c => !t.paOk t.myCtx c.2 Acc.write.rights) = true)
    ∧ (∃ pa leaf t, HostReach (onHost 0x10000 5) 0x10000 8 .write pa leaf t
        ∧ decide (t = onHost 0x10000 5 ∧ leafRepl leaf = false ∧ leafPol leaf ≠ 3 ∧ Memory.wf t.mem = true
          ∧ t.readError (pa / 128 * 128) 128 = none) = true)
    ∧ ((onHost 0x10004 5).me.reg 10).toNat % 8 ≠ 0 := by
  refine ⟨atom_of ?_, hit_of ?_, hit_of ?_, hit_of ?_, reach_of ?_, ?_⟩ <;> decide +kernel

theorem witness_HostWaiting :
    (∃ pa leaf t, HostReach (onHost 0x10000 0) 0x10000 8 .read pa leaf t
      ∧ decide (cachedPol leaf = true ∧ regionOf pa ≠ 2 ∧ t.me = (onHost 0x10000 0).me
        ∧ Memory.readLE t.mem pa 8 = ((onHost 0x10000 0).me.reg 11).toNat) = true)
    ∧ (∃ pa leaf t, HostReach (onHost 0x10000 1) 0x10000 8 .read pa leaf t
      ∧ decide (Memory.readLE t.mem pa 8 ≠ ((onHost 0x10000 1).me.reg 11).toNat) = true)
    ∧ ({ thrs := [(0, { st := .mwait })] } : State).me.st = .mwait
    ∧ ({ thrs := [(0, { st := .miss 0x10000 false })] } : State).me.st = .miss 0x10000 false
    ∧ ({ thrs := [(0, { st := .bwait })] } : State).me.st = .bwait := by
  refine ⟨reach_of ?_, reach_of ?_, ?_⟩ <;> decide +kernel

/-! ### Witnesses: kernels -/

/-- A descriptor at 0x10000 of a kernel of one core whose rings hold one `nop` each, its configuration block behind
it (04 R110, R111). -/
def kernMem : List Host.Cell :=
  [(0x10000, 0x4B), (0x10001, 0x4E), (0x10002, 0x45), (0x10003, 0x4C), (0x10004, 1), (0x10006, 1), (0x10007, 1), (0x10008, 1),
    (0x10009, 1), (0x10018, 0x80), (0x1001A, 1), (0x1003C, 255), (0x1003D, 255), (0x1003E, 255), (0x1003F, 255)]
    ++ (List.range 16).flatMap fun i => [(0x100F8 + 128 * i, 1), (0x100F9 + 128 * i, 1), (0x100FA + 128 * i, 1)]

/-- Thread 0 is on the move with kernel 0 of its context in a state. -/
def withKernel (k : Kernel) (h : Thr := {}) (a : Nat := 0) (b : Nat := 0) : State :=
  onHost a b h { kernels := [(0, k)] }

/-- The same page in the pool, in explicit step 0, which context 0 holds. -/
def pooled (a b : Nat) (c : Ctx := {}) (mem : List Host.Cell := []) : State :=
  let s := onHost a b {} c
  { s with tlb := [{ page 0x10000 (Word.of (1 + 2 + 4 + 2 ^ 52 + 2 ^ 53 + poolBase)) with pa := poolBase }], steps := [(0, 0)],
           mem := mem.map fun e => (e.1 - 0x10000 + poolBase, e.2) }

/-- The kernel at 0x10000 is read, and what `kld` makes of it has a property. -/
def loads (q : Except LoadErr (Nat × Kernel) → Bool) (s : State) : Bool :=
  Rd.holds (s.readKernel 0 0 0x10000 (some 0)) fun v t => q (t.acceptKernel 0 0 v)

/-- A kernel that group 1 froze, and thread 0 with it while the group agrees on a step. -/
def agreed0 : Kernel := { state := .frozen, delivered := false, cause := 0x0704, info := Word.of (2 ^ 56) }
def awaited : State := onHost 0 0 {} { kernels := [(0, agreed0)], groups := [(1, { st := .aborting })] }

theorem witness_KernelLoad :
    ((withKernel {} {} 1).handle? 1 = none ∧ (withKernel {}).handle? 0 = some (0, {}))
    ∧ ((withKernel { state := .running }).rdvWaits 0 0 { state := .running } = true)
    ∧ ((withKernel { state := .frozen, delivered := false }).rdvWaits 0 0 { state := .frozen, delivered := false } = false
        ∧ (withKernel { state := .frozen, delivered := false }).me.act = false)
    ∧ (awaited.rdvWaits 0 0 agreed0 = false ∧ awaited.undecided 0 agreed0 = true ∧ awaited.me.act = false)
    ∧ loads (fun r => !r.toBool) (pooled 0x10000 0) = true
    ∧ loads Except.toBool (pooled 0x10000 0 {} kernMem) = true
    ∧ loads (fun r => !r.toBool) { pooled 0x10000 0 {} kernMem with limits := { coreret := BitVec.allOnes 1024 } } = true := by
  decide +kernel

/-- Thread 0 waits on a fork of kernel 0, whose instruction stands at its program counter. -/
def forkWaits : State :=
  { pooled 0 0 with thrs := [(0, { st := .kfork 0, pc := 0x10000 })],
                    mem := [(poolBase, 0x8B), (poolBase + 1, 0x82), (poolBase + 2, 4), (poolBase + 3, 2)] }

theorem witness_KernelFork :
    ((withKernel {} {} 1).handle? 1 = none ∧ (withKernel {}).handle? 0 = some (0, {}))
    ∧ (withKernel { state := .loaded }).pow.hold = false
    ∧ (withKernel { state := .loaded, desc := { gslot := [3#8, 255#8, 255#8, 255#8] } }).forkGroup 0
        { state := .loaded, desc := { gslot := [3#8, 255#8, 255#8, 255#8] } } = some 3
    ∧ (withKernel { state := .retired }).forkGroup 0 { state := .retired } = none
    ∧ Rd.holds ((withKernel { state := .retired }).forkReads 0 { state := .retired } (some 0)) (fun v t =>
        v.1.toBool && t.me = (withKernel { state := .retired }).me && t.forkReady 0 0 { state := .retired }) = true
    ∧ (match (forkWaits.putThr 0 { forkWaits.me with st := ThrSt.ready }).fetch with
        | .instr i _ => decide (i = .kfork 5 9)
        | .stop _ _ => false) = true
    ∧ (8 : Nat) % 16 ≠ 0
    ∧ Rd.holds ((pooled 0 0x10000 { kernels := [(0, {})] } [(0x10000, 1), (0x10011, 0xFF), (0x10018, 5)]).readArgs 0 0 0x10000 {} (some 0))
        (fun v t => v.toBool && t.me = (pooled 0 0x10000).me) = true
    ∧ field ((List.replicate 17 0#8) ++ [0xFF#8]) 0x11 1 = 0xFF
    ∧ 16 * field (List.replicate 32 15#8) 0x10 1 + field (List.replicate 32 15#8) 0x11 1 < (List.replicate 256 ({} : SlotCfg)).length :=
  by decide +kernel

/-! ### Witnesses: barriers, groups -/

theorem witness_BarrierWords : (1 : Nat) ≤ 4095 ∧ (4095 : Nat) < 4096 ∧ barState 0 = 0 ∧ barState (barOf 1 5) = 1
    ∧ barArrived (barOf 1 5) + 1 = barExpect (barOf 1 5) ∧ barAuto (barOf 1 5) = false
    ∧ barAuto (barOf 1 5 ||| 0x400000000#64) = true ∧ barArrived (barOf 1 5 + 1) + 1 < barExpect (barOf 1 5 + 1)
    ∧ barState (barOf 2 5) = 2 ∧ barState (barOf 3 5) = 3 ∧ (1 : Nat) ≤ barArrived (barOf 1 5 + 0x10000) := by decide +kernel

/-- Kernel 0 of the thread's context is RUNNING with barrier word w at barrier 0; the thread holds a token. -/
def onBarrier (w : Word) (tok : Option (Word × BitVec 16)) : State := withKernel { state := .running, bars := [(0, w)] } { token := tok }

theorem witness_BarrierInstructions :
    (onBarrier 0 none).hostBar 0 (2 ^ 14) = none ∧ (onBarrier (barOf 1 5) none).hostBar 0 0 = some (0, 0, barOf 1 5)
    ∧ (onBarrier (barOf 1 5) none).midCycle 0 0 = false
    ∧ (withKernel (kernOf {})).midCycle 0 0 = true ∧ (withKernel (kernOf {})).hostBar 0 0 = some (0, 0, 0)
    ∧ (0x1FFF#64).toNat < 2 ^ 13 ∧ (0x1FFF#64).toNat % 4096 ≠ 0 ∧ (0x1000#64).toNat % 4096 = 0
    ∧ barState (barOf 2 5) = 2 ∧ barState (barOf 1 5) ≠ 2 ∧ barState (barOf 3 5) = 3
    ∧ (onBarrier (barOf 1 5) (some (0, 5))).me.token = some (0, 5) ∧ barGen (barOf 1 5) = (5#16).toNat
    ∧ barGen (barOf 1 5) ≠ (4#16).toNat := by decide +kernel

/-- Group g of context 0 with its threads elsewhere. -/
def onGroup (g : Nat) (x : Group) (a b : Nat := 0) : State := onHost a b {} { groups := [(g, x)] }

theorem witness_GroupInstructions :
    (255 : Nat) < 256 ∧ ((onGroup 255 {}).group 0 255).st = .free ∧ ((onGroup 255 { st := .filled }).group 0 255).st = .filled
    ∧ ((onGroup 0 { st := .active }).group 0 0).st = .active ∧ ((onGroup 0 { st := .unwound }).group 0 0).st = .unwound
    ∧ ((onGroup 0 { st := .aborting }).group 0 0).st = .aborting ∧ (0x3FF : Nat) / 256 % 4 = 3 ∧ (0x100 : Nat) / 256 % 4 = 1 := by
  decide +kernel

/-- An agreement that this package collects, two remotes away. -/
def agreeing (reports : List (Word × Word)) (excl : List Word) : Group :=
  { st := .aborting, remotes := [(7, 1), (8, 1)], reports := reports, excluded := excl }

theorem witness_GroupAgreement :
    ((onGroup 1 { st := .active }).group 0 1).st = .active
    ∧ (((onGroup 1 (agreeing [] [])).group 0 1).collector = (onGroup 1 (agreeing [] [])).pkgid
      ∧ (8 : Word) ≠ 0 ∧ (8 : Word) ∈ (agreeing [] []).remotes.map Prod.fst
      ∧ (8 : Word) ∉ (agreeing [(7, 3)] []).reports.map Prod.fst ++ (agreeing [(7, 3)] []).excluded)
    ∧ decide ((agreeing [] []).since + 40000000 ≤ (40000000#64).toNat) = true
    ∧ ((0 :: (agreeing [(0, 9), (7, 3)] [8]).remotes.map Prod.fst).all fun p =>
        ((agreeing [(0, 9), (7, 3)] [8]).reports.map Prod.fst ++ (agreeing [(0, 9), (7, 3)] [8]).excluded).contains p) = true
    ∧ (∀ t : Nat, ((onGroup 1 (agreeing [] [])).thr t).ctx ≠ 0 ∨ ((onGroup 1 (agreeing [] [])).thr t).st = .off
        ∨ ((agreeing [] []).threads).getLsbD t = false)
    ∧ ({ agreeing [] [] with collector := 3 } : Group).collector ≠ (onGroup 1 {}).pkgid := by
  refine ⟨?_, ?_, ?_, ?_, fun t => .inr (.inr ?_), ?_⟩
  case refine_5 => simp [agreeing]
  all_goals decide +kernel

/-! ### Witnesses: copy engines -/

/-- A copy operation answers a value and a state with a property. -/
def CRes.holds {α : Type} (r : CRes α) (q : α → State → Bool) : Bool :=
  match r with
  | .ok v t => q v t
  | _ => false

/-- A copy operation waits. -/
def CRes.waits {α : Type} (r : CRes α) : Bool :=
  match r with
  | .wait _ => true
  | _ => false

/-- A copy operation ends in a fault. -/
def CRes.faults {α : Type} (r : CRes α) : Bool :=
  match r with
  | .fault _ _ _ => true
  | _ => false

/-- A launch record at the head of a page: one entry behind the record, one run (10 R283). -/
def launchMem (base : Nat) : List Host.Cell :=
  [(base, 0x43), (base + 1, 0x50), (base + 2, 0x43), (base + 3, 0x4C), (base + 4, 1), (base + 6, 1), (base + 9, 5), (base + 0xA, 1),
    (base + 0x14, 1)]

/-- A buffer of bytes at an address. -/
def bytesAt (base : Nat) : Buf := { base := base, esz := 1 }

/-- An engine of context 0 in a state with buffers 0 to 2 and counter 0, at an element. -/
def engOf (st : EngSt) (elem : Nat) (src : Nat := 0x10000) (flights : List Flight := []) : Engine :=
  { st := st, own := some 0, elem := elem, flights := flights,
    launch := { bufs := [bytesAt src, { bytesAt 0x10400 with shadow := true, shandle := 3 }, bytesAt 0x10400], ctrs := [0x10800] } }

/-- Engine 0 is on the move, with its thread in context 0. -/
def onEng (x : Engine) (c : Ctx := {}) : State := { onHost 0x10000 0 {} c with engs := [(0, x)] }

/-- An entry from buffer 0 to buffer `dst`. -/
def entTo (dst cnt : BitVec 8) : CopyEnt := { copyEnt1 cnt with dbuf := dst }

/-- An engine is ready to perform an entry, with a property of the surroundings. -/
def readyCheck (s : State) (kind : Nat) (e : CopyEnt) (q : CEnv → Bool) : Bool :=
  let x := s.eng s.cur.eng
  match s.cenv s.cur.eng kind e with
  | some c => (x.st = .running || kind = 9 && x.st = .waiting) && !x.halted && x.bound.isNone && !x.ended
      && !s.copyStalled c.ctx s.cur.eng && (s.atEntry e).entryOk c && q c
  | none => false

theorem ready_of {s : State} {kind : Nat} {e : CopyEnt} {q : CEnv → Bool} (h : readyCheck s kind e q = true) :
    ∃ c, CopyReady s kind e c ∧ q c = true := by
  simp only [readyCheck] at h
  split at h
  · rename_i c hc
    simp only [Bool.and_eq_true, Bool.or_eq_true, decide_eq_true_eq, Bool.not_eq_true', Option.isNone_iff_eq_none] at h
    obtain ⟨⟨⟨⟨⟨⟨h1, h2⟩, h3⟩, h4⟩, h5⟩, h6⟩, h7⟩ := h
    exact ⟨c, ⟨hc, h1, h2, h3, h4, h5, h6⟩, h7⟩
  · cases h

/-- The launch record is read, and the record and the state have a property. -/
def launches (q : Launch → State → Bool) (s : State) : Bool :=
  Rd.holds (s.readLaunch 0 0 0x10000 false (some 0)) fun v t => v.toOption.any (q · t)

/-- A kernel handle of an engine that runs its first job. -/
def held0 (st : EngSt) : State := onEng { engOf st 0 with serial := 1 }

theorem witness_CopyControl :
    launches (fun l t => decide ((t.freeEngines 0 0).head? = some 0) && !l.timed && t.me = (pooled 0x10000 0).me)
      { pooled 0x10000 0 {} (launchMem 0x10000) with engs := [(0, engOf .free 0)] } = true
    ∧ (held0 .running).engOf? 0x10000 = some 0 ∧ (held0 .faulted).engOf? 0x10000 = some 0
    ∧ (held0 .running).engOf? 0x20000 = none
    ∧ reachCheck (onHost 0x10000 0) 0x10000 8 .read (fun pa leaf t => cachedPol leaf && regionOf pa ≠ 2
        && t.me = (onHost 0x10000 0).me && Memory.readLE t.mem pa 8 = 0) = true
    ∧ atomCheck (onHost 0x10000 0) 0x10000 8 0x10000 (sameThr (onHost 0x10000 0)) = true
    ∧ ((onHost 0x10000 0 {} { pubs := [(3, { vabase := 0, npg := 1, cur := false, p0 := 0, p1 := 0, valid := true })] }).ctx 0).pubs = [(3, { vabase := 0, npg := 1, cur := false, p0 := 0, p1 := 0, valid := true })] := by
  decide +kernel

theorem witness_CopyElements :
    (∃ c, CopyReady (onEng (engOf .running 0)) 1 (entTo 2 255) c
      ∧ CRes.holds (((onEng (engOf .running 0)).atEntry (entTo 2 255)).elementGo c 0) (fun _ _ => true) = true)
    ∧ (∃ c, CopyReady (onEng (engOf .running 0 0x20000)) 1 (entTo 2 255) c
      ∧ CRes.waits (((onEng (engOf .running 0 0x20000)).atEntry (entTo 2 255)).elementGo c 0) = true)
    ∧ (∃ c, CopyReady (onEng (engOf .running 0 (2 ^ 57))) 1 (entTo 2 255) c
      ∧ CRes.faults (((onEng (engOf .running 0 (2 ^ 57))).atEntry (entTo 2 255)).elementGo c 0) = true)
    ∧ (∃ c, CopyReady (onEng (engOf .running 1)) 1 (entTo 2 255) c
      ∧ decide (entElems (entTo 2 255) ≤ 1 ∧ (16 : Nat) ≤ (255#8).toNat) = true)
    ∧ Rd.holds (Rd.mapM (fun s va => s.writePlace ⟨0, 0, 0, 1, entTo 1 255, {}, none, false⟩ none none va) [0x10400, 0x10401]
        (onEng {})) (fun ps t => ps = (List.range 2).map (fun j => (0x10400 + j, fetchLeaf)) && !t.movingAt 0 0x10400
          && regionOf 0x10400 ≠ 3 && leafPol fetchLeaf ≠ 3 && t.banks.isEmpty && Memory.wf t.mem
          && (t.spend 0 (t.cost (t.copyClasses 0 0x10400 fetchLeaf) 2) (.engine 0)).any (fun u =>
            let w := u.countAccess 0 0 0x10400 false true
            plainCheck w 0x10400 2 && Memory.wf w.mem)
          && ((t.ctx 0).windowOf 0x10400).isNone) = true := by
  refine ⟨ready_of ?_, ready_of ?_, ready_of ?_, ready_of ?_, ?_⟩ <;> decide +kernel

/-- The bytes at some addresses lie in a row of plain memory that the engine reaches without a walk. -/
def sideCheck (s : State) (c : CEnv) (a : Acc) (f : PageFmt) (vas : List Nat) (pa : Nat) (leaf : Word) : Bool :=
  let at_ (va : Nat) (q : Nat → Word → Bool) : Bool := match s.hostXlate c.ctx c.clu va a with
    | .hit p l t => decide (t = s) && q p l
    | .miss _ _ => false
  decide (0 < vas.length)
    && ((List.range vas.length).all fun j => at_ (nth vas j 0) fun p l => decide (p = pa + j ∧ l = leaf))
    && (vas.all fun va => decide (a ≠ .read) || at_ (128 * (va / 128)) fun _ l => !leafAcnt l)
    && decide ((s.ctx c.ctx).windowOf (vas.headD 0) = none) && decide (f.idx = leafFmt leaf ∧ f.codec = leafCodec leaf)
    && decide (cachedPol leaf = true ∧ leafAcnt leaf = false ∧ s.movingAt c.ctx pa = false ∧ regionOf pa ≠ 3)
    && decide (pa % 4096 + vas.length ≤ 4096) && plainCheck s pa vas.length
    && (List.range vas.length).all fun j => plainCheck s (pa + j) 1

theorem side_of {s : State} {c : CEnv} {a : Acc} {f : PageFmt} {vas : List Nat} {pa : Nat} {leaf : Word}
    (h : sideCheck s c a f vas pa leaf = true) : CopySide s c a f vas pa leaf := by
  simp only [sideCheck, Bool.and_eq_true, Bool.or_eq_true, decide_eq_true_eq, List.all_eq_true, List.mem_range] at h
  obtain ⟨⟨⟨⟨⟨⟨⟨⟨h1, h2⟩, h3⟩, h4⟩, h5⟩, h6⟩, h7⟩, h8⟩, h9⟩ := h
  refine ⟨h1, fun j hj => ?_, fun ha va hv => ?_, h4, h5.1, h5.2, h6.1, h6.2.1, h6.2.2.1, h6.2.2.2, h7, plain_of h8,
    fun j hj => plain_of (h9 j hj)⟩
  · have h := h2 j hj
    split at h
    · simp only [Bool.and_eq_true, decide_eq_true_eq] at h
      obtain ⟨rfl, rfl, rfl⟩ := h
      assumption
    · cases h
  · rcases h3 va hv with h | h
    · exact absurd ha h
    · subst ha
      split at h
      · simp only [Bool.and_eq_true, decide_eq_true_eq, Bool.not_eq_true'] at h
        obtain ⟨rfl, h⟩ := h
        exact ⟨_, _, ‹_›, h⟩
      · cases h

/-- What the statement on the completion of an entry asks of engine 0, beside the sides of its element. -/
abbrev completesAt (s : State) (kind : Nat) (e : CopyEnt) (c : CEnv) (fs fd : PageFmt) : Prop :=
  let x := s.eng 0
  let bs := c.l.buf c.si
  let bd := c.l.buf c.di
  let is := loopIdx e.bounds x.elem
  let ix := sx (x.fillVal.getD 0) 64
  let so : Int := if kind = 3 then ix * bs.pitch + (is.headD 0 : Int) * (nth e.sstr 0 0#24).toInt
    else e.soff.toInt + strideSum is e.sstr
  let dst : Int := if kind = 4 then ix * bd.pitch + (is.headD 0 : Int) * (nth e.dstr 0 0#24).toInt
    else e.doff.toInt + strideSum is e.dstr
  let side := if kind = 3 then bs else bd
  x.launch.timed = false ∧ x.maskDue = false ∧ x.elem < entElems e ∧ e.flags.getLsbD 1 = false ∧ c.kern = none
    ∧ Tab.get? s.wc 128 = none ∧ Tab.get? x.fmts c.si = some fs ∧ Tab.get? x.fmts c.di = some fd
    ∧ formatCause kind fs fd (fs.bits bs.esz) (fd.bits bd.esz) bd.esz = none
    ∧ bs.holds so = true ∧ bd.holds dst = true ∧ bd.shadow = false
    ∧ (kind = 3 ∨ kind = 4 → x.fillVal.isSome = true ∧ 0 ≤ ix ∧ (side.bounded = true → ix < side.nrow))
    ∧ (kind = 5 → x.fillVal = none)
    ∧ (kind = 2 → fs.codec = true ∨ ((s.fmtDesc c.ctx fs.idx).ok = true ∧ (s.fmtDesc c.ctx fs.idx).splace = 0))

/-- Engine 0 of context 0 with buffers of 8-byte or typed elements, the value of an index at hand or not. -/
def rowEng (ixs : Nat) (fv : Option Nat) (f : PageFmt) : Engine :=
  let b (base : Nat) (ix : Bool) : Buf := { base := base, esz := if f.efmt = 0 then 8 else 0, index := ix, ixb := 2, pitch := 8 }
  { st := .running, own := some 0, fillVal := fv, fmts := [(0, f), (1, f), (2, f)],
    launch := { bufs := [b 0x10000 (ixs = 3), b 0x10400 (ixs = 4), b (if ixs = 3 then 0x10000 else 0x10400) false] } }

/-- A page of a typed format, 1-byte signed integers, by the second descriptor of the context's table. -/
def typedLeaf : Word := fetchLeaf ||| 0x40#64

/-- Engine 0 on the move over a page. -/
def onRow (kind : Nat) (fv : Option Nat) (typed : Bool) : State :=
  let f : PageFmt := if typed then ⟨1, false, 1⟩ else ⟨0, false, 0⟩
  let s := onHost 0 0 {} { obj := { fmttab := 0x11000 } } (if typed then typedLeaf else fetchLeaf)
  { s with engs := [(0, rowEng kind fv f)], mem := [(0x10000, 5), (0x10400, 7), (0x11024, 1)] }

/-- An entry of one element from buffer 0 to buffer 1. -/
def ent01 : CopyEnt := entTo 1 255

/-- The source lies at 0x10000, the destination at 0x10400, and the bytes of both are paid for. -/
def completesEnv (kind : Nat) (fv : Option Nat) (typed : Bool) (c : CEnv) : Bool :=
  let s := onRow kind fv typed
  let f : PageFmt := if typed then ⟨1, false, 1⟩ else ⟨0, false, 0⟩
  let leaf := if typed then typedLeaf else fetchLeaf
  let n := if typed then 1 else 8
  let rv := (List.range n).map (0x10000 + ·)
  let wv := (List.range n).map (0x10400 + ·)
  let b := s.atEntry ent01
  decide (completesAt s kind ent01 c f f) && (sideCheck b c .read f rv 0x10000 leaf
    && match b.spend c.clu (b.cost (b.copyClasses c.clu 0x10000 leaf) n) (.engine 0) with
      | none => false
      | some s1 =>
        let r := s1.copyOwn c rv
        let raw := Memory.readLE r.mem 0x10000 n
        let t := if kind = 5 then r.modEng 0 (fun y => { y with fillVal := some raw }) else r
        sideCheck s1 c .read f rv 0x10000 leaf && (sideCheck r c .read f rv 0x10000 leaf && (sideCheck t c .write f wv 0x10400 leaf
          && match t.spend c.clu (t.cost (if kind = 6 then t.atomClasses 0x10400 else t.copyClasses c.clu 0x10400 leaf) n) (.engine 0) with
            | none => false
            | some s2 =>
              let s3 := if kind = 6 then s2.countAtomic c.ctx c.clu 0x10400 false else s2.countAccess c.ctx c.clu 0x10400 false true
              plainCheck s3 0x10400 n && Memory.wf s3.mem)))

theorem completes_of {kind : Nat} {fv : Option Nat} {typed : Bool} 
    (h : readyCheck (onRow kind fv typed) kind ent01 (completesEnv kind fv typed) = true) :
    let s := onRow kind fv typed
    let f : PageFmt := if typed then ⟨1, false, 1⟩ else ⟨0, false, 0⟩
    let leaf := if typed then typedLeaf else fetchLeaf
    let n := if typed then 1 else 8
    let rv := (List.range n).map (0x10000 + ·)
    let wv := (List.range n).map (0x10400 + ·)
    let b := s.atEntry ent01
    ∃ c s1 s2, CopyReady s kind ent01 c ∧ completesAt s kind ent01 c f f ∧ CopySide b c .read f rv 0x10000 leaf
      ∧ b.spend c.clu (b.cost (b.copyClasses c.clu 0x10000 leaf) n) (.engine 0) = some s1 ∧ CopySide s1 c .read f rv 0x10000 leaf
      ∧ (let r := s1.copyOwn c rv
         let raw := Memory.readLE r.mem 0x10000 n
         let t := if kind = 5 then r.modEng 0 (fun y => { y with fillVal := some raw }) else r
         CopySide r c .read f rv 0x10000 leaf ∧ CopySide t c .write f wv 0x10400 leaf
         ∧ t.spend c.clu (t.cost (if kind = 6 then t.atomClasses 0x10400 else t.copyClasses c.clu 0x10400 leaf) n) (.engine 0)
           = some s2)
      ∧ (let s3 := if kind = 6 then s2.countAtomic c.ctx c.clu 0x10400 false else s2.countAccess c.ctx c.clu 0x10400 false true
         s3.plain 0x10400 n ∧ s3.Inv) := by
  intro s f leaf n rv wv b
  obtain ⟨c, hc, h⟩ := ready_of h
  simp only [completesEnv, Bool.and_eq_true, decide_eq_true_eq] at h
  obtain ⟨h1, h2, h⟩ := h
  split at h
  · cases h
  · rename_i s1 e1
    simp only [Bool.and_eq_true] at h
    obtain ⟨h3, h5, h4, h⟩ := h
    split at h
    · cases h
    · rename_i s2 e2
      simp only [Bool.and_eq_true] at h
      exact ⟨c, s1, s2, hc, h1, side_of h2, e1, side_of h3, ⟨side_of h5, side_of h4, e2⟩, plain_of h.1, h.2⟩

theorem witness_CopyCompletes : (∀ x ∈ ([(1, none, false), (2, none, true), (3, some 0, false), (4, some 0, false),
      (5, none, false), (6, none, false)] : List (Nat × Option Nat × Bool)), 
      readyCheck (onRow x.1 x.2.1 x.2.2) x.1 ent01 (completesEnv x.1 x.2.1 x.2.2) = true)
    ∧ elemBytes 0x10000 64 none 0 = ((List.range 8).map (0x10000 + ·), 0)
    ∧ elemBytes 0x10400 8 none 0 = ([0x10400], 0) ∧ regionOf 0x10400 ≠ 2 := by decide +kernel

/-- A context with a published buffer of 64 KiB at 0x10000 under handle 3. -/
def published : Ctx := { pubs := [(3, { vabase := 0x10000, npg := 1, cur := false, p0 := 0x10000, p1 := 0x20000, valid := true })] }

/-- WAITS on a counter for a value. -/
def waitFor (cnt : BitVec 8) (v : BitVec 32) : CopyEnt := { copyEnt1 cnt with soff := v }

/-- A TIMED engine of kernel 0, armed or running. -/
def timed (st : EngSt) (vcc : Nat) (src : Nat := 0x10000) : State :=
  let k : Kernel := { state := .running, run := { vcc := vcc } }
  let x := engOf st 0 src
  onEng { x with kern := some 0, start := 24, launch := { x.launch with timed := true, entptr := 0x10800, tstart := [0] } }
    { kernels := [(0, k)] }

theorem witness_CopyTimed :
    (∃ c, CopyReady (onEng (engOf .running 0) published) 7 (entTo 1 255) c
      ∧ CRes.holds (((onEng (engOf .running 0) published).atEntry (entTo 1 255)).copyPublish c 3) (fun _ _ => true) = true)
    ∧ (∃ c, CopyReady (onEng (engOf .running 0)) 8 (copyEnt1 0) c
      ∧ CRes.holds (((onEng (engOf .running 0)).atEntry (copyEnt1 0)).copyCount c (elemKey 0 10) 0x10800 0) (fun _ _ => true) = true)
    ∧ (∃ c, CopyReady (onEng (engOf .running 0)) 9 (waitFor 0 0) c
      ∧ CRes.holds (((onEng (engOf .running 0)).atEntry (waitFor 0 0)).waitsValue c) (fun v t => c.awaited (t.eng 0).run ≤ v) = true)
    ∧ (∃ c, CopyReady (onEng (engOf .waiting 0)) 9 (waitFor 0 1) c
      ∧ CRes.holds (((onEng (engOf .waiting 0)).atEntry (waitFor 0 1)).waitsValue c) (fun v t => v < c.awaited (t.eng 0).run) = true)
    ∧ (∃ c, CopyReady (onEng (engOf .running 0)) 9 (waitFor 0xFE 1) c ∧ ((waitFor 0xFE 1).cnt == 0xFE#8) = true)
    ∧ ((timed .armed 24).engKernel 0).isSome = true ∧ ((timed .armed 24).eng 0).beatCycle = 24 ∧ (23 : Nat) < 24
    ∧ (timed .running 24).beatDue 0 = true
    ∧ (∃ c, CopyReady (timed .running 24) 1 (entTo 2 255) c
      ∧ CRes.holds (((timed .running 24).atEntry (entTo 2 255)).beatGo c) (fun _ t => !(t.eng 0).flights.isEmpty) = true)
    ∧ (∃ c, CopyReady (timed .running 24 0x20000) 1 (entTo 2 255) c
      ∧ CRes.waits (((timed .running 24 0x20000).atEntry (entTo 2 255)).beatGo c) = true)
    ∧ (∃ c, CopyReady (timed .running 24) 8 (copyEnt1 0) c ∧ decide ((timed .running 24).beatDue 0 = true) = true)
    ∧ (∃ c, CopyReady (timed .running 24) 7 (entTo 1 255) c ∧ decide ((timed .running 24).beatDue 0 = true) = true)
    ∧ CRes.holds (State.fetchEntry { timed .running 24 with mem := (0x10800, 8) :: (List.range 5).map fun i =>
        (0x10810 + 2 * i, 1) } 0) (fun p t => 1 ≤ p.1 && p.1 ≤ 9 && t.cur = (timed .running 24).cur) = true := by
  refine ⟨ready_of ?_, ready_of ?_, ready_of ?_, ready_of ?_, ready_of ?_, ?_, ?_, ?_, ?_, ready_of ?_, ready_of ?_, ready_of ?_, ready_of ?_, ?_⟩
    <;> decide +kernel

/-! ### Witnesses: domains, placement, streams, memory -/

/-- Kernel 0 of context 0, its domain on the move. -/
def onDom (k : Kernel) (maxcores : Nat := 1) : State :=
  { onKern k 0 with ctxs := [(0, { st := .running, obj := { maxcores := maxcores }, kernels := [(0, k)] })] }

/-- A running kernel at a rotation instant. -/
def rotating (events : List TrapEvent) (stage : BitVec 8 := 0) : Kernel :=
  { state := .running, cfg := List.replicate 16 {}, run := { phase := .rotate, lim := 2, stage := stage, events := events } }

def event1 : TrapEvent := ⟨0, 0, 0, 0, 0x0101#16, 0⟩

/-- Stores may leave a kernel at its rotation instant, and the kernel that they leave has a property. -/
def settles (s : State) (stuck : Bool) (q : Kernel → Bool) : Bool :=
  let x := s.settleStores 0 0
  x.2 = stuck && (x.1.kernel? 0 0).any q

/-- A kernel with a store to HBM that has not left, in a state whose meters are spent. -/
def unpaid : Kernel :=
  { rotating [] with stopReq := true, strms := [{ strm0 with store := true }], run := { (rotating []).run with
      streams := [(0, { ready0 with far := [{ va := 0x10000, bytes := [1], cyc := 0, ready := 0, back := false }] })] } }

def stuckDom : State :=
  { onDom unpaid with tlb := [page 0x10000], clus := [], pow := { awt := BitVec.allOnes 40 } }

theorem witness_DomainRotation :
    (onDom (rotating [])).kernel? 0 0 = some (rotating []) ∧ (rotating [event1]).asked = true ∧ unpaid.asked = true
    ∧ settles (onDom (rotating [event1])) false (fun k => earliest k.run.events = some event1) = true
    ∧ settles (onDom { rotating [] with stopReq := true, run := { (rotating []).run with vcc := 0 } }) false (fun k =>
        k.stopReq && !(k.rotated 0).run.retired) = true
    ∧ settles (onDom { rotating [] with saveReq := true }) false (fun k => k.saveReq && k.run.events.isEmpty) = true
    ∧ settles stuckDom true (fun k => k.run.broke) = true
    ∧ earliest [event1] = some event1 ∧ fatalCause event1.cause = false
    ∧ ((rotating []).rotated 0).run.retired = false ∧ event1 ∈ (rotating [event1]).run.events
    ∧ (onDom { rotating [] with moveReq := true, target := 1 }).moveFits 0 0 { rotating [] with moveReq := true, target := 1 } 1
        = true := by decide +kernel

/-- A kernel whose next op is in a slot, its stream with a fill out or not, in strict mode or not. -/
def checking (strict : Bool) (fills : List Fill) : Kernel :=
  let ld : SlotCfg := { ops := [0x040000#24] }
  { state := .running, cfg := ld :: List.replicate 15 {}, strms := [strm0],
    run := { phase := .check, strict := strict, todo := [.op 0 0], streams := [(0, { ready0 with fills := fills })] } }

/-- A kernel at issue with one landing due. -/
def landing1 : Kernel :=
  kernOf { land := [⟨0, 5, 0, .dest (some 31) true false false 7 0⟩] }

/-- A paused kernel with an arrival on its way. -/
def standing : Kernel := { state := .running, run := { paused := true }, arrivals := [⟨9, 0, false⟩] }

theorem witness_DomainLanding :
    ((onDom (checking false [])).cycleLate 0 0 (checking false [])).first = none
    ∧ ((onDom (checking true [{ word := 0 }])).cycleLate 0 0 (checking true [{ word := 0 }])).first.isSome = true
    ∧ (((onDom (checking false [{ word := 0 }])).cycleLate 0 0 (checking false [{ word := 0 }])).first.isSome
        && !((onDom (checking false [{ word := 0 }])).cycleLate 0 0 (checking false [{ word := 0 }])).soft
        && (let c := (onDom (checking false [{ word := 0 }])).cycleLate 0 0 (checking false [{ word := 0 }])
          (c.sites.foldl (fun s l => s.takeLate 0 0 l) (c.s.modKernel 0 0 Kernel.stand)).kernel? 0 0).isSome) = true
    ∧ (landing1.run.phase = .issue ∧ landing1.run.todo = [] ∧ landing1.engines = [] ∧ landing1.arrivals = []
      ∧ landing1.strms = [] ∧ landing1.run.streams = [] ∧ landing1.run.atms = [] ∧ landing1.run.vcc = 0
      ∧ (Tab.getD landing1.run.pes 5 {}).folds = [] ∧ (31 : Nat) < 32)
    ∧ (onDom { kernOf {} with run := { phase := .beats } }).beatsDue { kernOf {} with run := { phase := .beats } } = []
    ∧ (bankConflict ((onDom landing1).wordsTouched 0 0 landing1) = none ∧ landing1.run.strict = false)
    ∧ (standing.run.paused = true ∧ standing.state ≠ .moving ∧ standing.arrivals[0]? = some ⟨9, 0, false⟩) := by
  decide +kernel

/-- A kernel at issue with two landings in one bank of its scratchpad, in strict mode or not. -/
def conflicting (strict : Bool) : Kernel :=
  kernOf { strict := strict, land := [⟨0, 0, 0, .bytes spmBase [1] [1] none⟩, ⟨0, 0, 0, .bytes (spmBase + 2048) [1] [1] none⟩] }

theorem witness_BankConflicts :
    (∀ x ∈ [false, true], (onDom (conflicting x)).kernel? 0 0 = some (conflicting x) ∧ (conflicting x).run.strict = x
      ∧ (bankConflict ((onDom (conflicting x)).wordsTouched 0 0 (conflicting x))).isSome = true)
    ∧ (conflicting false).state = .running ∧ (conflicting false).run.phase = .issue ∧ (conflicting false).run.todo = []
    ∧ (conflicting false).run.served = false ∧ (conflicting true).run.phase = .issue ∧ (conflicting true).run.served = false
    ∧ ((0 : Nat) ≠ 32 ∧ 0 / 2 ^ 15 = 32 / 2 ^ 15 ∧ (0 : Nat) % 32 = 32 % 32) := by decide +kernel

/-- The DPE of core 0 in a state. -/
def draining (d : DrainSt) (strict : Bool := false) : Kernel := kernOf { drains := [(0, d)], strict := strict }

/-- A drain whose first beat is due. -/
def path1 : DrainSt := { image := [0x30000000#32, 0x34000000#32], pos := 1, serials := 1, cur := some ⟨false, false, 2, 0, 1, 0⟩ }

/-- Kernel 0 WAITING, one core wide. -/
def waiting1 : Kernel := { cfg := List.replicate 16 {} }

/-- A placement answers a state with a property. -/
def placed (q : State → Bool) (s : State) (k : Kernel) (o : Nat) : Bool := (s.placeAt [] 0 0 k o).any q

/-- A stream at its second word. -/
def atSecond (x : StreamSt) : StreamSt := { x with u := 64 }

/-- A padded word of seven bytes goes out, or waits for its walk. -/
def padCheck (x : StreamSt) (tlb : List TlbEnt) (goes : Bool) : Bool :=
  let s : State := { onWord drain1 x with tlb := tlb }
  let k := (s.kernel? 0 0).getD {}
  match s.putOut ⟨0, 0, 0, k, k.run.drain 0, none, 0, [], 0⟩ 0 (List.replicate 7 5 ++ List.replicate 57 0) with
  | .go _ _ _ => goes
  | .wait _ => !goes

theorem witness_RegionPlacement :
    ((draining path1).beatLate 0 = false ∧ ((draining path1).run.path 0).cur.isSome = true
      ∧ ((draining path1).run.path 0).image ≠ [])
    ∧ ({ draining path1 with run := { (draining path1).run with
          pes := [(5, { folds := [⟨false, 0, 2, 0, 0, 0, false⟩], bank0 := { mode := some ⟨2, 9⟩ } })] } } : Kernel).beatLate 0 = true
    ∧ (draining { pads := [(0, 1)], parts := [⟨2, 0, []⟩] }).run.drain 0 = { pads := [(0, 1)], parts := [⟨2, 0, []⟩] }
    ∧ padCheck (atSecond ready0) [page 0x10000] true = true ∧ padCheck (atSecond ready0) [] false = true
    ∧ ((origins 1 1).findSome? ((onDom waiting1).placeAt [] 0 0 waiting1)).isSome = true ∧ waiting1.away = false
    ∧ ((origins 1 1).findSome? ((onDom waiting1 0).placeAt [] 0 0 waiting1)).isNone = true
    ∧ (onDom waiting1).requests 1 = [] ∧ (onDom waiting1).requests 0 = [(0, 0, waiting1)]
    ∧ placed (fun _ => true) (onDom waiting1) waiting1 0 = true ∧ waiting1.state = .waiting
    ∧ (onDom { state := .moving }).kernel? 0 0 = some { state := .moving } := by decide +kernel

/-- A stream whose first word is on its way, its page failed or not. -/
def filling (fails : List SegFail) : Kernel :=
  { kernOf { streams := [(0, { ready0 with fills := [{ word := 0, taken := true }], fails := fails })] } with strms := [strm0] }

/-- The premises of a fill that returns. -/
def fillCheck (k : Kernel) (q : State → StreamSt → List Nat → List Nat → Bool) : Bool :=
  let s : State := { onDom k with tlb := (pooled 0 0).tlb, steps := [(0, 0)] }
  let x := k.run.stream 0
  let ws := x.together 1 0
  (k.strm? 0).isSome && x.fmt.isSome && ws.headD 0 = 0 && s.fillMayReturn 0 k strm0 0 ws
    && (k.run.paused || s.fillDue 0 k strm0 x ws (ws.flatMap (s.fillVas 0 strm0 x)) k.run.vcc)
    && q s x ws (ws.flatMap (s.fillVas 0 strm0 x))

theorem witness_StreamFills :
    fillCheck (filling [⟨none, some 0x10, 0x0401#16, 0, false⟩]) (fun _ x _ vas => (x.badPage (pagesOf vas)).isSome) = true
    ∧ fillCheck (filling []) (fun s x ws vas => (x.badPage (pagesOf vas)).isNone
        && let p := s.payFills 0 0 (filling []) strm0 ws
          p.2 && Rd.holds ((p.1.asKernel 0 (filling [])).fillAll 0 0 strm0 (p.1.stream 0 0 0) ⟨0, false, 0⟩ [] ws vas)
            fun v _ => v.1.length = 1) = true
    ∧ fillCheck (filling []) (fun s x ws vas => (x.badPage (pagesOf vas)).isNone
        && !({ s with clus := [], pow := { awt := BitVec.allOnes 40 } }.payFills 0 0 (filling []) strm0 ws).2) = true
    ∧ (filling []).run.streams.all (fun y => y.2.fills.all fun g => !g.paid) = true
    ∧ (([0] : List Nat).Nodup ∧ strm0.tail {} ≤ 0 ∧ strm0.store = false)
    ∧ (({ st := .running, faults := [{ fid := 4, page := 0x10, va := 0x10000, cause := 0x0301#16, path := 1, acc := 1, unit := 0, gtc := 0, posted := true, waiters := [.stream 0 0] }] } : Ctx).record 4).isSome
        = true ∧ (0 : Nat) + 50000 ≤ (50000#64).toNat := by decide +kernel

/-- Context 0 is killed, thread 3 its own, and the first arbiter has acknowledged. -/
def killing0 : State :=
  { thrs := [(3, { st := .stopped })], ctxs := [(0, { st := .killing, acks := [0, 2, 3, 4] })], wc := [(3, ⟨0x80, [(0, 5)], none⟩)] }

theorem witness_MemoryEvents :
    ((BankOp.fx 0 0 5).behind [] = false ∧ (BankOp.fx 0 0 5).kind = .pred ∧ (BankOp.atm 0 0 0 7 1).kind = .atm
      ∧ (BankOp.merge 0 0 [] []).kind = .merge)
    ∧ (({} : State).Inv ∧ ({} : State).readError 0 8 = none ∧ ({} : State).isCodec 7 = false)
    ∧ (Tab.get? ({ wc := [(3, ⟨0x80, [(0, 5)], none⟩)] } : State).wc 3 = some ⟨0x80, [(0, 5)], none⟩ ∧ (0x80 : Nat) % 128 = 0
      ∧ (({ wc := [(3, ⟨0x80, [(0, 5)], none⟩)] } : State).wcOwner 3).any (fun c => ({} : State).fenced c 0x80) = false
      ∧ (killing0.wcOwner 3).any (fun c => killing0.fenced c 0x80) = true)
    ∧ regionOf (3 * 2 ^ 48 - 1) ≤ 2 ∧ (511 : Nat) < 512 ∧ ({} : State).chanRet.getLsbD 511 = false :=
  ⟨by decide +kernel, ⟨by unfold State.Inv; decide +kernel, by decide +kernel, by decide +kernel⟩, by decide +kernel,
    by decide +kernel⟩

/-! ### Witnesses: commands, contexts, resources -/

/-- Bytes of a field at an address. -/
def cells (a v n : Nat) : List Host.Cell := (List.range n).map fun i => (a + i, BitVec.ofNat 8 (v / 2 ^ (8 * i)))

/-- A translation block at 0x2000 whose queues hold 64 records (11 R313). -/
def xlMem : List Host.Cell := [(0x2028, 6), (0x2029, 6)]

/-- A posted record of a read at 0x10000 on which thread 0 waits. -/
def record4 : FaultRec :=
  { fid := 4, page := 0x10, va := 0x10000, cause := 0x0301#16, path := 0, acc := 1, unit := 0, gtc := 0, posted := true,
    waiters := [.host 0] }

/-- Context 0 in a state with a valid translation block, and a fault record on which thread 0 waits. -/
def withCtx (st : CtxSt) (xl : Nat := 0x2000) : State :=
  { boot := .ready, mem := xlMem, thrs := [(0, { st := .faultWait })],
    ctxs := [(0, { st := st, obj := { xlate := xl }, faults := [record4] })] }

/-- Kernel 0 was saved for its stream 0, which waits on a page. -/
def away1 : Kernel := { state := .saved, away := true, strms := [strm0], run := { streams := [(0, { pending := [0x10] })] } }

/-- A strict round of context 0 that holds a store of a byte at 0x1000. -/
def bufferedStore : Ctx := { st := .running, kernels := [(0, { state := .running, buffer := [.store 0 0x1000 [1] [1]] })] }

theorem witness_TranslationCommands :
    ((127 : Nat) < 128 ∧ ({} : SysIf).msixOn = false ∧ ({ msixOn := true, msixMask := true } : SysIf).msixMask = true)
    ∧ ({ sys := { base := Word.of (2 ^ 50) } } : State).ringOk (2 ^ 50 + 1) true = false
    ∧ (({} : State).ringOk 1 true = true ∧ ({} : State).isCodec 1 = false ∧ Memory.wf ({} : State).mem = true)
    ∧ (((withCtx .empty).ctx 0).named = false ∧ ((withCtx .ready).ctx 0).named = true)
    ∧ (((withCtx .ready).readXlate 0x2000 {}).ok = true ∧ ((withCtx .ready 0).readXlate 0 {}).ok = false)
    ∧ (({} : State).framesetBad (2 ^ 48) 1 0 = true ∧ ({} : State).framesetBad 0x1000 1 4 = false)
    ∧ ({ codec := [(0, { nfr := 1, dbase := 0x1000 })] } : State).framesetBad 0x1000 1 8 = false
    ∧ (((withCtx .ready).ctx 0).record 5).isNone = true
    ∧ (({ ctxs := [(0, bufferedStore)] } : State).storesInto 0x1000 4096 = true ∧ ({} : State).storesInto 0x1000 4096 = false
      ∧ ({ ctxs := [(0, bufferedStore)] } : State).framesetBad 0x1000 1 4 = false)
    ∧ Rd.holds ((onDom away1).engXlate 0 0 0x10000 .read none) (fun _ u => (u.kernel? 0 0) = some away1) = false
    ∧ Rd.holds (({ onDom away1 with tlb := [page 0x10000] } : State).engXlate 0 0 0x10000 .read none)
        (fun _ u => (u.kernel? 0 0) = some away1) = true
    ∧ ((withCtx .running).ctx 0).record 4 = some record4 := by decide +kernel

/-- A context object at 0x4000 with one core and thread 0 (16 R401). -/
def objMem : List Host.Cell :=
  [(0x4000, 0x43), (0x4001, 0x4E), (0x4002, 0x54), (0x4003, 0x58), (0x4004, 1), (0x4008, 1), (0x4010, 1), (0x4052, 0x60)]

/-- Whether the tag of a block is right is a free value (log entry 49): the restore begins or faults by it. -/
theorem witness_ContextCommands :
    (({ mem := objMem } : State).readObj 0 0x4000).isSome = true ∧ (({ mem := objMem } : State).readObj 0 0x4008).isNone = true
    ∧ ((withCtx .ready).ctx 0).st = .ready ∧ ((withCtx .running).ctx 0).st = .running
    ∧ ((withCtx .saved).badBlock 0 = none ∨ ∃ b, (withCtx .saved).badBlock 0 = some b)
    ∧ ((withCtx .saved).ctx 0).st = .saved ∧ ({ withCtx .saved with ctxs := [(0, { st := .saved, serial := 1 })] } : State).badBlock 0 = some 0
    ∧ ((withCtx .killing).ctx 0).st = .killing := by
  refine ⟨?_, ?_, ?_, ?_, ?_, ?_, ?_, ?_⟩
  all_goals first | decide +kernel | (cases (withCtx .saved).badBlock 0 <;> simp)

/-- The engines of a context whose cluster has none free: each of them is another's. -/
def engsOfOther : List (Nat × Engine) := (List.range 16).map fun e => (e, { own := some 1 })

theorem witness_ContextEvents :
    (((withCtx .loading).ctx 0).st = .loading ∧ ((withCtx .loading).readXlate 0x2000 {}).ok = true
      ∧ ((withCtx .loading 0).readXlate 0 {}).ok = false)
    ∧ ((withCtx .frozen).quietCtx 0 = true ∧ ({ withCtx .frozen with thrs := [(0, { st := .sigst })] } : State).quietCtx 0 = false)
    ∧ (((withCtx .restoring).unpackCtx 0 {}).isSome = true ∧ ((withCtx .restoring).ctx 0).auto = none
      ∧ (withCtx .restoring).pow.hold = false)
    ∧ (({ withCtx .restoring with engs := engsOfOther } : State).unpackCtx 0 { engines := [(0, {})] }).isNone = true
    ∧ (({ hold := true } : Power).hold = true ∧ ((withCtx .restoring).ctx 0).auto ≠ some true)
    ∧ (0 ∈ [0, 1] ∧ [0, 1].filter (· ≠ 0) ≠ [] ∧ [0].filter (· ≠ 0) = []) := by decide +kernel

/-- A firmware image of three parts at host address 0x1000 (17 R440). -/
def imageMem : List Host.Cell :=
  let a := hostBase + 0x1000
  cells a 0x4957464F 4 ++ [(a + 4, 1)] ++ cells (a + 0x18) 0x1000 2 ++ [(a + 0x1C, 1)] ++ cells (a + 0x20) 0x2000 2
    ++ [(a + 0x24, 1)] ++ cells (a + 0x28) 0x3000 2 ++ [(a + 0x2C, 1)] ++ cells (a + 0x30) 0x3001 2

/-- The host's memory is readable through window 0. -/
def withImage : State := { mem := imageMem, windows := [(0, 0, Word.of (2 ^ 20 + 3))] }

/-- The bytes of the image as FWLOAD reads them. -/
def imageBytes : List Byte := (List.range (0x3001 + sigLen)).map fun i => withImage.peekByte (hostBase + 0x1000 + i)

/-- Whether the image is signed is a free value (log entry 49): it is loaded or turned away by it. -/
theorem witness_ResourceCommands :
    (((withCtx .ready).ctx 0).st.takes = true ∧ ((withCtx .empty).ctx 0).st.takes = false)
    ∧ (127 + 1 ≤ 128 ∧ (withCtx .ready).engineOff 127 = false ∧ heldByOther ((withCtx .ready).eng 127).own 0 = false)
    ∧ heldByOther (some 1) 0 = true ∧ (511 + 1 ≤ 512 ∧ (withCtx .ready).laneOff 511 = false)
    ∧ ((3 : Nat) < 4 ∧ 12 ≤ ((withCtx .ready).freeSteps 3).length ∧ ((withCtx .ready).freeSteps 3).length < 13)
    ∧ (({ own := some 0 } : Engine).spare 0 = true ∧ ({} : Engine).spare 0 = false
      ∧ ({ own := some 0, held := true, queue := some (0, 0) } : Engine).spare 0 = true)
    ∧ ({ own := some 0, st := .idle } : Lane).spare 0 = true
    ∧ (Tab.get? ({ steps := [(47, 0)] } : State).steps (12 * 3 + 11) = some 0 ∧ (0x800#64).getLsbD 11 = true)
    ∧ (withImage.rangeReadable (hostBase + 0x1000) (0x3001 + sigLen) = true ∧ imageOk imageBytes = true ∧ (0#64).toNat ≤ field imageBytes 8 4)
    ∧ (imageSigned imageBytes = true ∨ imageSigned imageBytes = false)
    ∧ (nth ({ good := [false, true] } : Fw).good ({ good := [false, true] } : Fw).other false = true ∧ ({} : Fw).trial = false)
    ∧ (nth ({} : Fw).good ({} : Fw).other false = false)
    ∧ ((({ ctxs := [(0, { st := .frozen, auto := some false })] } : State).ctx 0).st = .frozen
      ∧ ({ ctxs := [(0, { st := .frozen, auto := some false })] } : State).quietCtx 0 = true)
    ∧ (({ trial := true, deadline := some 5 } : Fw).deadline = some 5 ∧ (4#64).toNat < 5 ∧ 5 ≤ (5#64).toNat) := by
  refine ⟨?_, ?_, ?_, ?_, ?_, ?_, ?_, ?_, ?_, ?_, ?_, ?_, ?_, ?_⟩
  all_goals first | decide +kernel | (cases imageSigned imageBytes <;> simp)

/-! ### Witnesses: queues -/

/-- A queue operation answers a value and a state with a property. -/
def QTry.holds {α : Type} (r : QTry α) (q : α → State → Bool) : Bool :=
  match r with
  | .ok v t => q v t
  | _ => false

/-- Queue 3 of context 0, running, with the package queue number 5; the queue is on the move. -/
def onQueue (x : Queue) (c : Ctx := {}) : State :=
  let s := onHost 3 0x10000 {} { c with queues := [(3, { x with pqn := some 5 })], obj := { c.obj with qtab := 0x2000 } }
  { s with cur := { queue := 3 } }

/-- A valid descriptor of queue 3: ring at 0x3000, 16 slots, VALID (17 R431). -/
def queueMem : List Host.Cell := [(0x20C1, 0x30), (0x20C8, 4), (0x20CA, 1)]

theorem witness_QueueControl :
    ((onQueue {}).readQueue 0x20C0 ((onQueue {}).queue 0 3)).isNone = true
    ∧ (({ onQueue {} with mem := queueMem } : State).readQueue 0x20C0 ((onQueue {}).queue 0 3)).isSome = true
    ∧ (((onQueue {}).ctx 0).named = true ∧ ((onQueue {}).queue 0 3).st = .disabled ∧ ((onQueue {}).queue 0 3).pqn ≠ none)
    ∧ ((onQueue { st := .active }).queue 0 3).st = .active ∧ ((onQueue { st := .error }).queue 0 3).st = .error
    ∧ ((onQueue {}).queueOf 6 = none ∧ (onQueue {}).queueOf 5 = some (0, 3))
    ∧ (2 ^ ({ st := .idle } : Queue).log < max ({} : Queue).kick 17 - ({} : Queue).cons
      ∧ max ({} : Queue).kick 16 - ({} : Queue).cons ≤ 2 ^ ({} : Queue).log)
    ∧ (({ st := .idle, kick := 2, cons := 2 } : Queue).st = .idle ∧ max ({ kick := 2, cons := 2 } : Queue).kick 1 ≤ 2)
    ∧ ((onQueue { st := .draining, kick := 1 }).queueOf 5 = some (0, 3) ∧ max 1 16 - 0 ≤ 2 ^ ({} : Queue).log)
    ∧ ((onQueue { st := .error }).queueOf 5 = some (0, 3) ∧ ({ st := .error } : Queue).tsub = false)
    ∧ ((0x10020 : Nat) % 64 ≠ 0 ∧ (0x10040 : Nat) % 64 = 0)
    ∧ (match (onQueue {}).hostRecord 0x10000 64 with
        | .ok _ t => decide (t.me = (onQueue {}).me) && (t.queue t.myCtx 3).refuses 3
        | .stop _ => false) = true
    ∧ ([(0x3000, true), (2 ^ 51, false)].all fun p =>
        match (onQueue { st := .idle, tsub := true, ring := p.1 }).hostRecord 0x10000 64 with
        | .ok _ t => decide (t.me = (onQueue {}).me) && !(t.queue t.myCtx 3).refuses 3
            && ((t.slotError ((t.queue t.myCtx 3).slot (t.queue t.myCtx 3).kick)).isNone == p.2)
        | .stop _ => false) = true
    ∧ (({ st := .idle, tsub := true } : Queue).refuses 3 = false ∧ ({ st := .idle, tsub := true } : Queue).cons ≤ 0)
    := by decide +kernel

/-- An entry of cluster 0 and lane 0 whose addresses are 0x10000. -/
def entry1 (v : Word) : QEnt := ⟨false, 0, 0, 0x10000, 0, v, 0, 0⟩

/-- The queue runs with an entry at its head. -/
def active1 : Queue := { st := .active, kick := 1 }

/-- The entry may be dispatched. -/
def headCheck (s : State) (e : QEnt) (i : Instr) : Bool := s.headReady 0 3 e && !s.yields 0 3 (s.headKeys 0 3 i)

/-- A timetable at 0x10000 of one LAUNCH unit at 1000 (17 R438). -/
def tableMem : List Host.Cell :=
  [(0x10000, 0x54), (0x10001, 0x54), (0x10002, 0x42), (0x10003, 0x4C), (0x10004, 1), (0x10040, 1), (0x10048, 0xE8), (0x10049, 3)]

/-- A lane job at 0x10000: one chunk of one byte for buffer 3 (20 R486). -/
def jobMem : List Host.Cell :=
  [(0x10000, 0x4C), (0x10001, 0x4A), (0x10002, 0x4F), (0x10003, 0x42), (0x10004, 1), (0x10006, 1), (0x10007, 12), (0x10008, 1),
    (0x1000E, 3), (0x10030, 1), (0x1003C, 64)]

theorem witness_QueueDispatchHeads :
    headCheck (onQueue active1) (entry1 0) (.fence (entry1 0)) = true
    ∧ headCheck (onQueue {}) (entry1 0) (.fence (entry1 0)) = false
    ∧ Rd.holds (((onQueue active1).keepHead 0 3).readRecord 0 0 0x10000 8) (fun r _ => field r 0 8 ≤ 0 && field r 0 8 < 1) = true
    ∧ Rd.holds (((onQueue active1).keepHead 0 3).counterPlace 0 0 0x10000) (fun _ _ => true) = true
    ∧ Rd.holds (((onQueue active1).keepHead 0 3).markPlace 0 0x10000) (fun pa _ => regionOf pa ≠ 3) = true
    ∧ (headCheck (onQueue active1) (entry1 0) (.copy (entry1 0)) && headCheck (onQueue active1) (entry1 0) (.lane (entry1 0))
      && headCheck (onQueue active1) (entry1 0) (.launch (entry1 0)) && headCheck (onQueue active1) (entry1 0) (.timetable (entry1 0)))
      = true
    ∧ ((onQueue active1).freeEngines 0 0 = [] ∧ (onQueue active1).laneFree 0 0 = false)
    ∧ (({ onQueue active1 with engs := [(0, { own := some 0 })] } : State).freeEngines 0 0 = [0])
    ∧ (({ onQueue active1 with lanes := [(0, { own := some 0, st := .idle })] } : State).laneFree 0 0 = true) := by decide +kernel

/-- The queue on the move at the page in the pool with some bytes. -/
def queuePool (mem : List Host.Cell) (c : Ctx := {}) (x : Queue := active1) : State :=
  let s := pooled 3 0 { c with queues := [(3, x)] } mem
  { s with cur := { queue := 3 }, tlb := s.tlb ++ s.tlb.map fun e => { e with clu := laneClu 0 } }

/-- Kernel 0 of an entry of queue 3, in a state. -/
def owned (st : KState) : Kernel := { state := st, cfg := List.replicate 16 {}, owner := some (3, 0) }

theorem witness_QueueDispatchReads :
    Rd.holds (((queuePool (launchMem 0x10000)).keepHead 0 3).readLaunch 0 0 0x10000 false) (fun v t =>
      v.toBool && (t.ctx 0).st ≠ .frozen) = true
    ∧ Rd.holds (((queuePool []).keepHead 0 3).readLaunch 0 0 0x10000 false) (fun v _ => !v.toBool) = true
    ∧ Rd.holds
        (((queuePool jobMem { pubs := [(3, { vabase := 0, npg := 1, cur := false, p0 := 0, p1 := 0, valid := true })] }).keepHead 0 3).readJob 0 (laneClu 0) 0x10000)
        (fun v _ => v.toBool) = true
    ∧ Rd.holds (((queuePool []).keepHead 0 3).readJob 0 (laneClu 0) 0x10000) (fun v _ => !v.toBool) = true
    ∧ loads Except.toBool ((queuePool kernMem).keepHead 0 3) = true ∧ (queuePool kernMem).ownedKernel 0 3 0 = none
    ∧ ((queuePool [] { kernels := [(0, owned .waiting)] }).ownedKernel 0 3 0 = some (0, owned .waiting))
    ∧ ((queuePool [] { kernels := [(0, owned .loaded)] }).ownedKernel 0 3 0 = some (0, owned .loaded)
      ∧ (queuePool [] { kernels := [(0, owned .loaded)] }).forkGroup 0 (owned .loaded) = none
      ∧ Rd.holds (((queuePool [] { kernels := [(0, owned .loaded)] }).keepHead 0 3).forkReads 0 (owned .loaded)) (fun v u =>
          v.1.toBool && u.forkReady 0 0 (owned .loaded)) = true)
    ∧ Rd.holds (((queuePool tableMem).keepHead 0 3).readTimetable 0 0 0x10000) (fun v _ => v.isSome) = true
    ∧ Rd.holds (((queuePool []).keepHead 0 3).readTimetable 0 0 0x10000) (fun v _ => v.isNone) = true := by decide +kernel

/-- A run of entry 0, and a timetable of entry 1 with one lane unit at 1000. -/
def progress (w : QWork) (ctr : Nat) (u : TtUnit) (gtc : Nat) : State :=
  let x : Queue := { active1 with runs := [⟨0, w, ctr, 1, false⟩], tables := [⟨1, 0xFF, [u]⟩] }
  { onQueue x with gtc := Word.of gtc, engs := [(0, { own := some 0, st := .faulted, queue := some (3, 0), cause := 0x0301 })] }

def unit1 (armed : Option Nat) (started : Bool) : TtUnit := ⟨0, 1000, 2, 0, 0, 0x10000, armed, started⟩

/-- A timetable of each queue from 3 on, by their priorities, arms a copy unit at 0x10000; engine 0 is free. -/
def arming (prios : List Nat := [1]) : State :=
  let x (p : Nat) : Queue := { active1 with prio := p, tables := [⟨1, 0xFF, [unit1 none false]⟩] }
  let s := queuePool (launchMem 0x10000)
  { s with engs := [(0, { own := some 0 })],
           ctxs := [(0, { s.ctx 0 with queues := (List.range prios.length).map fun i => (3 + i, x (prios.getD i 0)) })] }

/-- How a run ends. -/
def endCode (s : State) (r : QRun) : Nat :=
  match s.runEnd 0 3 r with
  | .goes => 0
  | .done => 1
  | .failed .. => 2

theorem witness_QueueProgress :
    (endCode (progress .now 0 (unit1 none false) 0) ⟨0, .now, 0, 1, false⟩ = 1
      ∧ endCode (progress (.engine 0) 0 (unit1 none false) 0) ⟨0, .engine 0, 0, 1, false⟩ = 2
      ∧ endCode (progress (.engine 0) 0 (unit1 none false) 0) ⟨1, .timetable, 0, 1, false⟩ = 0)
    ∧ QTry.holds ((progress .now 0x10000 (unit1 none false) 0).entryAdd 0 3 0 0x10000 1) (fun _ _ => true) = true
    ∧ ((progress .now 0 (unit1 none false) 0).mayArm 0 3 1 = true ∧ (progress .now 0 (unit1 none false) 0).entryStalled 0 3 0 = false)
    ∧ (((progress .now 0 (unit1 (some 1) false) 1000).slipped 0 ⟨1, 0xFF, [unit1 (some 1) false]⟩).isNone = true
      ∧ QTry.holds ((progress .now 0 (unit1 (some 1) false) 1000).startUnit 0 3 1 (unit1 (some 1) false) 1) (fun _ _ => true) = true)
    ∧ ((⟨1, 0xFF, [unit1 none false]⟩ : Timetable).toArm = some (unit1 none false)
      ∧ (⟨1, 0xFF, [unit1 (some 1) false]⟩ : Timetable).toArm = none)
    ∧ (arming.mayArm 0 3 1 = true ∧ arming.yields 0 3 (arming.unitKeys 0 3 1 (unit1 none false)) = false
      ∧ QTry.holds (arming.armUnit 0 3 1 (unit1 none false)) (fun _ _ => true) = true)
    ∧ (arming [2, 1]).yields 0 3 ((arming [2, 1]).unitKeys 0 3 1 (unit1 none false)) = true
    ∧ ((progress .now 0 (unit1 none false) 1000).slipped 0 ⟨1, 0xFF, [unit1 none false]⟩).isSome = true := by decide +kernel

/-! ### Witnesses: power, device, link, lanes, machine -/

/-- Thread 0 with operands, the store in a state at a level of MELT. -/
def onLease (d lv : Nat) (st : StoreSt) (melt : BitVec 16) (h : Thr := {}) (gtc : Nat := 0) : State :=
  { onHost d lv h with pow := { store := st, melt := melt, lmax := 1000 }, gtc := Word.of gtc }

theorem witness_Leases :
    (((onLease 0 1 .solid 0).me.reg 10).toNat = 0 ∧ (5 : Nat) > 4)
    ∧ (((onLease (2 ^ 32 - 1) 4 .locked 0).me.reg 10).toNat < 2 ^ 32 ∧ (onLease (2 ^ 32 - 1) 4 .locked 0).pow.store = .locked)
    ∧ (onLease 1 1 .refreeze 0).pow.store = .refreeze ∧ 0xC000 ≤ (onLease 1 1 .melting 0xC000).pow.melt.toNat
    ∧ (onLease 1 1 .melting 0xBFFF).pow.melt.toNat < 0xC000 ∧ (onLease 1 1 .solid 0).me.lease = none
    ∧ ((onLease 1 1 .solid 0 { lease := some (2, 500) } 499).me.lease = some (2, 500)
      ∧ (onLease 1 1 .solid 0 { lease := some (2, 500) } 499).gtc.toNat < 500
      ∧ 500 ≤ (onLease 1 1 .solid 0 { lease := some (2, 500) } 500).gtc.toNat)
    ∧ (({} : State).gtc.toNat < 1000 * (({} : State).ival + 1)
      ∧ 1000 * (({ gtc := 1000 } : State).ival + 1) ≤ ({ gtc := 1000 } : State).gtc.toNat)
    ∧ (∀ w, w ∈ ({ waits := [(.lane 0, 9)] } : Cluster).waits → w.1 ≠ .thread 0)
    ∧ ∃ w, w ∈ ({ waits := [(.thread 0, 2 ^ 40)] } : Cluster).waits ∧ w.1 = .thread 0 := by decide +kernel

theorem witness_PowerEvents :
    ((({} : Power).store = .solid ∧ (0xF000 : Nat) ≤ (0xF000#16).toNat) ∧ (0xEFFF#16).toNat < 0xF000)
    ∧ (({ store := .refreeze } : Power).store = .refreeze ∧ (0x4000 : Nat) < (0x4001#16).toNat)
    ∧ (clockRule (putOp 0 .matrix 1) = true ∧ nth ({} : Power).changed (railIndex .matrix) 0 = 0
      ∧ ((({} : Limits).opmin.extractLsb' (8 * railIndex .matrix) 8).toNat ≤ (1#2).toNat))
    ∧ clockRule (putOp 0 .sram 3) = false
    ∧ (({ tcrit := 95 } : Limits).tcrit.toNat ≤ (95#8).toNat ∧ ¬ ({ tcrit := 95 } : Limits).tcrit.toNat ≤ (94#8).toNat)
    ∧ ((85#8).toNat ≤ ({ trel := 85 } : Limits).trel.toNat ∧ ({ melt := 0x4000 } : Power).melt.toNat ≤ 0x4000
      ∧ ({ hold := true, cut := true } : Power).cut = true ∧ ({ hold := true } : Power).cut = false)
    ∧ (({ hold := true } : Power).releasing = false ∧ ({ hold := true, releasing := true } : Power).releasing = true
      ∧ ({ store := .locked } : Power).store = .locked ∧ ({ boot := .training } : State).boot = .training) := by decide +kernel

theorem witness_DeviceWrites :
    ((onHost 0 0).boot ≠ .recovery ∧ ({ boot := .recovery } : State).boot = .recovery)
    ∧ ((15 : Nat) < 16 ∧ ({} : State).winLock = false ∧ ({ winLock := true } : State).winLock = true ∧ (31 : Nat) < 32)
    ∧ (RegSrc.bar ≠ .firmware ∧ RegSrc.device ≠ .bar)
    ∧ ((({} : State).ports.all fun e => e.2.st = .down) = true
      ∧ (({ ports := [(0, { st := .up })] } : State).ports.any fun e => e.2.st ≠ .down) = true)
    ∧ ((63 : Nat) < 64 ∧ (65535 : Nat) < 65536 ∧ ({} : State).codecUsed 65535 = false ∧ (0xFF8 : Nat) < 0x1000) := by decide +kernel

/-- Whether the PUF key is reconstructed, and whether a record's signature verifies, are free values (log entries 49 and
50): which clause holds at a reset goes by them. -/
theorem witness_ColdReset :
    (Config.pufOk ({} : State).draws = true ∨ Config.pufOk ({} : State).draws = false)
    ∧ recordDefect ({} : State).record = some (1, 0)
    ∧ ({ busy := 2 } : Recovery).busy ≠ 0
    ∧ (({} : Fw).runs false = false
      ∧ (({ good := [true, false] } : Fw).runs false = true ∨ ({ good := [true, false] } : Fw).runs false = false))
    ∧ (({ boot := .recovery } : State).boot = .recovery ∧ ({} : Recovery).busy = 0 ∧ ({ busy := 2 } : Recovery).busy = 2)
    ∧ Memory.wf ({} : State).flash = true := by
  refine ⟨?_, ?_, ?_, ?_, ?_, ?_⟩
  all_goals first | decide +kernel | (cases Config.pufOk ({} : State).draws <;> simp)

/-- Thread 0 with an endpoint 1 of its context, and port 0 in a state. -/
def onLink (st : PortSt) (ms : List Msg := []) (thr : ThrSt := .ready) : State :=
  let s := onHost 0x10000 1 {} { eps := [(1, { pkgid := 7, rbase := 0x1000, npg := 1, rctx := 2, valid := true, ord := true })] }
  { s with ports := [(0, { st := st, lanes := 3 })], msgs := ms, portMask := 0,
           thrs := [(0, { s.me with st := thr })], epbase := [(0, 0)] }

/-- A message in flight. -/
def msgTo (src dst : Word) (sender : Sender) (kind : MsgKind) (answer : Option (BitVec 16 × List Byte) := none) : Msg :=
  { id := 0, sender := sender, src := src, dst := dst, sctx := 0, rctx := 0, ep := 1, kind := kind, va := 0x10000, port := 0,
    ord := false, vc := 0, answer := answer }

/-- Context 0 takes messages of context 0 of package 7 at the page in the pool, or at a page of HBM with a policy. -/
def peerOf (leaf : Option Word) : State :=
  let s := pooled 0x10000 1 { eps := [(1, { pkgid := 7, rbase := 0x1000, npg := 1, rctx := 0, valid := true, ord := true })] }
  match leaf with
  | none => s
  | some w => { s with tlb := [page 0x10000 w] }

/-- The bytes that a message reaches are translated, and each lies in plain memory. -/
def reaches (s : State) (a : Acc) (n : Nat) (q : List (Nat × Word) → State → Bool := fun _ _ => true) : Bool :=
  match s.peerPas 0 a none 0x10000 n with
  | .ok (ps, x) => x.banks = [] && Memory.wf x.mem && decide ((ps.map Prod.fst).Nodup)
      && (ps.all fun p => regionOf p.1 ≠ 3 && plainCheck x p.1 1) && q ps x
  | .error _ => false

theorem witness_VetarPerforms :
    ((peerOf none).ctx 0).st.accepts = true
    ∧ reaches (peerOf none) .write 2 (fun ps x => Rd.holds (x.counterPlace 0 0 0x10008) fun pa y =>
        plainCheck y pa 8 && ps.all fun p => p.1 < pa || pa + 8 ≤ p.1) = true
    ∧ reaches (peerOf none) .read 2 (fun ps x => (x.peerFormat 0 (((ps.head?).map Prod.snd).getD 0) none).toOption.isSome) = true
    ∧ reaches (peerOf (some fetchLeaf)) .write 4 (fun ps x => cachedPol (((ps.head?).map Prod.snd).getD 0)
        && regionOf 0x10000 = 0 && plainCheck x 0x10000 4 && (x.pageFmt 0 (((ps.head?).map Prod.snd).getD 0)).efmt = 0) = true
    := by decide +kernel

theorem witness_VetarMessages :
    ((0x10001 : Nat) % 64 ≠ 0
      ∧ (match (onLink .up).hostRecord 0x10000 128 with
          | .ok r t => field r 8 1 ≤ 64 && zeroBytes r 9 0x40 && t.me = (onLink .up).me && (t.sigTarget t.myCtx 1).isSome
              && (t.sigTarget t.myCtx 2).isNone
              && (t.spend t.myClu (t.cost [4] 8) (.thread t.cur.thr)).any fun u => match u.flushMine.endpoint 0 1 with
                | some e => (u.flushMine.route u.myCtx e).isSome
                | none => false
          | .stop _ => false) = true)
    ∧ ((onLink .up).msgs[0]? = none)
    ∧ ((onLink .up [msgTo 7 0 .remote (.signal [1] 1)]).mayArrive 0 (msgTo 7 0 .remote (.signal [1] 1)) = true
      ∧ (onLink .up [msgTo 7 0 .remote (.read 8 none)]).mayArrive 0 (msgTo 7 0 .remote (.read 8 none) (some (0, []))) = false
      ∧ (msgTo 7 0 .remote (.signal [1] 1)).dst = (onLink .up).pkgid ∧ (msgTo 7 0 .remote (.signal [1] 1)).src ≠ (onLink .up).pkgid)
    ∧ (((onLink .up).ctx 5).st.accepts = false ∧ ((onLink .up).ctx 0).st.accepts = true)
    ∧ ((onLink .up).outcome (msgTo 0 7 (.thread 0) (.signal [1] 1) (some (0x0801, []))) 0 [] = some (0x0801, [])
      ∧ ((onLink .up [] .sigst).thr 0).st = .sigst)
    ∧ (((onLink .up [msgTo 0 7 (.engine 3) (.read 8 none) (some (0, []))]).msgs.find? fun x =>
        x.sender = .engine 3 && x.src = 0 && ((onLink .up).outcome x 0 []).isSome).isSome = true) := by decide +kernel

theorem witness_PortStates :
    ((63 : Nat) < 64 ∧ (onLink .down).laneMask 63 = 3#2 ∧ ((onLink .down).port 0).st = .down)
    ∧ (({ onLink .down with boot := .training } : State).boot = .training ∧ (onLink .down).boot ≠ .training
      ∧ ((onLink .down).ports.all fun e => e.2.st = .down) = true)
    ∧ (((onLink .training).port 0).st = .training ∧ 1#2 &&& (onLink .training).laneMask 0 ≠ 0#2
      ∧ 20000000 ≤ (20000000#64).toNat)
    ∧ (((onLink .shedding).port 0).st = .shedding ∧ ((onLink .shedding).port 0).usable = true
      ∧ ((onLink .down).port 0).usable = false)
    ∧ (((onLink .degraded).port 0).lanes &&& 1#2 ≠ 0#2 ∧ (0#2 &&& 1#2 = 0#2))
    ∧ ((onLink .up).hostReaches hostBase 64 = true ∧ (onLink .up).hostReaches (2 ^ 48) 1 = false)
    ∧ (Memory.wf (onLink .up).mem = true ∧ (onLink .up).banks = [] ∧ (onLink .up).readError hostBase 64 = none
      ∧ ((List.range 64).all fun i => !(onLink .up).isCodec (hostBase + i)) = true) := by decide +kernel

/-- Lane 0 of context 0 is on the move. -/
def onLane (x : Lane) : State :=
  let s := queuePool [] { pubs := [(3, { vabase := 0x10000, npg := 1, cur := false, p0 := poolBase, p1 := poolBase + 0x1000, valid := true })] }
  { s with lanes := [(0, { x with own := some 0 })] }

/-- A job of one chunk of eight bytes at 0x10000, one state and one class. -/
def job1 : Job := { inptr := 0x10000, inlen := 8, cmap := 0x10100, table := 0x10200, outbuf := 3 }

/-- A loaded lane whose first sub-stream runs chunk 0 by one entry. -/
def stepping (entry : Nat) : Lane :=
  { st := .running, job := job1, loaded := true, cmap := List.replicate 256 0, table := [entry],
    subs := { chunk := some 0 } :: List.replicate 7 {} }

/-- A running lane that has bytes of its class map and its table. -/
def loading (maps words : Nat) (accpt : Nat := 0) : State :=
  onLane { stepping 0 with loaded := false, cmap := List.replicate maps 0, table := List.replicate words 0,
                           job := { job1 with accpt := accpt } }

/-- The one chunk of a job is complete; the job counts and leaves a status record where it names a place. -/
def finished (ctra statptr : Nat) : Lane :=
  { stepping 0 with own := some 0, subs := List.replicate 8 {}, lens := [(0, 5)],
                    job := { job1 with ctra := ctra, statptr := statptr } }

/-- The output buffer of a lane's job is published. -/
def committing (x : Lane) : State := ((onLane x).drainBanks fun b => b.src = srcOf 0 2049).publish 0 3

/-- A lane operation answers a value and a state with a property. -/
def LRes.holds {α : Type} (r : LRes α) (q : α → State → Bool) : Bool :=
  match r with
  | .ok v t => q v t
  | _ => false

theorem witness_LaneSteps :
    Rd.holds ((queuePool jobMem { pubs := [(3, { vabase := 0, npg := 1, cur := false, p0 := 0, p1 := 0, valid := true })] }).readJob 0 0 0x10000) (fun v t =>
      v.toBool && t.me = (queuePool []).me && !t.laneFree 0 3) = true
    ∧ Rd.holds ((queuePool []).readJob 0 0 0x10000) (fun v _ => !v.toBool) = true
    ∧ (({ onLane { st := .idle } with thrs := [(0, {})] } : State).laneFree 0 0 = true)
    ∧ ((onLane { st := .failed, serial := 1 }).laneOf? ((onLane { st := .failed, serial := 1 }).laneHandle 0) = some 0
      ∧ (onLane { st := .failed }).laneOf? (BitVec.allOnes 64) = none)
    ∧ ((onLane (stepping 0)).lane 0).complete = false ∧ (onLane (stepping 0)).laneStalled 0 0 none = false
    ∧ LRes.holds ((loading 0 0).laneRead 0 0 0x10100 64) (fun _ t => t.lane 0 = (loading 0 0).lane 0) = true
    ∧ LRes.holds ((loading 256 0).laneRead 0 0 0x10200 4) (fun _ t => t.lane 0 = (loading 256 0).lane 0) = true
    ∧ LRes.holds ((loading 256 1 0x10300).laneRead 0 0 0x10300 128) (fun _ t => t.lane 0 = (loading 256 1 0x10300).lane 0) = true
    ∧ loadDefect job1 (List.replicate 256 0) [0] = none
    ∧ (loadDefect job1 (List.replicate 256 1) [0]).isSome = true
    ∧ ({ stepping 0 with subs := List.replicate 8 {} } : Lane).nextChunk = some 0
    ∧ ({ stepping 0 with lens := [(0, 5)] } : Lane).nextChunk = none
    ∧ LRes.holds ((onLane (stepping 0)).laneWrite 0 0 0 [1, 2]) (fun _ t =>
        t.lane 0 = (onLane (stepping 0)).lane 0 && LRes.holds (t.laneWrite 0 0 0 (bytesOf 2 4)) fun _ u =>
          u.lane 0 = (onLane (stepping 0)).lane 0) = true
    ∧ LRes.holds ((onLane (stepping 0)).lanePlaces 0 0 0 2) (fun ps t => decide ((ps.map Prod.fst).Nodup)
        && LRes.holds (t.laneSpend 0 (t.laneClasses 0 ((ps.head?).getD (0, 0)).1 ((ps.head?).getD (0, 0)).2) 2) fun _ w =>
          w.banks = [] && w.failedCh = [] && Memory.wf w.mem && ps.all fun p => plainCheck w p.1 1) = true
    ∧ ({ stepping 0 with failing := some 0 } : Lane).failing.isSome = true
    ∧ (({ st := .running, halted := true } : Lane).subs.all fun u => u.chunk.isNone) = true
    ∧ ({ stepping 0 with bound := some .failed } : Lane).bound = some .failed
    ∧ LRes.holds ((onLane (stepping 0)).laneRead 0 0 0x10000 1) (fun v _ => v = [0]) = true
    ∧ ((laneAction {} 0 0).bad = false ∧ (laneAction {} 0 0).ends = false ∧ (laneAction {} 0 0).out = [])
    ∧ (laneAction {} (9 * 2 ^ 16) 0).bad = true
    ∧ (finished 0 0).complete = true ∧ (committing (finished 0 0)).lane 0 = finished 0 0
    ∧ Rd.holds (({ committing (finished 0x10008 0) with lanes := [(0, { finished 0x10008 0 with stage := 1 })] } : State).counterPlace
        0 (laneClu 0) 0x10008) (fun pa t => LRes.holds (t.laneSpend 0 (t.atomClasses pa) 8) fun _ w =>
          w.lane 0 = { finished 0x10008 0 with stage := 1 } && plainCheck w pa 8 && Memory.wf w.mem) = true
    ∧ Rd.holds (Rd.mapM (fun s va => s.engXlate 0 (laneClu 0) va .write none) ((List.range 64).map (0x10100 + ·))
        { committing (finished 0 0x10100) with lanes := [(0, { finished 0 0x10100 with stage := 2, bound := some .done })] }) (fun ps t =>
          LRes.holds (t.laneSpend 0 (t.laneClasses 0 ((ps.head?).getD (0, 0)).1 ((ps.head?).getD (0, 0)).2) 64) fun _ w =>
            w.lane 0 = { finished 0 0x10100 with stage := 2, bound := some .done } && w.banks = [] && Memory.wf w.mem && decide ((ps.map Prod.fst).Nodup)
              && ps.all fun p => plainCheck w p.1 1) = true := by decide +kernel

theorem witness_HostEncoding :
    ((Instr.kld 10 11).wf = true ∧ encode (.kld 10 11) = some (.host 0x0005850B))
    ∧ (decodeHost32 0x0005850B).toOption = some (.kld 10 11) ∧ (Rv.lui 1 5).wf = true
    ∧ ((Instr.hostInstruction (.jalr 0 1 0) true).wf = true
      ∧ encode (.hostInstruction (.jalr 0 1 0) true) = some (.parcel 0x8082))
    ∧ (decodeHost16 0x8082).toOption = some (.hostInstruction (.jalr 0 1 0) true) := by decide +kernel

theorem witness_CodeEncoding :
    ((Instr.mulc (opw 0 0x40 0x4705 0x15 9)).wf = true
      ∧ encode (.mulc (opw 0 0x40 0x4705 0x15 9)) = some (.op .cpe 0x0E4040 0x4705 0x0015))
    ∧ ((Instr.dbias 0 0 8 0 0 false 3).wf = true ∧ encode (.dbias 0 0 8 0 0 false 3) = some (.drain 0x0C020003))
    ∧ ((Instr.start 3).wf = true
      ∧ encode (.start 3) = some (.command (0x11#8 :: List.replicate 7 0#8 ++ [3#8] ++ List.replicate 55 0#8)))
    ∧ ((Instr.fence ⟨false, 0, 0, 0, 0, 0, 0, 0⟩).wf = true
      ∧ encode (.fence ⟨false, 0, 0, 0, 0, 0, 0, 0⟩) = some (.queue (0x08#8 :: List.replicate 63 0#8)))
    ∧ ((Instr.copyCnt (copyEnt1 2)).wf = true ∧ (encode (.copyCnt (copyEnt1 2))).isSome = true) := by decide +kernel

theorem witness_PredicatedOff :
    (Instr.add (opw 1 0 0 0 15)).op? = some (.ape, 1, opw 1 0 0 0 15)
    ∧ (match (onPe {} 1).opEnv (opw 1 0 0 0 15) with
        | some e => e.k.run.predicate e.core 15 = false
        | none => false) = true := by decide +kernel

theorem witness_HostIsolation : (∃ t, exec .hintC (onHost 0 0) = .next t) ∧ (127 : Nat) ≠ (onHost 0 0).cur.thr
    ∧ encode .hintC = some (.host 0x0800400B) ∧ ((onHost 0 0).thrs.all fun e => !e.2.bwaits 0 0) = true :=
  ⟨⟨_, rfl⟩, by decide +kernel⟩

/-- The schedule names an agent. -/
def runs (a : Agent) (s : State) : State := { s with sched := [a] }

/-- A command ring at 0x3000 with START of context 0. -/
def ring1 : State := { boot := .ready, mem := [(0x3000, 0x11)], sys := { base := 0x3000, kick := 1 } }

theorem witness_StepRuns :
    ((127 : Nat) < 128 ∧ ({} : State).mayIssue 127 = false ∧ (trapped false 0 [] [] []).mayIssue 0 = true)
    ∧ (({ onHost 0 0 with clus := [(0, { turn := 1 })], thrs := [(0, { st := .ready }), (1, { st := .ready })] } : State).mayIssue 1
        = true)
    ∧ ((runs (.firmware (.quote [])) ring1).sched = [.firmware (.quote [])]
      ∧ (runs (.upset (.thread 0 1)) ring1).sched = [.upset (.thread 0 1)])
    ∧ ((trapped false 0 [cause1] [] []).thr 0).inbox ≠ []
    ∧ (match ({ pooled 0 0 with thrs := [(0, { st := .ready, pc := 0x10000 })], mem := forkWaits.mem } : State).fetch with
        | .instr i _ => decide (i = .kfork 5 9)
        | .stop _ _ => false) = true
    ∧ (match forkWaits.fetchHalf 0 0 0x10000 with
        | .ok (lo, t) => !isCompressed lo && match t.fetchHalf 0 0 0x10002 with
          | .ok (hi, _) => (decodeHost32 (hi ++ lo)).toOption = some (.kfork 5 9)
          | .error _ => false
        | .error _ => false) = true
    ∧ (ring1.sys.busy = none ∧ ring1.sys.done.toNat < ring1.sys.kick.toNat ∧ ring1.recordReadable ring1.cmdRecord = true
      ∧ (decodeCommand (ring1.ringBytes ring1.cmdRecord)).toOption = some (.start 0))
    ∧ ({ ring1 with sys := { base := Word.of (2 ^ 51), kick := 1 } } : State).recordReadable (2 ^ 51) = false
    ∧ (decodeCommand (({ ring1 with mem := [] } : State).ringBytes 0x3000)).toOption = none
    ∧ (match (progress .now 0 (unit1 none false) 0).queueMove 0 3 with | some (.run _) => true | _ => false) = true
    ∧ ((onDom (rotating [])).kernel? 0 0).isSome = true ∧ (checking false []).run.phase = .check
    ∧ (siteInstr (checking false []) ((onDom (checking false [])).atSite 0 0 (checking false []) (.op 0 0)) (.op 0 0)).isSome = true
    ∧ ((timed .running 24).eng 0).own = some 0
    ∧ CRes.holds (State.fetchEntry { onEng { engOf .running 0 with launch := { entptr := 0x10800 } } with
        mem := (0x10800, 8) :: (List.range 5).map fun i => (0x10810 + 2 * i, 1) } 0) (fun p _ => (copyKind p.1 p.2).isSome) = true
    ∧ (((onLane (stepping 0)).lane 0).st = .running ∧ ((onLane (stepping 0)).lane 0).loaded = true)
    ∧ (onDom (rotating [])).starts = [] ∧ ((runs (.clock 1) ring1).sched = .clock 1 :: []) := by decide +kernel

theorem witness_StepKeepsInv : (∃ t, step (runs (.clock 1) State.reset) = .next t)
    ∧ Memory.wf (runs (.clock 1) State.reset).mem = true := ⟨⟨_, rfl⟩, by decide +kernel⟩

theorem witness_ResetState : regionOf (2 ^ 48) = 1 ∧ regionOf (3 * 2 ^ 48 - 1) = 2 := by decide +kernel


end Sys2Proof.Tests
end

section
/-! What a step runs: one lemma for each thing an agent does when it moves, and the clock and the turn of a host
core in terms of what they bound and choose. -/
namespace Sys2Proof.Machine

/-! ### The head of the schedule -/

/-- The agent at the head of the schedule moves, in the state that has taken it from there. -/
theorem step_eq_move {s : State} {ag : Agent} {rest : List Agent} (hs : s.sched = ag :: rest)
    (he : ag.exists_ = true) : step s = ({ s with sched := rest } : State).move ag := by
  simp [step, State.pick, hs, he]

/-- An agent whose unit the package does not have is a fault. -/
theorem step_eq_fault {s : State} {ag : Agent} {rest : List Agent} (hs : s.sched = ag :: rest)
    (he : ag.exists_ = false) : step s = .fault .noSuchUnit := by
  simp [step, State.pick, hs, he]

/-! ### Host threads -/

/-- The machine with a host thread on the move, which has taken the turn of its core. -/
def State.takeTurn (s : State) (n : Nat) : State :=
  { s.giveTurn (cluOf n) n with cur := { s.cur with thr := n } }

/-- A host thread that may not issue leaves the machine as it is. -/
theorem State.hostMove_idle {s : State} {n : Nat} (h : s.mayIssue n = false) : s.hostMove n = .next s := by
  simp [State.hostMove, h]

/-- A host thread that may issue takes the turn; then its cause is delivered, or its fetch decides. -/
theorem State.hostMove_issue {s : State} {n : Nat} (h : s.mayIssue n = true) :
    s.hostMove n =
      if (s.thr n).inbox ≠ [] then exec .asyncTrapDeliver (s.takeTurn n)
      else match (s.takeTurn n).fetch with
        | .instr i t => exec i t
        | .stop cause info => .next ((s.takeTurn n).raise cause info .fetch) :=
  if_neg (by simp [h])

/-- A cause that has arrived is delivered before the next instruction (16 R420). -/
theorem State.hostMove_deliver {s : State} {n : Nat} (h : s.mayIssue n = true) (hi : (s.thr n).inbox ≠ []) :
    s.hostMove n = exec .asyncTrapDeliver (s.takeTurn n) := by
  rw [State.hostMove_issue h, if_pos hi]

/-- With no cause pending, a thread that may issue executes what its fetch finds. -/
theorem State.hostMove_exec {s t : State} {n : Nat} {i : Instr} (h : s.mayIssue n = true)
    (hi : (s.thr n).inbox = []) (hf : (s.takeTurn n).fetch = .instr i t) : s.hostMove n = exec i t := by
  rw [State.hostMove_issue h, if_neg (not_not_intro hi), hf]

/-! ### Fetching an instruction -/

/-- A compressed parcel other than zero is an instruction by itself. -/
theorem State.fetch_compressed {s t : State} {lo : Half16} {i : Instr}
    (hl : s.fetchHalf s.myCtx s.myClu s.me.pc.toNat = .ok (lo, t)) (hc : isCompressed lo = true) (h0 : lo ≠ 0)
    (hd : decodeHost16 lo = .ok i) : s.fetch = .instr i t := by
  simp [State.fetch, hl, hc, show ¬lo = 0#16 from h0, hd]

/-- A parcel that is not compressed is the low half of an instruction of two parcels. -/
theorem State.fetch_pair {s t u : State} {lo hi : Half16} {i : Instr}
    (hl : s.fetchHalf s.myCtx s.myClu s.me.pc.toNat = .ok (lo, t)) (hc : isCompressed lo = false)
    (hh : t.fetchHalf t.myCtx t.myClu (s.me.pc.toNat + 2) = .ok (hi, u)) (hd : decodeHost32 (hi ++ lo) = .ok i) :
    s.fetch = .instr i u := by
  simp [State.fetch, hl, hc, hh, hd]

/-! ### The turn of a host core -/

/-- The thread of a core in a place behind the thread whose turn it is. -/
def turnThread (clu turn place : Nat) : Nat := 16 * clu + (turn + place) % 16

/-- The place of a thread behind the thread whose turn it is on its core. -/
def turnPlace (turn n : Nat) : Nat := (n + 16 - turn % 16) % 16

theorem turnPlace_lt (turn n : Nat) : turnPlace turn n < 16 := Nat.mod_lt _ (by decide)

@[simp] theorem turnThread_turnPlace (turn n : Nat) : turnThread (cluOf n) turn (turnPlace turn n) = n := by
  simp only [turnThread, turnPlace, cluOf]; omega

theorem turnPlace_turnThread {place : Nat} (clu turn : Nat) (h : place < 16) :
    turnPlace turn (turnThread clu turn place) = place := by
  simp only [turnThread, turnPlace]; omega

@[simp] theorem cluOf_turnThread (clu turn place : Nat) : cluOf (turnThread clu turn place) = clu := by
  simp only [turnThread, cluOf]; omega

/-- A core issues from the first of its threads that can issue, in the order of their places behind the turn. -/
theorem State.issuer_eq (s : State) (clu : Nat) :
    s.issuer clu = ((List.range 16).map (turnThread clu (s.clu clu).turn)).find? s.canIssue := rfl

/-- A core issues from a thread when that can issue and no thread in an earlier place can. -/
theorem State.issuer_eq_some_iff (s : State) (clu n : Nat) :
    s.issuer clu = some n ↔ s.canIssue n = true ∧ ∃ place, turnThread clu (s.clu clu).turn place = n ∧ place < 16 ∧
      ∀ j < place, s.canIssue (turnThread clu (s.clu clu).turn j) = false := by
  rw [State.issuer_eq, List.find?_eq_some_iff_getElem]
  simp

/-- A host thread may issue when it can and stands no further behind the turn than any thread of its core that can
(08 R245; log entry 78). -/
theorem State.mayIssue_iff (s : State) (n : Nat) :
    s.mayIssue n = true ↔ s.canIssue n = true ∧ ∀ m, cluOf m = cluOf n → s.canIssue m = true →
      turnPlace (s.clu (cluOf n)).turn n ≤ turnPlace (s.clu (cluOf n)).turn m := by
  simp only [State.mayIssue, decide_eq_true_eq, State.issuer_eq_some_iff]
  refine and_congr_right fun _ => ⟨?_, fun hmin => ?_⟩
  · rintro ⟨place, hn, hp, hfirst⟩ m hm hcan
    have hplace := turnPlace_turnThread (cluOf n) (s.clu (cluOf n)).turn hp
    rw [hn] at hplace
    refine Nat.le_of_not_lt fun hlt => ?_
    have hno := hfirst (turnPlace (s.clu (cluOf n)).turn m) (hplace ▸ hlt)
    rw [← hm, turnThread_turnPlace, hcan] at hno
    cases hno
  · refine ⟨_, turnThread_turnPlace _ n, turnPlace_lt _ n, fun j hj => Bool.eq_false_iff.mpr fun hcan => ?_⟩
    have hle := hmin _ (cluOf_turnThread ..) hcan
    rw [turnPlace_turnThread _ _ (Nat.lt_trans hj (turnPlace_lt _ n))] at hle
    exact Nat.not_lt.mpr hle hj

/-! ### The command interface and queues -/

/-- The command interface takes a record: the module is ready, no emergency holds it, the command before has completed
and the ring holds another (17 R428, R429). -/
structure State.TakesCommand (s : State) : Prop where
  ready : s.boot = .ready
  free : s.pow.hold = false
  idle : s.sys.busy = none
  kicked : s.sys.done.toNat < s.sys.kick.toNat

/-- A command interface that takes a record reads it, and executes what it decodes to. -/
theorem State.commandMove_take {s : State} (h : s.TakesCommand) :
    s.commandMove = if !s.recordReadable s.cmdRecord then .next (s.finish 1)
      else match decodeCommand (s.ringBytes s.cmdRecord) with
        | .error _ => .next (s.finish 1)
        | .ok i => exec i s := by
  have hk : s.sys.done.ult s.sys.kick = true := by simpa [BitVec.ult] using h.kicked
  exact if_neg (by simp [h.ready, h.free, h.idle, hk])

/-- A record that can be read and decodes is executed. -/
theorem State.commandMove_exec {s : State} {i : Instr} (h : s.TakesCommand)
    (hr : s.recordReadable s.cmdRecord = true) (hd : decodeCommand (s.ringBytes s.cmdRecord) = .ok i) :
    s.commandMove = exec i s := by
  simp [State.commandMove_take h, hr, hd]

/-- A record that cannot be read completes with status 1. -/
theorem State.commandMove_unreadable {s : State} (h : s.TakesCommand) (hr : s.recordReadable s.cmdRecord = false) :
    s.commandMove = .next (s.finish 1) := by
  simp [State.commandMove_take h, hr]

/-- A record that does not decode completes with status 1, whether or not it can be read. -/
theorem State.commandMove_undecoded {s : State} {e : DecodeError} (h : s.TakesCommand)
    (hd : decodeCommand (s.ringBytes s.cmdRecord) = .error e) : s.commandMove = .next (s.finish 1) := by
  simp [State.commandMove_take h, hd]

/-- The front end executes the next instruction of a queue. -/
theorem State.queueGo_run {s : State} {ctx q : Nat} {i : Instr} (h : s.queueMove ctx q = some (.run i)) :
    s.queueGo ctx q = exec i { s with cur := { s.cur with ctx := ctx, queue := q } } := by
  simp [State.queueGo, h]

/-! ### Timing domains -/

/-- The machine with the timing domain of a kernel on the move. -/
def State.atDomain (s : State) (ctx kh : Nat) : State :=
  { s with cur := { s.cur with ctx := ctx, kern := kh, beat := none } }

/-- The domain of a kernel that runs in a context that runs acts by its phase (05 R136). -/
theorem State.domainMove_running {s : State} {ctx kh : Nat} {k : Kernel} (hk : s.kernel? ctx kh = some k)
    (hr : k.state = .running) (hc : (s.ctx ctx).st = .running) :
    s.domainMove ctx kh =
      match k.run.phase with
      | .rotate => exec .rotate (s.atDomain ctx kh)
      | .check => exec .domainResume (s.atDomain ctx kh)
      | .issue =>
        match k.run.todo with
        | [] => exec .land (s.atDomain ctx kh)
        | x :: rest => (s.atDomain ctx kh).siteMove ctx kh k x rest
      | .beats =>
        match (s.atDomain ctx kh).beatsDue k with
        | [] => exec .land (s.atDomain ctx kh)
        | en :: _ =>
          let t := { s.atDomain ctx kh with cur := { (s.atDomain ctx kh).cur with eng := en } }
          if (t.eng en).st = .armed then exec .copyArmedStart t else exec .copyBeat t := by
  have hm : ¬(k.state ≠ .running ∨ (!(s.ctx ctx).st.moves) = true) := by simp [hr, hc, CtxSt.moves]
  simp only [State.domainMove, hk, if_neg hm]
  rfl

/-- A site that is an instruction executes it, with the sites behind it still to do. -/
theorem State.siteMove_exec {s : State} {ctx kh : Nat} {k : Kernel} {x : Site} {sites : List Site} {i : Instr}
    (h : siteInstr k ((s.modRun ctx kh fun y => { y with todo := sites }).atSite ctx kh k x) x = some i) :
    s.siteMove ctx kh k x sites
      = exec i ((s.modRun ctx kh fun y => { y with todo := sites }).atSite ctx kh k x) := by
  simp only [State.siteMove, h]

/-! ### Copy engines and lanes -/

/-- The machine with a copy engine on the move. -/
def State.atEngine (s : State) (n : Nat) : State := { s with cur := { s.cur with eng := n } }

/-- A copy engine goes on: its context runs, no end is bound to it and nothing has halted it. -/
structure State.EngineGoes (s : State) (n ctx : Nat) : Prop where
  own : (s.eng n).own = some ctx
  running : (s.ctx ctx).st = .running
  unbound : (s.eng n).bound = none
  unhalted : (s.eng n).halted = false

/-- A copy engine that goes on waits, or, running free, performs the entry that it has reached (10 R286). -/
theorem State.copyMove_goes {s : State} {n ctx : Nat} (h : s.EngineGoes n ctx) :
    s.copyMove n =
      if (s.eng n).st = .waiting then exec .waitsSatisfied (s.atEngine n)
      else if (s.eng n).st ≠ .running ∨ (s.eng n).launch.timed then .next (s.atEngine n)
      else match (s.atEngine n).fetchEntry n with
        | .ok p t =>
          match copyKind p.1 p.2 with
          | some i => exec i t
          | none => .next t
        | .wait t => .next t
        | .fault cause info t => .next (t.faultEngine n cause info) := by
  have hm : ((s.eng n).own.any fun c => ((s.atEngine n).ctx c).st.moves) = true := by
    simp only [h.own, Option.any_some]
    exact congrArg CtxSt.moves h.running
  simp only [State.atEngine] at hm
  simp only [State.copyMove, hm, h.unbound, h.unhalted, Option.isSome_none, Bool.not_true, Bool.false_eq_true,
    if_false]
  rfl

/-- A lane goes on with its job: it runs, its tables are loaded, and neither a halt nor a failure stops it. -/
structure Lane.Goes (x : Lane) : Prop where
  running : x.st = .running
  loaded : x.loaded = true
  unhalted : x.halted = false
  sound : x.failing = none
  unbound : x.bound = none

/-- A lane that goes on commits once every chunk is complete, and runs a step before (20 R488, R490). -/
theorem State.laneMove_goes {s : State} {l : Nat} (h : (s.lane l).Goes) :
    s.laneMove l =
      exec (if (s.lane l).complete then .laneCommit else .laneByteStep) { s with cur := { s.cur with lane := l } } := by
  simp only [State.laneMove, h.running, h.loaded, h.unhalted, h.sound, h.unbound]
  cases (s.lane l).complete <;> rfl

/-! ### The clock -/

/-- A clock that stops at each of a list of times it has not passed. -/
def clockStops (now : Nat) (stops : List Nat) (g : Nat) : Nat := stops.foldl (fun g t => min g (max t now)) g

/-- The GTC stops at the starts of units and at the end of a trial (17 R438, R442). -/
theorem State.gtcAfter_eq (s : State) (m : Nat) :
    s.gtcAfter m = clockStops s.gtc.toNat (s.starts ++ s.fw.deadline.toList) (s.gtc.toNat + m) := rfl

/-- A clock that stops does not go back. -/
theorem le_clockStops {now g : Nat} (stops : List Nat) (h : now ≤ g) : now ≤ clockStops now stops g := by
  induction stops generalizing g with
  | nil => exact h
  | cons d stops ih => exact ih (Nat.le_min.mpr ⟨h, Nat.le_max_right d now⟩)

/-- A clock that stops does not overtake one that does not. -/
theorem clockStops_le (now : Nat) (stops : List Nat) (g : Nat) : clockStops now stops g ≤ g := by
  induction stops generalizing g with
  | nil => exact Nat.le_refl g
  | cons d stops ih => exact Nat.le_trans (ih _) (Nat.min_le_left ..)

/-- A clock passes none of its stops, except those that lie behind it. -/
theorem clockStops_le_stop {now d : Nat} {stops : List Nat} (g : Nat) (h : d ∈ stops) :
    clockStops now stops g ≤ max d now := by
  induction stops generalizing g with
  | nil => cases h
  | cons c stops ih =>
    cases h with
    | head => exact Nat.le_trans (clockStops_le now stops _) (Nat.min_le_right ..)
    | tail _ h => exact ih _ h

theorem State.gtcAfter_free {s : State} (m : Nat) (hs : s.starts = []) (hd : s.fw.deadline = none) :
    s.gtcAfter m = s.gtc.toNat + m := by
  simp [State.gtcAfter_eq, clockStops, hs, hd]

theorem State.gtc_le_gtcAfter (s : State) (m : Nat) : s.gtc.toNat ≤ s.gtcAfter m :=
  le_clockStops _ (Nat.le_add_right ..)

theorem State.gtcAfter_le {s : State} {d : Nat} (m : Nat) (h : d ∈ s.starts ∨ s.fw.deadline = some d) :
    s.gtcAfter m ≤ max d s.gtc.toNat :=
  clockStops_le_stop _ (List.mem_append.mpr (h.imp_right Option.mem_toList.mpr))

/-! ### The statement -/

/-- Settles O58: the head of the schedule moves (`step_eq_move`), and each agent's move is its lemma above. -/
theorem stepRuns : Obligations.StepRuns := by
  intro s t u i n ctx kh q l m f rest lo hi k x sites p msg act up a b pc r dom eng lan host runs site
  have hstep : ∀ {ag}, s.sched = ag :: rest → ag.exists_ = true → step s = a.move ag := step_eq_move
  have hhost (h : host) : step s = a.hostMove n := hstep h.1 (decide_eq_true h.2)
  refine ⟨fun h hm => (hhost h).trans (State.hostMove_idle hm),
    fun h hm hi => (hhost h).trans (State.hostMove_deliver hm hi),
    fun h hm hi hf => (hhost h).trans (State.hostMove_exec hm hi hf),
    State.fetch_compressed, State.fetch_pair, ?command, ?queue, ?domain, ?copy, ?lane,
    fun hs => hstep hs rfl, ?clock, fun hs => hstep hs rfl, fun hs => hstep hs rfl, fun hs => hstep hs rfl,
    State.mayIssue_iff a n, ?absent⟩
  case command =>
    intro hs hb hh hi hk
    have htake : a.TakesCommand := ⟨hb, hh, hi, hk⟩
    have hmove : step s = a.commandMove := hstep hs rfl
    exact ⟨fun hr hd => hmove.trans (State.commandMove_exec htake hr hd),
      fun hr => hmove.trans (State.commandMove_unreadable htake hr),
      fun e hd => hmove.trans (State.commandMove_undecoded htake hd)⟩
  case queue =>
    intro hs hc hq hm
    exact (hstep hs (by simp [Agent.exists_, hc, hq])).trans (State.queueGo_run hm)
  case domain =>
    rintro hs hc hk ⟨hkern, hrun, hctx⟩
    have hmove := (hstep hs (by simp [Agent.exists_, hc, hk])).trans (State.domainMove_running hkern hrun hctx)
    refine ⟨fun hp => ?rotate, fun hp => ?check, fun hp ht => ?land, fun hp ht hx => ?site⟩
    case site => rw [hmove, hp, ht]; exact State.siteMove_exec hx
    case land => rw [hmove, hp, ht]; rfl
    all_goals rw [hmove, hp]; rfl
  case copy =>
    intro hs hn ho hc hb hh
    have hmove := (hstep hs (decide_eq_true hn)).trans (State.copyMove_goes ⟨ho, hc, hb, hh⟩)
    refine ⟨fun hw => ?_, fun hr ht hf hk => ?_⟩
    · rw [hmove, if_pos hw]; rfl
    · have hf : (a.atEngine n).fetchEntry n = .ok p t := hf
      simp [hmove, hr, ht, hf, hk]
  case lane =>
    intro hs hl hr hld hh hf hb
    exact (hstep hs (decide_eq_true hl)).trans (State.laneMove_goes ⟨hr, hld, hh, hf, hb⟩)
  case clock =>
    intro hs
    exact ⟨hstep hs rfl, State.gtcAfter_free m, State.gtc_le_gtcAfter a m, fun d hd => State.gtcAfter_le m hd⟩
  case absent =>
    intro hs hn
    exact step_eq_fault hs (decide_eq_false (Nat.not_lt.mpr hn))

end Sys2Proof.Machine
end

section
/-! Fields of the wide registers of a bank: what one field reads behind `putFields`. -/
namespace Sys2Proof

/-- A lane as a natural number. -/
theorem lane_toNat {n : Nat} (w : Nat) (x : BitVec n) (i : Nat) :
    (lane w x i).toNat = x.toNat / 2 ^ (w * i) % 2 ^ w := by
  simp [lane, Nat.shiftRight_eq_div_pow]

/-- The integer of a field depends on its low bits only. -/
@[simp] theorem sx_mod (v n : Nat) : sx (v % 2 ^ n) n = sx v n := by
  simp [sx]

/-- So does a field read as signed or unsigned. -/
theorem readInt_mod (sgn : Bool) (v n : Nat) : readInt sgn (v % 2 ^ n) n = readInt sgn v n := by
  simp [readInt]

@[simp] theorem sx_zero (n : Nat) : sx 0 n = 0 := by
  simp [sx]

/-- The integer of a bit vector is that of its pattern. -/
theorem sx_toNat {n : Nat} (x : BitVec n) : sx x.toNat n = x.toInt := by
  rcases n with _ | n
  · simp [sx, BitVec.of_length_zero]
  · have h := x.isLt
    have hp : 2 ^ (n + 1) = 2 * 2 ^ n := by rw [Nat.pow_succ, Nat.mul_comm]
    rw [sx, BitVec.toInt_eq_toNat_cond, Nat.mod_eq_of_lt h, Nat.add_sub_cancel]
    have hiff : (x.toNat < 2 ^ n ∨ n + 1 = 0) ↔ 2 * x.toNat < 2 ^ (n + 1) := by omega
    simp only [hiff]

namespace Machine

/-- The low n bits of a register replaced leave a number that it holds. -/
theorem replaceLow_lt {low n m : Nat} (x : BitVec m) (hn : n ≤ m) (hlow : low < 2 ^ n) :
    x.toNat / 2 ^ n * 2 ^ n + low < 2 ^ m := by
  have hsplit : 2 ^ m = 2 ^ n * 2 ^ (m - n) := by rw [← Nat.pow_add, Nat.add_sub_cancel' hn]
  have hhigh : x.toNat / 2 ^ n < 2 ^ (m - n) := Nat.div_lt_of_lt_mul (hsplit ▸ x.isLt)
  calc x.toNat / 2 ^ n * 2 ^ n + low < x.toNat / 2 ^ n * 2 ^ n + 2 ^ n := Nat.add_lt_add_left hlow _
    _ = 2 ^ n * (x.toNat / 2 ^ n + 1) := by rw [Nat.mul_succ, Nat.mul_comm]
    _ ≤ 2 ^ n * 2 ^ (m - n) := Nat.mul_le_mul_left _ hhigh
    _ = 2 ^ m := hsplit.symm

/-- Fields put in a register that holds them are not cut. -/
theorem putFields_toNat {old : BitVec 131072} {bits : Nat} {vs : List Nat} (hfit : bits * vs.length ≤ 131072) :
    (putFields old bits vs).toNat
      = old.toNat / 2 ^ (bits * vs.length) * 2 ^ (bits * vs.length) + joinLanes bits vs := by
  simp only [putFields, BitVec.toNat_ofNat, Nat.mod_eq_of_lt (replaceLow_lt old hfit (joinLanes_lt bits vs))]

/-- A field that is put reads its pattern. -/
theorem putFields_field {old : BitVec 131072} {bits c : Nat} {vs : List Nat} (hfit : bits * vs.length ≤ 131072)
    (hc : c < vs.length) :
    (putFields old bits vs).toNat / 2 ^ (bits * c) % 2 ^ bits = vs.getD c 0 % 2 ^ bits := by
  obtain ⟨q, hq⟩ : 2 ^ (bits * c) * 2 ^ bits ∣ 2 ^ (bits * vs.length) := by
    rw [← Nat.pow_add, ← Nat.mul_succ]
    exact Nat.pow_dvd_pow 2 (Nat.mul_le_mul_left bits hc)
  rw [← joinLanes_lane, ← Nat.mod_mul_right_div_self, ← Nat.mod_mul_right_div_self (joinLanes bits vs),
    putFields_toNat hfit, hq, Nat.mul_left_comm, Nat.mul_add_mod]

/-- A field above those that are put reads as before. -/
theorem putFields_field_above {old : BitVec 131072} {bits c : Nat} {vs : List Nat}
    (hfit : bits * vs.length ≤ 131072) (hc : vs.length ≤ c) :
    (putFields old bits vs).toNat / 2 ^ (bits * c) = old.toNat / 2 ^ (bits * c) := by
  obtain ⟨d, rfl⟩ := Nat.exists_eq_add_of_le hc
  rw [putFields_toNat hfit, Nat.mul_add, Nat.pow_add, ← Nat.div_div_eq_div_mul, ← Nat.div_div_eq_div_mul]
  congr 1
  rw [Nat.add_comm, Nat.add_mul_div_right _ _ (Nat.two_pow_pos _), Nat.div_eq_of_lt (joinLanes_lt ..), Nat.zero_add]

/-- A field of patterns given field by field, each of which fits. -/
theorem putFields_map_field {old : BitVec 131072} {bits n c : Nat} {g : Nat → Nat} (hfit : bits * n ≤ 131072)
    (hc : c < n) (hg : g c < 2 ^ bits) :
    (putFields old bits ((List.range n).map g)).toNat / 2 ^ (bits * c) % 2 ^ bits = g c := by
  rw [putFields_field (by simpa using hfit) (by simpa using hc)]
  simpa [List.getD, hc] using Nat.mod_eq_of_lt hg

/-- A field of a cleared stretch reads 0. -/
theorem putFields_zero_field {old : BitVec 131072} {bits n c : Nat} (hfit : bits * n ≤ 131072) (hc : c < n) :
    (putFields old bits (List.replicate n 0)).toNat / 2 ^ (bits * c) % 2 ^ bits = 0 := by
  rw [putFields_field (by simpa using hfit) (by simpa using hc)]
  simp [List.getD, hc]

/-- The lanes of a register whose first n are cleared. -/
theorem lane_putFields_zero {old : BitVec 131072} {w n : Nat} (c : Nat) (hfit : w * n ≤ 131072) :
    lane w (putFields old w (List.replicate n 0)) c = if c < n then 0 else lane w old c := by
  refine BitVec.eq_of_toNat_eq ?_
  rw [lane_toNat]
  split
  · next hc => exact putFields_zero_field hfit hc
  · next hc => rw [putFields_field_above (by simpa using hfit) (by simpa using hc), lane_toNat]

/-- The lanes of a register whose first n are put. -/
theorem lane_putFields_map {old : BitVec 131072} {w n : Nat} (g : Nat → Nat) (c : Nat) (hfit : w * n ≤ 131072) :
    lane w (putFields old w ((List.range n).map g)) c = if n ≤ c then lane w old c else BitVec.ofNat w (g c) := by
  refine BitVec.eq_of_toNat_eq ?_
  rw [lane_toNat]
  split
  · next hc => rw [putFields_field_above (by simpa using hfit) (by simpa using hc), lane_toNat]
  · next hc =>
    rw [putFields_field (by simpa using hfit) (by simpa using hc)]
    simp [List.getD, Nat.not_le.mp hc]

end Machine
end Sys2Proof
end

section
/-! The outer product of a CPE (03 R80 to R82): one k-step in a bank, captures, and folds. -/
namespace Sys2Proof

/-- The first index below n with a property. -/
theorem findIdx?_map_range {α : Type} (n : Nat) (g : Nat → α) (p : α → Bool) :
    ((List.range n).map g).findIdx? p = (List.range n).find? fun c => p (g c) := by
  ext i
  simp only [List.findIdx?_eq_some_iff_getElem, List.find?_range_eq_some, List.length_map, List.length_range,
    List.getElem_map, List.getElem_range, List.mem_range, Bool.not_eq_true, Bool.not_eq_true']
  exact ⟨fun ⟨hi, hp, hj⟩ => ⟨hp, hi, hj⟩, fun ⟨hp, hi, hj⟩ => ⟨hi, hp, hj⟩⟩

/-- An element of an integer operand is the lane of its type. -/
theorem outerInt_eq_laneInt {w ty : Nat} (hw : 8 * 2 ^ w = typeWidth ty) (hty : ty ≠ 11) (x i : Nat) :
    outerInt w ty x i = laneInt ty x i := by
  simp [outerInt, laneInt, laneNat, readInt_mod, hw, hty]

namespace Machine

section
variable {p : Pe} {k : Bank} {f : Fold} {z b sat ftz : Bool} {w ty cyc c : Nat} {rm : BitVec 2} {m : Word} {x y : Wide}

/-! ### One k-step in a bank -/

/-- The sum of cell c behind a k-step of integers or q, before it is brought into the range of the cell. -/
def Bank.intSum (k : Bank) (z : Bool) (w ty : Nat) (m : Word) (x y : Wide) (c : Nat) : Int :=
  let n := outerElems w
  let u := if z then 0 else sx (k.cell w c) (32 * 2 ^ w)
  if m.getLsbD (c / n) then u + outerInt w ty x.toNat (c / n) * outerInt w ty y.toNat (c % n) else u

/-- The pattern of cell c behind such a k-step. -/
def Bank.intCell (k : Bank) (z : Bool) (w ty : Nat) (sat : Bool) (m : Word) (x y : Wide) (c : Nat) : Nat :=
  let v := k.intSum z w ty m x y c
  lowBits (if sat then satS v (32 * 2 ^ w) else v) (32 * 2 ^ w)

/-- The first cell that leaves its range in such a k-step, unless it saturates. -/
def Bank.intOverflow (k : Bank) (z : Bool) (w ty : Nat) (sat : Bool) (m : Word) (x y : Wide) : Option Nat :=
  let n := outerElems w
  if sat then none
  else (List.range (n * n)).find? fun c => m.getLsbD (c / n) && outS (k.intSum z w ty m x y c) (32 * 2 ^ w)

/-- The patterns and the first overflow that the arithmetic of a k-step gives are those of the sums. -/
theorem outerIntStep_eq :
    outerIntStep w ty sat m.toNat x.toNat y.toNat (fun c => if z then 0 else k.cell w c)
      = ((List.range (outerElems w * outerElems w)).map (k.intCell z w ty sat m x y),
         k.intOverflow z w ty sat m x y) := by
  have hold (c : Nat) : sx (if z then 0 else k.cell w c) (32 * 2 ^ w)
      = if z then 0 else sx (k.cell w c) (32 * 2 ^ w) := by
    cases z <;> simp
  have hstep (c : Nat) : (if m.getLsbD (c / outerElems w) then
      ((if z then 0 else sx (k.cell w c) (32 * 2 ^ w))
        + outerInt w ty x.toNat (c / outerElems w) * outerInt w ty y.toNat (c % outerElems w), true)
      else (if z then 0 else sx (k.cell w c) (32 * 2 ^ w), false))
      = (k.intSum z w ty m x y c, m.getLsbD (c / outerElems w)) := by
    unfold Bank.intSum
    split <;> simp_all
  simp only [outerIntStep, BitVec.testBit_toNat, hold, hstep, List.map_map, findIdx?_map_range]
  rfl

/-- A k-step of integers or q. -/
theorem Bank.outer_int (hw : w ≤ 1) :
    let n := outerElems w * outerElems w
    k.outer z w ty sat ftz rm m x y
      = ({ cells := putFields k.cells (32 * 2 ^ w) ((List.range n).map (k.intCell z w ty sat m x y)),
           folds := if z then putFields k.folds 32 (List.replicate n 0) else k.folds,
           mode := if z then some ⟨w, ty⟩ else k.mode,
           fk := if ty = 0xB then BitVec.ofNat 6 (if z then 1 else k.fk.toNat + 1) else if z then 0 else k.fk },
         k.intOverflow z w ty sat m x y) := by
  simp only [Bank.outer, hw, if_true, outerIntStep_eq]

/-- The pattern of float cell c behind a k-step at w = 4 or 8. -/
def Bank.floatStep (k : Bank) (z : Bool) (w : Nat) (ftz : Bool) (rm : BitVec 2) (m : Word) (x y : Wide) (c : Nat) : Nat :=
  let f := if w = 2 then Fmt.f32 else Fmt.f64
  let n := outerElems w
  let bits := 8 * 2 ^ w
  let el (v : Wide) (i : Nat) : Val := f.decFtz (v.toNat / 2 ^ (bits * i) % 2 ^ bits) ftz
  let prod := (el x (c / n)).mul (el y (c % n))
  let old := k.folds.toNat / 2 ^ (bits * c) % 2 ^ bits
  if m.getLsbD (c / n) then
    f.encFtz (if z then prod else (f.decFtz old ftz).add prod (Rm.of2 rm)) (Rm.of2 rm) ftz
  else if z then 0 else old

/-- A k-step of floats. -/
theorem Bank.outer_float (hw : w = 2 ∨ w = 3) :
    let n := outerElems w * outerElems w
    k.outer z w ty sat ftz rm m x y
      = ({ k with
           folds := putFields k.folds (8 * 2 ^ w) ((List.range n).map (k.floatStep z w ftz rm m x y)),
           mode := if z then some ⟨w, ty⟩ else k.mode,
           fk := if ty = 0xB then BitVec.ofNat 6 (if z then 1 else k.fk.toNat + 1) else if z then 0 else k.fk }, none) := by
  rcases hw with rfl | rfl <;>
  · simp only [Bank.outer, outerFloatStep, BitVec.testBit_toNat]
    rfl

/-- The cells of a width selector fill a bank at most. -/
theorem cells_fit (hw : w ≤ 1) : 32 * 2 ^ w * (outerElems w * outerElems w) ≤ 131072 := by
  rcases Nat.le_one_iff_eq_zero_or_eq_one.mp hw with rfl | rfl <;> decide

/-- As many fold registers fill a bank at most. -/
theorem foldRegs_fit (hw : w ≤ 1) : 32 * (outerElems w * outerElems w) ≤ 131072 := by
  rcases Nat.le_one_iff_eq_zero_or_eq_one.mp hw with rfl | rfl <;> decide

/-- A cell behind a k-step of integers or q. -/
theorem Bank.outer_int_cell (hw : w ≤ 1) (hc : c < outerElems w * outerElems w) :
    (k.outer z w ty sat ftz rm m x y).1.cell w c = k.intCell z w ty sat m x y c := by
  rw [Bank.outer_int hw]
  exact putFields_map_field (cells_fit hw) hc (lowBits_lt _ _)

/-- A fold register behind a k-step of integers or q. -/
theorem Bank.outer_int_foldReg (hw : w ≤ 1) (c : Nat) :
    lane 32 (k.outer z w ty sat ftz rm m x y).1.folds c
      = if z = true ∧ c < outerElems w * outerElems w then 0 else lane 32 k.folds c := by
  rw [Bank.outer_int hw]
  cases z
  · simp
  · simpa using lane_putFields_zero c (foldRegs_fit hw)

/-- FK behind a k-step of block-float elements. -/
theorem Bank.outer_bq_fk (hw : w ≤ 1) :
    (k.outer z w 11 sat ftz rm m x y).1.fk.toNat = if z then 1 else (k.fk.toNat + 1) % 64 := by
  rw [Bank.outer_int hw]
  cases z <;> simp

/-- A float cell behind a k-step. -/
theorem Bank.outer_float_cell (hw : w = 2 ∨ w = 3) (hc : c < outerElems w * outerElems w) :
    (k.outer z w ty sat ftz rm m x y).1.folds.toNat / 2 ^ (8 * 2 ^ w * c) % 2 ^ (8 * 2 ^ w)
      = k.floatStep z w ftz rm m x y c % 2 ^ (8 * 2 ^ w) := by
  have hfit : 8 * 2 ^ w * (outerElems w * outerElems w) ≤ 131072 := by
    rcases hw with rfl | rfl <;> decide
  rw [Bank.outer_float hw, putFields_field (by simpa using hfit) (by simpa using hc)]
  simp [List.getD, hc]

/-- A bank that steps in its mode, or is set to it by `outerz`, has it behind the step. -/
theorem Bank.outer_mode (hmode : z = false → k.mode = some ⟨w, ty⟩) :
    (k.outer z w ty sat ftz rm m x y).1.mode = some ⟨w, ty⟩ := by
  have h : (if z then some ⟨w, ty⟩ else k.mode) = some ⟨w, ty⟩ := by
    cases z
    · exact hmode rfl
    · rfl
  by_cases hw : w ≤ 1
  · rw [Bank.outer_int hw]; exact h
  · simp only [Bank.outer, if_neg hw]; exact h

/-! ### The banks of a PE -/

@[simp] theorem Pe.bank_setBank (p : Pe) (b : Bool) (k : Bank) : (p.setBank b k).bank b = k := by
  cases b <;> rfl

/-- Of two banks put in a place, with a list of folds put between them, the second stays. -/
theorem Pe.setBank_folds_setBank (p : Pe) (b : Bool) (k k' : Bank) (fs : List Fold) :
    ({ p.setBank b k with folds := fs } : Pe).setBank b k' = ({ p with folds := fs } : Pe).setBank b k' := by
  cases b <;> rfl

/-- A bank and a list of folds are put in either order. -/
theorem Pe.folds_setBank (p : Pe) (b : Bool) (k : Bank) (fs : List Fold) :
    ({ p.setBank b k with folds := fs } : Pe) = ({ p with folds := fs } : Pe).setBank b k := by
  cases b <;> rfl

@[simp] theorem Pe.setBank_folds (p : Pe) (b : Bool) (k : Bank) : (p.setBank b k).folds = p.folds := by
  cases b <;> rfl
@[simp] theorem Pe.setBank_ea (p : Pe) (b : Bool) (k : Bank) : (p.setBank b k).ea = p.ea := by
  cases b <;> rfl
@[simp] theorem Pe.setBank_eb (p : Pe) (b : Bool) (k : Bank) : (p.setBank b k).eb = p.eb := by
  cases b <;> rfl

/-! ### Captures -/

/-- A bank whose cells at width selector w have been captured. -/
def Bank.captured (k : Bank) (w : Nat) : Bank :=
  { k with cells := putFields k.cells (32 * 2 ^ w) (List.replicate (outerElems w * outerElems w) 0), fk := 0 }

/-- The cells of a captured bank read 0. -/
theorem Bank.captured_cell (hw : w ≤ 1) (hc : c < outerElems w * outerElems w) :
    (k.captured w).cell w c = 0 := putFields_zero_field (cells_fit hw) hc

/-- The fold interval of a width selector that folds. -/
theorem foldInterval_eq (hw : w ≤ 1) : foldInterval w = 32 / 2 ^ w := by
  rcases Nat.le_one_iff_eq_zero_or_eq_one.mp hw with rfl | rfl <;> rfl

/-- Nothing is captured of a bank whose mode does not fold. -/
theorem Pe.captureIf_unfoldable {full : Bool} (h : (p.bank b).foldable = false) :
    p.captureIf b full cyc = p := by
  simp [Pe.captureIf, h]

/-- A bank of block-float elements is captured where FK has come to the fold interval, or by `fold` where FK is not 0. -/
theorem Pe.captureIf_bq {full : Bool} (hw : w ≤ 1) (hmode : (p.bank b).mode = some ⟨w, 11⟩) :
    p.captureIf b full cyc
      = if (if full then (p.bank b).fk.toNat = 32 / 2 ^ w else (p.bank b).fk ≠ 0) then
          ({ p with folds := p.folds ++ [⟨b, cyc, w, (p.bank b).cells, p.ea, p.eb, false⟩] } : Pe).setBank b
            ((p.bank b).captured w)
        else p := by
  have hfold : (p.bank b).foldable = true := by simp [Bank.foldable, hmode, hw]
  simp only [Pe.captureIf, hfold, hmode, Option.map_some, Option.getD_some, foldInterval_eq hw, Bool.true_and, Pe.capture,
    Bank.captured]
  cases full <;> simp

/-- A k-step that `outerz` starts, or that matches the mode of its bank, lands in it. -/
theorem Pe.cpeLand_outer (hmode : z = false → (p.bank b).mode = some ⟨w, ty⟩) :
    p.cpeLand cyc (.outer z w ty sat ftz rm b m x y)
      = ((p.setBank b ((p.bank b).outer z w ty sat ftz rm m x y).1).captureIf b true cyc,
         ((p.bank b).outer z w ty sat ftz rm m x y).2.map fun c => (0x0101#16, c)) := by
  have hmatch : ¬(!z ∧ (p.bank b).mode ≠ some ⟨w, ty⟩) := by
    rintro ⟨hz, hne⟩
    exact hne (hmode (by simpa using hz))
  simp only [Pe.cpeLand, hmatch, if_false]

/-- A k-step of a type that does not fold changes its bank alone. -/
theorem Pe.cpeLand_outer_unfoldable (hmode : z = false → (p.bank b).mode = some ⟨w, ty⟩) (hty : ty ≠ 11) :
    p.cpeLand cyc (.outer z w ty sat ftz rm b m x y)
      = (p.setBank b ((p.bank b).outer z w ty sat ftz rm m x y).1,
         ((p.bank b).outer z w ty sat ftz rm m x y).2.map fun c => (0x0101#16, c)) := by
  rw [Pe.cpeLand_outer hmode, Pe.captureIf_unfoldable]
  simp [Bank.foldable, Bank.outer_mode hmode, hty]

/-- A k-step of block-float elements changes its bank, which is captured where FK comes to the fold interval. -/
theorem Pe.cpeLand_outer_bq (hw : w ≤ 1) (hmode : z = false → (p.bank b).mode = some ⟨w, 11⟩) :
    p.cpeLand cyc (.outer z w 11 sat ftz rm b m x y)
      = let k := ((p.bank b).outer z w 11 sat ftz rm m x y).1
        (if k.fk.toNat = 32 / 2 ^ w then
           ({ p with folds := p.folds ++ [⟨b, cyc, w, k.cells, p.ea, p.eb, false⟩] } : Pe).setBank b (k.captured w)
         else p.setBank b k,
         ((p.bank b).intOverflow z w 11 sat m x y).map fun c => (0x0101#16, c)) := by
  have hovf : ((p.bank b).outer z w 11 sat ftz rm m x y).2 = (p.bank b).intOverflow z w 11 sat m x y := by
    rw [Bank.outer_int hw]
  rw [Pe.cpeLand_outer hmode, Pe.captureIf_bq hw (by rw [Pe.bank_setBank, Bank.outer_mode hmode]), hovf,
    Pe.setBank_folds_setBank, Pe.bank_setBank, Pe.setBank_folds, Pe.setBank_ea, Pe.setBank_eb]
  rfl

/-- A `fold` captures a bank of block-float elements behind a k-step. -/
theorem Pe.cpeLand_fold (hw : w ≤ 1) (hmode : (p.bank b).mode = some ⟨w, 11⟩) (hfk : (p.bank b).fk ≠ 0) :
    p.cpeLand cyc (.fold b)
      = (({ p with folds := p.folds ++ [⟨b, cyc, w, (p.bank b).cells, p.ea, p.eb, false⟩] } : Pe).setBank b
          ((p.bank b).captured w), none) := by
  rw [Pe.cpeLand, Pe.captureIf_bq hw hmode, if_pos (by simpa using hfk)]

/-- A `fold` of a bank without block-float elements, or without a k-step, does nothing. -/
theorem Pe.cpeLand_fold_idle (h : (p.bank b).fk = 0 ∨ ∀ v, v ≤ 1 → (p.bank b).mode ≠ some ⟨v, 11⟩) :
    p.cpeLand cyc (.fold b) = (p, none) := by
  rcases h with hfk | hmode
  · simp [Pe.cpeLand, Pe.captureIf, hfk]
  · have hfold : (p.bank b).foldable = false := by
      refine Bool.eq_false_iff.mpr fun hf => ?_
      simp only [Bank.foldable, Option.any_eq_true, Bool.and_eq_true, decide_eq_true_eq] at hf
      obtain ⟨⟨v, ty⟩, hm, rfl, hv⟩ := hf
      exact hmode v hv hm
    rw [Pe.cpeLand, Pe.captureIf_unfoldable hfold]

/-! ### Folds -/

/-- One captured cell on its way into its fold register, exponents and register as bit vectors. -/
theorem ofNat_foldOne (ea eb : BitVec 16) (v : Int) (reg : BitVec 32) :
    BitVec.ofNat 32 (foldOne ea.toNat eb.toNat v reg.toNat)
      = if ea = 0x8000 ∨ eb = 0x8000 then BitVec.ofNat 32 Fmt.f32.nan
        else if v = 0 then reg
        else BitVec.ofNat 32 (Fmt.f32.enc ((Fmt.f32.dec reg.toNat).add
          (.fin (v < 0) v.natAbs (ea.toInt + eb.toInt)) .rne) .rne) := by
  have hpoison (e : BitVec 16) : e.toNat = 0x8000 ↔ e = 0x8000 := ⟨fun h => BitVec.eq_of_toNat_eq h, fun h => h ▸ rfl⟩
  simp only [foldOne, hpoison, sx_toNat]
  split
  · rfl
  · split
    · simp
    · rfl

/-- The fold registers of a bank behind a fold. -/
def Bank.folded (k : Bank) (f : Fold) : Bank :=
  let vs := foldStep f.w f.ea.toNat f.eb.toNat f.cells.toNat fun c => (lane 32 k.folds c).toNat
  { k with folds := putFields k.folds 32 vs }

/-- The oldest unfinished fold of a bank finishes. -/
theorem Pe.finishFold_eq (h : p.folds.find? (fun g => g.bank = b && !g.done) = some f) :
    p.finishFold b
      = ({ p with folds := p.folds.map fun g => if g = f then { g with done := true } else g } : Pe).setBank b
          ((p.bank b).folded f) := by
  simp only [Pe.finishFold, h]
  rw [Pe.folds_setBank, Pe.setBank_folds]
  rfl

/-- A fold register behind a fold. -/
theorem Bank.lane_folded (hw : f.w ≤ 1) (c : Nat) :
    let n := outerElems f.w
    lane 32 (k.folded f).folds c
      = if n * n ≤ c then lane 32 k.folds c
        else BitVec.ofNat 32 (foldOne (lane 16 f.ea (c / n)).toNat (lane 16 f.eb (c % n)).toNat
          (sx (f.cells.toNat / 2 ^ (32 * 2 ^ f.w * c)) (32 * 2 ^ f.w)) (lane 32 k.folds c).toNat) := by
  simp only [Bank.folded, foldStep, lane_putFields_map _ _ (foldRegs_fit hw), lane_toNat]

end

/-! ### The statement -/

/-- Settles O3: each k-step is one equation for its bank (`Bank.outer_int`, `Bank.outer_float`), from which its cells
are read field by field; a step, a `fold` and a fold's end are one equation each for the PE (`Pe.cpeLand_outer_bq`,
`Pe.cpeLand_fold`, `Pe.finishFold_eq`). -/
theorem cpeOuterProduct : Obligations.CpeOuterProduct := by
  refine ⟨?ints, ?floats, ?blocks⟩
  case ints =>
    intro p cyc w ty sat ftz z b rm m x y hty hmode n bits cell old new
    have hw : w ≤ 1 := by omega
    have hfold : ty ≠ 11 := by omega
    have hwidth : 8 * 2 ^ w = typeWidth ty := by
      rcases hty with ⟨rfl, rfl | rfl⟩ | ⟨rfl, rfl | rfl⟩ <;> rfl
    have hsum : (p.bank b).intSum z w ty m x y = new := by
      funext c
      simp only [Bank.intSum, outerInt_eq_laneInt hwidth hfold]
      rfl
    refine ⟨((p.bank b).outer z w ty sat ftz rm m x y).1, ?_, fun c hc => ?_,
      Bank.outer_mode hmode, fun hz => ?_⟩
    · rw [Pe.cpeLand_outer_unfoldable hmode hfold, Bank.outer_int hw, ← hsum]
      simp only [Bank.intOverflow, apply_ite (Option.map _), Option.map_none]
      rfl
    · rw [← hsum]
      exact Bank.outer_int_cell hw hc
    · simp [Bank.outer_int hw, hz, hfold]
  case floats =>
    intro p cyc w ty sat ftz z b rm m x y hty hmode n bits fm r cell el prod sum
    have hw : w = 2 ∨ w = 3 := by omega
    have hfold : ty ≠ 11 := by omega
    refine ⟨((p.bank b).outer z w ty sat ftz rm m x y).1, ?_, fun c hc => ?_,
      Bank.outer_mode hmode, ?_, fun hz => ?_⟩
    · rw [Pe.cpeLand_outer_unfoldable hmode hfold, Bank.outer_float hw]
      rfl
    · refine (Bank.outer_float_cell hw hc).trans ?_
      simp only [Bank.floatStep, apply_ite (· % 2 ^ (8 * 2 ^ w)), Nat.zero_mod, Nat.mod_mod]
      rfl
    · rw [Bank.outer_float hw]
    · simp [Bank.outer_float hw, hz, hfold]
  case blocks =>
    intro p cyc w sat ftz z b rm m x y hw n bits fi old cell q sum holds afresh fk cleared caught land
    have hcleared (k : Bank) (h : k.mode = some ⟨w, 11⟩) : cleared (k.captured w) :=
      ⟨fun c hc => Bank.captured_cell hw hc, rfl, h⟩
    refine ⟨fun hmode => ?step, fun hmode hfk => ?fold, fun h => ?still, fun f hf hfw => ?finish, fun j => ?cset⟩
    case step =>
      let k := (old.outer z w 11 sat ftz rm m x y).1
      have hland : land = _ := Pe.cpeLand_outer_bq hw hmode
      have hholds : holds k.cells := fun c hc => Bank.outer_int_cell hw hc
      have hafresh : afresh k := Bank.outer_int_foldReg hw
      have hfk : k.fk.toNat = fk := Bank.outer_bq_fk hw
      have hkmode : k.mode = some ⟨w, 11⟩ := Bank.outer_mode hmode
      refine ⟨?_, fun hne => ⟨k, ?_, hholds, hafresh, hfk, hkmode⟩,
        fun hfi => ⟨k.captured w, k.cells, hholds, hcleared k hkmode, hafresh, ?_⟩⟩
      · rw [hland]
        simp only [Bank.intOverflow, apply_ite (Option.map _), Option.map_none]
        rfl
      · rw [hland]
        exact if_neg (hfk ▸ hne)
      · rw [hland]
        exact if_pos (hfk.trans hfi)
    case fold => exact ⟨old.captured w, hcleared old hmode, rfl, Pe.cpeLand_fold hw hmode hfk⟩
    case still => exact Pe.cpeLand_fold_idle h
    case finish =>
      refine ⟨old.folded f, Pe.finishFold_eq hf, rfl, fun c hc => ?_⟩
      subst hfw
      rw [Bank.lane_folded hw, ofNat_foldOne]
      simp only [cell, sx_mod]
      rfl
    case cset => simp [Pe.cpeLand, foldInterval_eq hw, fi, old]

end Machine
end Sys2Proof
end

section
/-! A placement pass without requests, and a state whose kernel table lists a handle twice. -/
namespace Sys2Proof.Machine

/-- A placement pass without requests places nothing; another follows only where some kernel counts as evicted. -/
theorem execPlacementPass_noRequests {s : State} {clu : Nat} (h : s.requests clu = []) :
    exec (.placementPass clu) s = .next (if s.evicted s then s.laterPass clu else s) := by
  change execPlacementPass clu s = _
  simp [execPlacementPass, h, State.placeAll]

/-- A later pass stands in the schedule. -/
theorem State.laterPass_ne (s : State) (clu : Nat) : s.laterPass clu ≠ s := by
  intro h
  have hlen := congrArg (fun t : State => t.sched.length) h
  simp [State.laterPass] at hlen

/-- Handle 0 of context 0 stands twice in its kernel table, as a kernel WAITING and as one LOADED. -/
def State.twiceListed : State :=
  { ctxs := [(0, { kernels := [(0, { state := .waiting }), (0, { state := .loaded })] })] }

/-- No kernel of it asks for a region: its context does not run. -/
theorem State.twiceListed_requests : State.twiceListed.requests 0 = [] := by decide

/-- A lookup of the LOADED kernel finds the WAITING one, which counts as an eviction. -/
theorem State.twiceListed_evicted : State.twiceListed.evicted State.twiceListed = true := by decide

/-- Refutes O37: the statement has a pass without requests leave the state as it is, of every state, and so also of one
whose kernel table lists a handle twice. There `State.evicted` compares the second entry, LOADED, with what a lookup of
the handle finds, the first, WAITING: the pass takes the kernel for evicted and puts another pass in the schedule. The
clause lacks the hypothesis that each kernel is listed once. -/
theorem not_regionPlacement : ¬ Obligations.RegionPlacement := by
  intro h
  obtain ⟨-, hplacement⟩ := h
  obtain ⟨-, -, hidle, -⟩ := hplacement State.twiceListed {} 0 0 (0, 0, {}) {} [] false []
  have hsame := hidle State.twiceListed_requests
  rw [execPlacementPass_noRequests State.twiceListed_requests, if_pos State.twiceListed_evicted] at hsame
  injection hsame with hsame
  exact State.laterPass_ne _ _ hsame

end Sys2Proof.Machine
end

section
/-! What a bit and a lane of a register read behind `setLane`, and numbers joined from lanes. -/
namespace Sys2Proof

/-- A list of lanes whose widths add up to at most n bits is an n-bit number when joined. -/
theorem joinLanes_lt_of_le {w n : Nat} {xs : List Nat} (h : w * xs.length ≤ n) : joinLanes w xs < 2 ^ n :=
  Nat.lt_of_lt_of_le (joinLanes_lt w xs) (Nat.pow_le_pow_right (by decide) h)

/-- A field of patterns given field by field, each of which fits. -/
theorem joinLanes_map_field {w n i : Nat} {g : Nat → Nat} (hi : i < n) (hg : g i < 2 ^ w) :
    joinLanes w ((List.range n).map g) / 2 ^ (w * i) % 2 ^ w = g i := by
  rw [joinLanes_lane]
  simpa [List.getD, hi] using Nat.mod_eq_of_lt hg

/-- A bit of a register one of whose fields has been replaced. -/
theorem getLsbD_setLane {n w : Nat} (x : BitVec n) (i : Nat) (v : BitVec w) {b : Nat} (hw : 0 < w) (hb : b < n) :
    (setLane x i v).getLsbD b = if b / w = i then v.getLsbD (b % w) else x.getLsbD b := by
  have hlt : b - w * i < n := by omega
  simp only [setLane, BitVec.getLsbD_or, BitVec.getLsbD_and, BitVec.getLsbD_not, BitVec.getLsbD_shiftLeft,
    BitVec.getLsbD_setWidth, BitVec.getLsbD_allOnes, hb, hlt]
  split
  · next h =>
    subst h
    have hmod : b - w * (b / w) = b % w := by have := Nat.div_add_mod b w; omega
    simp [hmod, Nat.not_lt.mpr (Nat.mul_div_le b w), Nat.mod_lt b hw]
  · next h =>
    rcases Nat.lt_or_ge b (w * i) with hlow | hhigh
    · simp [hlow]
    · have hge : w ≤ b - w * i := by
        refine Nat.le_of_not_lt fun hin => h ?_
        rw [Nat.div_eq_iff hw, Nat.mul_comm]
        omega
      simp [Nat.not_lt.mpr hge, BitVec.getLsbD_of_ge v _ hge]

/-- A lane of a register one of whose fields, q lanes wide, has been replaced. -/
theorem lane_setLane {n u q : Nat} (x : BitVec n) (i : Nat) (v : BitVec (u * q)) {m : Nat} (hq : 0 < q)
    (hm : u * m + u ≤ n) : lane u (setLane x i v) m = if m / q = i then lane u v (m % q) else lane u x m := by
  refine BitVec.eq_of_getLsbD_eq fun j hj => ?_
  have hu : 0 < u := by omega
  have hdiv : (u * m + j) / u = m := by rw [Nat.mul_add_div hu, Nat.div_eq_of_lt hj, Nat.add_zero]
  have hmod : (u * m + j) % u = j := by rw [Nat.mul_add_mod, Nat.mod_eq_of_lt hj]
  have hfield : (u * m + j) / (u * q) = m / q := by rw [← Nat.div_div_eq_div_mul, hdiv]
  have hbit : (u * m + j) % (u * q) = u * (m % q) + j := by rw [Nat.mod_mul, hdiv, hmod, Nat.add_comm]
  simp only [lane, BitVec.getLsbD_extractLsb', hj, decide_true, Bool.true_and]
  rw [getLsbD_setLane x i v (Nat.mul_pos hu hq) (by omega), hfield, hbit]
  split
  · simp [hj]
  · simp [hj]

/-- Only the low bits of an integer stand in a bit vector. -/
theorem ofInt_eq_ofNat_lowBits (n : Nat) (v : Int) : BitVec.ofInt n v = BitVec.ofNat n (lowBits v n) := by
  refine BitVec.eq_of_toNat_eq ?_
  rw [BitVec.toNat_ofNat, Nat.mod_eq_of_lt (lowBits_lt v n), BitVec.toNat_ofInt, lowBits]

/-- A value leaves the signed range exactly where saturation changes it. -/
theorem ne_satS (v : Int) (n : Nat) : (v != satS v n) = outS v n := by
  have hpos : (0 : Int) < (2 ^ (n - 1) : Nat) := Int.natCast_pos.mpr (Nat.two_pow_pos _)
  rw [Bool.eq_iff_iff]
  simp only [bne_iff_ne, outS, satS, Bool.or_eq_true, decide_eq_true_eq]
  split
  · omega
  · split <;> omega

/-- A pattern that fits reads as itself where it is unsigned. -/
theorem readInt_of_lt {v n : Nat} (sgn : Bool) (h : v < 2 ^ n) : readInt sgn v n = if sgn then sx v n else v := by
  rw [readInt, Nat.mod_eq_of_lt h]

/-- Two 512-bit halves of a number of 1024 bits. -/
theorem ofNat_halves {y : Nat} (h : y < 2 ^ 1024) :
    (BitVec.ofNat 512 (y % 2 ^ 512)).toNat + 2 ^ 512 * (BitVec.ofNat 512 (y / 2 ^ 512)).toNat = y := by
  have hhigh : y / 2 ^ 512 < 2 ^ 512 := Nat.div_lt_of_lt_mul (by rwa [← Nat.pow_add])
  rw [BitVec.toNat_ofNat, BitVec.toNat_ofNat, Nat.mod_mod, Nat.mod_eq_of_lt hhigh, Nat.mod_add_div]

end Sys2Proof
end

section
/-! The operands of an op are 512-bit patterns (03 R71). -/
namespace Sys2Proof.Machine

/-- Kind port A of a slot other than the SPE's, whose port gives the iteration uncut. -/
theorem Kernel.portA_lt (k : Kernel) {core slot : Nat} (f : OpF) (h : slotKind slot ≠ .spe) :
    k.portA core slot f < 2 ^ 512 := by
  unfold Kernel.portA
  cases hk : slotKind slot with
  | cpe => exact (k.run.pe core slot).ro.isLt
  | ape => exact joinLanes_lt_of_le (by decide)
  | mpe =>
    simp only [Kernel.headData]
    cases Tab.get? (k.run.stream (streamKey core (slot = 3) f.stream)).win _ with
    | none => exact Nat.two_pow_pos 512
    | some w => exact w.data.isLt
  | spe => exact absurd hk h
  | dpe => exact (k.run.drain core).head.isLt

/-- A mask of a stream has 64 bits. -/
theorem Kernel.headMask_lt (k : Kernel) (core slot st : Nat) : k.headMask core slot st < 2 ^ 64 := by
  simp only [Kernel.headMask]
  split
  · exact BitVec.isLt _
  · cases Tab.get? (k.run.stream (streamKey core (slot = 3) st)).win _ with
    | none => exact Nat.two_pow_pos 64
    | some w => exact w.mask.isLt

theorem two_pow_64_le_wide : 2 ^ 64 ≤ 2 ^ 512 := Nat.pow_le_pow_right (by decide) (by decide)

/-- Kind port B of a slot. -/
theorem Kernel.portB_lt (k : Kernel) (core slot : Nat) (f : OpF) : k.portB core slot f < 2 ^ 512 := by
  have hword {v : Nat} (h : v < 2 ^ 64) : v < 2 ^ 512 := Nat.lt_of_lt_of_le h two_pow_64_le_wide
  simp only [Kernel.portB]
  cases slotKind slot with
  | cpe =>
    have hfk := ((k.run.pe core slot).bank (k.run.pe core slot).sel).fk.isLt
    exact hword (by dsimp only; split <;> split <;> omega)
  | ape => exact hword (by dsimp only; split <;> decide)
  | mpe => exact hword (k.headMask_lt core slot f.stream)
  | spe => exact hword (Nat.mod_lt _ (Nat.two_pow_pos 64))
  | dpe => exact (k.run.drain core).cr.isLt

/-- A number chosen by cases is below a bound that both cases keep. -/
theorem ite_lt {c : Prop} [Decidable c] {a b n : Nat} (ha : a < n) (hb : b < n) : (if c then a else b) < n := by
  split
  · exact ha
  · exact hb

/-- Any source of a slot; that of the SPE is cut to 64 bits (07 R210). -/
theorem Kernel.source_lt (k : Kernel) (core slot : Nat) (f : OpF) (code : Nat) :
    k.source core slot f code < 2 ^ 512 := by
  by_cases hspe : slotKind slot = .spe
  · simp only [Kernel.source, hspe, if_true]
    exact Nat.lt_of_lt_of_le (Nat.mod_lt _ (Nat.two_pow_pos 64)) two_pow_64_le_wide
  · have hk : kValue (k.slotCfg core slot).k false < 2 ^ 512 := joinLanes_lt_of_le (by simp)
    simp only [Kernel.source, hspe, if_false, decide_false]
    refine ite_lt (Nat.two_pow_pos 512) <| ite_lt hk <| ite_lt (BitVec.isLt _) <| ite_lt (BitVec.isLt _) <|
      ite_lt (BitVec.isLt _) <| ite_lt (BitVec.isLt _) <| ite_lt (k.portA_lt f hspe) <|
      ite_lt (k.portB_lt core slot f) ?_
    split
    · exact ite_lt (BitVec.isLt _) (BitVec.isLt _)
    · exact Nat.two_pow_pos 512

/-- The operands of an op that issues. -/
theorem Issues.operands_lt {s : State} {f : OpF} {e : OpEnv} (h : Issues s f e) :
    e.a < 2 ^ 512 ∧ e.b < 2 ^ 512 ∧ e.c < 2 ^ 512 := by
  obtain ⟨he, -⟩ := h
  unfold State.opEnv at he
  split at he
  · cases he
  · cases he
    exact ⟨Kernel.source_lt .., Kernel.source_lt .., Kernel.source_lt ..⟩

end Sys2Proof.Machine
end

section
/-! Packed polynomials (03 R77 to R79): coefficients, guards, and the results of the CPE's arithmetic in closed form. -/
namespace Sys2Proof

/-- Coefficient k of the product of two packed operands: the sum of the products of the fields i and j with i + j = k. -/
def Gw.coeff (w : Gw) (a b k : Nat) : Int :=
  ((List.range w.n).map fun i => ((List.range w.n).map fun j =>
    if i + j = k then sx (a / 2 ^ (w.s * i)) w.ea * sx (b / 2 ^ (w.s * j)) w.eb else 0).sum).sum

/-- A sum over the indices of which one at most counts. -/
theorem sum_range_add_eq (n i k : Nat) (g : Nat → Int) :
    ((List.range n).map fun j => if i + j = k then g j else 0).sum = if i ≤ k ∧ k - i < n then g (k - i) else 0 := by
  induction n with
  | zero => simp
  | succ n ih =>
    rw [List.range_succ, List.map_append, List.sum_append_int, ih, List.map_singleton, List.sum_singleton]
    by_cases hn : i + n = k
    · have hat : k - i = n := by omega
      rw [if_neg (by omega), if_pos hn, if_pos (by omega), hat, Int.zero_add]
    · have hsame : (i ≤ k ∧ k - i < n + 1) ↔ (i ≤ k ∧ k - i < n) := by omega
      rw [if_neg hn, Int.add_zero]
      simp only [hsame]

/-- A fold that adds a value per index is the sum of the values. -/
theorem foldl_eq_add_sum {step : Int → Nat → Int} {g : Nat → Int} (l : List Nat) (t : Int)
    (h : ∀ t, ∀ i ∈ l, step t i = t + g i) : l.foldl step t = t + (l.map g).sum := by
  induction l generalizing t with
  | nil => simp
  | cons i l ih =>
    rw [List.foldl_cons, h t i (List.mem_cons_self ..), ih _ fun t j hj => h t j (List.mem_cons_of_mem i hj),
      List.map_cons, List.sum_cons, Int.add_assoc]

/-- The model sums the coefficient over i alone. -/
theorem convCoeff_eq (w : Gw) (a b k : Nat) :
    convCoeff (packedFields a w.s w.n w.ea) (packedFields b w.s w.n w.eb) w.n k = w.coeff a b k := by
  have hstep (t : Int) (i : Nat) (hi : i < w.n) : (if i ≤ k ∧ k - i < w.n then
      t + nth (packedFields a w.s w.n w.ea) i 0 * nth (packedFields b w.s w.n w.eb) (k - i) 0 else t)
      = t + ((List.range w.n).map fun j =>
          if i + j = k then sx (a / 2 ^ (w.s * i)) w.ea * sx (b / 2 ^ (w.s * j)) w.eb else 0).sum := by
    rw [sum_range_add_eq]
    split
    · next h => simp [nth, packedFields, hi, h.2]
    · simp
  rw [convCoeff, foldl_eq_add_sum _ _ fun t i hi => hstep t i (List.mem_range.mp hi), Int.zero_add]
  rfl

/-- An integer saturated to n bits where an op saturates. -/
def satIf (sat : Bool) (v : Int) (n : Nat) : Int := if sat then satS v n else v

/-- The first of n indices out of range, where an op does not saturate (03 R78). -/
def firstOut (sat : Bool) (n : Nat) (bad : Nat → Bool) : Option Nat := if sat then none else (List.range n).find? bad

/-- Values given index by index, brought into range and checked. -/
theorem guardAll_map (sat sgn : Bool) (w n : Nat) (g : Nat → Int) :
    guardAll sat sgn w ((List.range n).map g)
      = ((List.range n).map fun k => lowBits (if sat then satI sgn (g k) w else g k) w,
         firstOut sat n fun k => g k != satI sgn (g k) w) := by
  simp only [guardAll, List.map_map, findIdx?_map_range, firstOut]
  rfl

/-- A guard width is in range (03 R76). -/
theorem Gw.ok_iff (w : Gw) :
    w.ok = true ↔ 1 ≤ w.ea ∧ w.ea ≤ 32 ∧ 1 ≤ w.eb ∧ w.eb ≤ 32 ∧ w.ea + w.eb + w.g ≤ 64 := by
  simp only [Gw.ok, Bool.and_eq_true, decide_eq_true_eq, and_assoc]
  rfl

/-- Fields of spacing s that fill a 512-bit operand. -/
theorem Gw.s_mul_n_le (w : Gw) : w.s * w.n ≤ 512 := Nat.mul_div_le 512 w.s

/-- The product of two packed operands, field by field. -/
def Gw.product (w : Gw) (sat : Bool) (a b : Nat) : Nat :=
  joinLanes w.s ((List.range (2 * w.n - 1)).map fun k => lowBits (satIf sat (w.coeff a b k) w.s) w.s)

/-- The fields of the product take up 2n - 1 spacings. -/
theorem Gw.product_lt (w : Gw) (sat : Bool) (a b : Nat) : w.product sat a b < 2 ^ (w.s * (2 * w.n - 1)) := by
  refine Nat.lt_of_lt_of_eq (joinLanes_lt w.s _) ?_
  rw [List.length_map, List.length_range]

/-- The product of two packed operands fits two results. -/
theorem Gw.product_lt_two (w : Gw) (sat : Bool) (a b : Nat) : w.product sat a b < 2 ^ 1024 := by
  refine Nat.lt_of_lt_of_le (w.product_lt sat a b) (Nat.pow_le_pow_right (by decide) ?_)
  calc w.s * (2 * w.n - 1) ≤ w.s * (2 * w.n) := Nat.mul_le_mul_left _ (Nat.sub_le ..)
    _ = 2 * (w.s * w.n) := Nat.mul_left_comm ..
    _ ≤ 1024 := Nat.mul_le_mul_left 2 w.s_mul_n_le

/-- One field of the product. -/
theorem Gw.product_field (w : Gw) (sat : Bool) (a b : Nat) {k : Nat} (hk : k < 2 * w.n - 1) :
    w.product sat a b / 2 ^ (w.s * k) % 2 ^ w.s = lowBits (satIf sat (w.coeff a b k) w.s) w.s :=
  joinLanes_map_field hk (lowBits_lt ..)

/-- `mulc` (06 R167). -/
theorem peMulc_eq (w : Gw) (sat : Bool) (a b : Nat) :
    peMulc w sat a b = { r1 := w.product sat a b % 2 ^ 512, r2 := w.product sat a b / 2 ^ 512,
                         ovf := firstOut sat (2 * w.n - 1) fun k => outS (w.coeff a b k) w.s } := by
  have hhigh : w.product sat a b / 2 ^ 512 < 2 ^ 512 :=
    Nat.div_lt_of_lt_mul (by rw [← Nat.pow_add]; exact w.product_lt_two sat a b)
  simp only [peMulc, convCoeff_eq, guardAll_map, satI, if_true, ne_satS]
  rw [← Nat.mod_eq_of_lt hhigh]
  rfl

/-- `dotx` (06 R167). -/
theorem peDotx_eq (w : Gw) (sat : Bool) (a b : Nat) :
    peDotx w sat a b
      = { r1 := lowBits (sx (lowBits (satIf sat (w.coeff a b (w.n - 1)) w.s) w.s) w.s) 512,
          ovf := if !sat && outS (w.coeff a b (w.n - 1)) w.s then some (w.n - 1) else none } := by
  simp only [peDotx, convCoeff_eq, guardAll, satI, if_true, ne_satS, List.map_cons, List.map_nil, satIf]
  cases sat <;> cases h : outS (w.coeff a b (w.n - 1)) w.s <;> simp [nth, List.findIdx?_cons, h]

/-- The values that `pack` takes from the lanes of its operand. -/
def packValue (ty a i : Nat) : Int := if i < laneCount ty then laneInt ty a i else 0

/-- The fields that `pack` makes. -/
def Gw.packed (w : Gw) (ty ew : Nat) (sat : Bool) (a : Nat) : Nat :=
  joinLanes w.s ((List.range w.n).map fun i => lowBits (satIf sat (packValue ty a i) ew) w.s)

/-- `pack` (06 R168). -/
theorem pePack_eq (w : Gw) (ty : Nat) (opb sat : Bool) (a : Nat) :
    pePack w ty opb sat a
      = { r1 := w.packed ty (if opb then w.eb else w.ea) sat a,
          ovf := firstOut sat w.n fun i => outS (packValue ty a i) (if opb then w.eb else w.ea) } := by
  have hval (i : Nat) : (if i < 512 / typeWidth ty then
      readInt (typeSigned ty) (a / 2 ^ (typeWidth ty * i)) (typeWidth ty) else 0) = packValue ty a i := by
    simp only [packValue, laneCount, laneInt, laneNat, readInt_mod]
  simp only [pePack, hval, findIdx?_map_range, List.map_map]
  rfl

/-- The fields that `pack` makes take up n spacings. -/
theorem Gw.packed_lt (w : Gw) (ty ew : Nat) (sat : Bool) (a : Nat) : w.packed ty ew sat a < 2 ^ (w.s * w.n) := by
  refine Nat.lt_of_lt_of_eq (joinLanes_lt w.s _) ?_
  rw [List.length_map, List.length_range]

/-- One field that `pack` makes. -/
theorem Gw.packed_field (w : Gw) (ty ew : Nat) (sat : Bool) (a : Nat) {i : Nat} (hi : i < w.n) :
    w.packed ty ew sat a / 2 ^ (w.s * i) % 2 ^ w.s = lowBits (satIf sat (packValue ty a i) ew) w.s :=
  joinLanes_map_field hi (lowBits_lt ..)

/-- The fields that `pack` makes fit one result. -/
theorem Gw.packed_toNat (w : Gw) (ty ew : Nat) (sat : Bool) (a : Nat) :
    (BitVec.ofNat 512 (w.packed ty ew sat a)).toNat = w.packed ty ew sat a := by
  rw [BitVec.toNat_ofNat, Nat.mod_eq_of_lt]
  exact Nat.lt_of_lt_of_le (w.packed_lt ty ew sat a) (Nat.pow_le_pow_right (by decide) w.s_mul_n_le)

/-- A result of integer lanes fits 512 bits. -/
theorem mapInts_toNat (ty : Nat) (g : Nat → Int) : (BitVec.ofNat 512 (mapInts ty g)).toNat = mapInts ty g := by
  rw [BitVec.toNat_ofNat, mapInts, Nat.mod_eq_of_lt (mapLanes_lt ..)]

/-- The field that `xtrc` brings to lane k, 0 where it lies beyond its operands. -/
def Gw.extracted (w : Gw) (a b c k : Nat) : Int :=
  let j := c % 2 ^ 10 + k
  if w.s * j + w.s - 1 ≤ 1023 then sx ((b * 2 ^ 512 + a) / 2 ^ (w.s * j)) w.s else 0

/-- `xtrc` (06 R169). -/
theorem peXtrc_eq (w : Gw) (ty : Nat) (sat : Bool) (a b c : Nat) :
    peXtrc w ty sat a b c
      = { r1 := mapInts ty fun k => if sat then satT ty (w.extracted a b c k) else w.extracted a b c k,
          ovf := firstOut sat (laneCount ty) fun k => w.extracted a b c k != satT ty (w.extracted a b c k) } := by
  simp only [peXtrc, guardAll_map]
  rfl

/-! ### Wide integers -/

/-- The product of lane k of two operands, in twice the width of a lane. -/
def laneProduct (ty a b k : Nat) : Nat := lowBits (laneInt ty a k * laneInt ty b k) (2 * typeWidth ty)

/-- `mulw` (06 R165). -/
theorem peMulw_eq {a b : Nat} (sgn : Bool) (ha : a < 2 ^ 512) (hb : b < 2 ^ 512) :
    peMulw sgn a b =
      let wide (v : Nat) : Int := if sgn then sx v 512 else v
      let p := lowBits (wide a * wide b) 1024
      { r1 := p % 2 ^ 512, r2 := p / 2 ^ 512 } := by
  simp only [peMulw, readInt_of_lt sgn ha, readInt_of_lt sgn hb]

/-- `muls` (06 R166): the halves of the products of the lanes. -/
theorem peMuls_eq {ty w : Nat} (a b : Nat) (hw : typeWidth ty = 8 * w) :
    peMuls (typeSigned ty) w a b
      = { r1 := mapLanes ty fun k => laneProduct ty a b k % 2 ^ typeWidth ty,
          r2 := mapLanes ty fun k => laneProduct ty a b k / 2 ^ typeWidth ty } := by
  have hcount : 64 / w = laneCount ty := by
    rw [laneCount, hw]; exact (Nat.mul_div_mul_left 64 w (by decide : 0 < 8)).symm
  have hwidth : 16 * w = 2 * typeWidth ty := by omega
  simp only [peMuls, mapLanes, laneProduct, laneInt, laneNat, readInt_mod, hcount, hwidth, ← hw, List.map_map]
  rfl

/-- `addw` (06 R170): the sum and its carry. -/
theorem peAddw_eq {a b : Nat} (c : Nat) (ha : a < 2 ^ 512) (hb : b < 2 ^ 512) :
    peAddw a b c = { r1 := (a + b + c % 2) % 2 ^ 512, r2 := (a + b + c % 2) / 2 ^ 512 } := by
  have hcarry : (a + b + c % 2) / 2 ^ 512 < 2 := Nat.div_lt_of_lt_mul (by omega)
  simp only [peAddw, Nat.mod_eq_of_lt hcarry]

/-- `subw` (06 R170): the difference and its borrow. -/
theorem peSubw_eq {a b : Nat} (c : Nat) (ha : a < 2 ^ 512) (hb : b < 2 ^ 512) :
    peSubw a b c = { r1 := (2 ^ 512 + a - b - c % 2) % 2 ^ 512, r2 := if a < b + c % 2 then 1 else 0 } := by
  have hborrow : 1 - (2 ^ 512 + a - b - c % 2) / 2 ^ 512 % 2 = if a < b + c % 2 then 1 else 0 := by
    split
    · next h => rw [Nat.div_eq_of_lt (by omega)]
    · next h => rw [Nat.div_eq_of_lt_le (by omega) (by omega) (k := 1)]
  simp only [peSubw, Nat.add_comm a (2 ^ 512), hborrow]

/-- `shrw` without AR (06 R171): the operands C and A as one number, shifted. -/
theorem peShrw_logical (a b c : Nat) :
    peShrw false a b c = { r1 := (c * 2 ^ 512 + a) / 2 ^ wideCount b % 2 ^ 512 } := rfl

/-- `shrw` with AR (06 R171): the signed operand A, shifted. -/
theorem peShrw_arithmetic (a b c : Nat) :
    peShrw true a b c = { r1 := lowBits (sx a 512 / (2 ^ wideCount b : Nat)) 512 } := rfl

/-- `clzw` (06 R172). -/
theorem peClzw_eq {a : Nat} (ha : a < 2 ^ 512) : peClzw a = { r1 := if a = 0 then 512 else 511 - a.log2 } := by
  simp only [peClzw, leadingZeros, Nat.mod_eq_of_lt ha]

/-- Two patterns of n bits make one of 2n. -/
theorem pair_lt {a b n : Nat} (ha : a < 2 ^ n) (hb : b < 2 ^ n) : b * 2 ^ n + a < 2 ^ (n + n) :=
  calc b * 2 ^ n + a < b * 2 ^ n + 2 ^ n := Nat.add_lt_add_left ha _
    _ = (b + 1) * 2 ^ n := (Nat.succ_mul ..).symm
    _ ≤ 2 ^ n * 2 ^ n := Nat.mul_le_mul_right _ hb
    _ = 2 ^ (n + n) := (Nat.pow_add ..).symm

/-- `rndw` (06 R173). -/
theorem peRndw_eq {a b : Nat} (sgn : Bool) (rm : Rm) (sat ftz : Bool) (c : Nat) (ha : a < 2 ^ 512) (hb : b < 2 ^ 512) :
    peRndw sgn rm sat ftz a b c =
      let y : Int := if sgn then sx (b * 2 ^ 512 + a) 1024 else (b * 2 ^ 512 + a : Nat)
      { r1 := Fmt.f64.encFtz (.fin (y < 0) y.natAbs (sx c 16)) rm ftz sat } := by
  have hy : b * 2 ^ 512 + a < 2 ^ (512 + 512) := pair_lt ha hb
  simp only [peRndw, readInt_of_lt sgn hy]

end Sys2Proof
end

section
/-! The CPE's arithmetic at issue and in the landing of its results (06 R165 to R173). -/
namespace Sys2Proof.Machine

section
variable {s : State} {f : OpF} {e : OpEnv} {g : OpEnv → PeOut} {r q : Nat} {o : Option Nat}

/-- A result op of a CPE lands what it forms at issue. -/
theorem cpeResult_lands (opc l : Nat) (two : Bool) (h : Issues s f e) (hl : opLatency .cpe opc f = l)
    (htwo : decide (opResults .cpe opc f = 2) = two) (hout : g e = ⟨r, q, o⟩)
    (extra : OpEnv → List LandAct := fun _ => []) :
    resultOp .cpe opc f s g extra
      = .next (lands s e .cpe opc l two (BitVec.ofNat 512 r) (BitVec.ofNat 512 q) (extra e)) := by
  subst hl htwo
  rw [resultOp_lands g extra h (by decide), hout]

/-- One that checks its fields lands the event of its first guard overflow with it (03 R78). -/
theorem cpeGuarded_lands (opc l : Nat) (two : Bool) (h : Issues s f e) (hl : opLatency .cpe opc f = l)
    (htwo : decide (opResults .cpe opc f = 2) = two) (hout : g e = ⟨r, q, o⟩) :
    resultOp .cpe opc f s g (fun e => ovfActs (g e).ovf)
      = .next (lands s e .cpe opc l two (BitVec.ofNat 512 r) (BitVec.ofNat 512 q) (ovfActs o)) := by
  rw [cpeResult_lands opc l two h hl htwo hout (extra := fun e => ovfActs (g e).ovf), hout]

end

/-- The type selector and the element width of a `muls` name the same lanes (06 R166). -/
theorem typeWidth_of_muls {f : OpF} (h : cpeLegal 0x02 f = true) : typeWidth f.ty = 8 * f.width := by
  simp only [cpeLegal, Bool.and_eq_true, decide_eq_true_eq] at h
  obtain ⟨-, hwidth⟩ := h
  exact hwidth

/-- Settles O1: each op lands what its closed form says (`cpeResult_lands`, `cpeGuarded_lands`), and the fields and
lanes of the results are read out of it one by one (`Gw.product_field`, `joinLanes_map_field`, `laneNat_mapLanes`). -/
theorem cpeArithmetic : Obligations.CpeArithmetic := by
  refine ⟨?wide, ?packed⟩
  case wide =>
    intro f s e h a b ci n one two wide y
    obtain ⟨ha, hb, -⟩ := h.operands_lt
    refine ⟨fun _ => ⟨?mulw, ?rndw⟩, fun hlegal => ?muls, ?addw, ?subw, ?shlw, fun hmod => ?shrl, fun hmod => ?shra,
      ?clzw⟩
    case addw => exact cpeResult_lands 0x0A 2 true h rfl rfl (peAddw_eq e.c ha hb)
    case subw => exact cpeResult_lands 0x0B 2 true h rfl rfl (peSubw_eq e.c ha hb)
    case shlw => exact cpeResult_lands 0x0C 1 false h rfl rfl rfl
    case clzw => exact cpeResult_lands 0x0E 2 false h rfl rfl (peClzw_eq ha)
    case mulw =>
      have hout := peMulw_eq (decide (f.ty = 7)) ha hb
      simp only [decide_eq_true_eq] at hout
      exact cpeResult_lands 0x01 10 true h rfl rfl hout
    case rndw =>
      have hout := peRndw_eq (decide (f.ty = 7)) (Rm.of2 f.rmode) f.sat f.ftz e.c ha hb
      simp only [decide_eq_true_eq] at hout
      exact cpeResult_lands 0x0F 3 false h rfl rfl hout
    case muls =>
      intro w
      have hw := typeWidth_of_muls hlegal
      refine ⟨_, _, cpeResult_lands 0x02 8 true h rfl rfl (peMuls_eq a b hw), fun k hk => ?_⟩
      have hk : k < laneCount f.ty := by rwa [laneCount, hw]
      have hhigh : laneProduct f.ty a b k / 2 ^ typeWidth f.ty < 2 ^ typeWidth f.ty :=
        Nat.div_lt_of_lt_mul (by rw [← Nat.pow_add, ← Nat.two_mul]; exact lowBits_lt ..)
      simp only [BitVec.toNat_ofNat, Nat.mod_eq_of_lt (mapLanes_lt ..), laneNat_mapLanes _ _ _ hk, Nat.mod_mod,
        Nat.mod_eq_of_lt hhigh, w, ← hw, Nat.mod_add_div]
      rfl
    case shrl => exact cpeResult_lands 0x0D 1 false h rfl rfl (by rw [hmod]; exact peShrw_logical ..)
    case shra => exact cpeResult_lands 0x0D 1 false h rfl rfl (by rw [hmod]; exact peShrw_arithmetic ..)
  case packed =>
    intro f s e h w s0 n fa fb c note first fit
    refine ⟨?mulc, ?dotx, fun _ => ?pack, fun _ => ?xtrc⟩
    case mulc =>
      have hout := ofNat_halves (w.product_lt_two f.sat e.a e.b)
      refine ⟨_, _, cpeGuarded_lands 0x03 12 true h rfl rfl (peMulc_eq w f.sat e.a e.b), fun k hk => ?_, ?_⟩
      · rw [hout]; exact w.product_field f.sat e.a e.b hk
      · rw [hout]; exact w.product_lt f.sat e.a e.b
    case dotx =>
      rw [ofInt_eq_ofNat_lowBits]
      exact cpeGuarded_lands 0x04 12 true h rfl rfl (peDotx_eq w f.sat e.a e.b)
    case pack =>
      intro ew v
      have hout := pePack_eq w f.ty (decide (f.modBits 0 0 = 1)) f.sat e.a
      simp only [decide_eq_true_eq] at hout
      have hpacked := w.packed_toNat f.ty (if f.modBits 0 0 = 1 then w.eb else w.ea) f.sat e.a
      refine ⟨_, cpeGuarded_lands 0x08 2 false h rfl rfl hout, fun i hi => ?_, ?_⟩
      · rw [hpacked]; exact w.packed_field f.ty ew f.sat e.a hi
      · rw [hpacked]; exact w.packed_lt f.ty ew f.sat e.a
    case xtrc =>
      intro v
      refine ⟨_, cpeGuarded_lands 0x09 3 false h rfl rfl (peXtrc_eq w f.ty f.sat e.a e.b e.c), fun k hk => ?_⟩
      rw [mapInts_toNat]
      exact laneNat_mapInts f.ty _ k hk

end Sys2Proof.Machine
end

section
/-! The CPE ops without results: what they sample at issue (06 R174 to R183), and what their landings do. -/
namespace Sys2Proof.Machine

/-! ### Issue -/

section
variable {s : State} {f : OpF} {e : OpEnv}

/-- No op of a CPE waits for a word on a kind port. -/
theorem cpe_portLate (e : OpEnv) (opc : Nat) : e.portLate .cpe opc = false := portLate_of_ne opc (by decide)

/-- The state in which an op of a CPE has issued whose one effect lands after l cycles. -/
def issuedAct (s : State) (e : OpEnv) (opc l : Nat) (x : LandAct) : State :=
  issued s e .cpe opc
    { lands := [⟨e.t + l - 1, e.pe, e.ops, x⟩], recs := e.record .cpe opc l 2 0 e.a e.b e.c }

/-- An op without results that is not late. -/
theorem landingOp_done (opc l : Nat) (h : Issues s f e) (hl : opLatency .cpe opc f = l) (act : OpEnv → LandAct)
    {late : State → OpEnv → Bool} (hn : late s e = false) :
    landingOp opc f s late act = .next (issuedAct s e opc l (act e)) := by
  have hf := opEnv_f h.1
  subst hl hf
  exact issueOp_done late _ h (cpe_portLate e opc) hn

/-- An op without results that is never late. -/
theorem landingOp_never (opc l : Nat) (h : Issues s f e) (hl : opLatency .cpe opc f = l) {act : OpEnv → LandAct} :
    landingOp opc f s neverLate act = .next (issuedAct s e opc l (act e)) :=
  landingOp_done opc l h hl act rfl

/-- One that is late. -/
theorem landingOp_late (opc : Nat) (h : Issues s f e) {act : OpEnv → LandAct} {late : State → OpEnv → Bool}
    (hn : late s e = true) : landingOp opc f s late act = .next (s.late e) :=
  issueOp_late late _ h (cpe_portLate e opc) hn

/-- An access of a granule is late where it needs fold registers on which a fold is at work (03 R83). -/
def granuleLate (f : OpF) (s : State) (e : OpEnv) : Bool := f.modBits 0 0 = 1 && foldLate s e

/-- One of cells, or of fold registers at rest, is not late. -/
theorem granuleLate_eq_false (hfree : f.modBits 0 0 ≠ 1 ∨ e.st.foldBusy e.st.sel = false) :
    granuleLate f s e = false := by
  rcases hfree with hcells | hidle
  · simp [granuleLate, hcells]
  · simp [granuleLate, foldLate, hidle]

/-- One of fold registers on which a fold is at work is late. -/
theorem granuleLate_eq_true (hfr : f.modBits 0 0 = 1) (hbusy : e.st.foldBusy e.st.sel = true) :
    granuleLate f s e = true := by
  simp [granuleLate, foldLate, hfr, hbusy]

/-- `accrd` (06 R180) that is not late: the granule goes to its destinations and to the read-out. -/
theorem execAccrd_done (h : Issues s f e) (hn : granuleLate f s e = false) :
    let v := (e.st.bank e.st.sel).granule (f.modBits 0 0 = 1) (e.a % 256)
    exec (.accrd f) s = .next (issued s e .cpe 0x12
      { lands := [resultLanding e 2 false v 0, ⟨e.t + 1, e.pe, e.ops, .readOut v⟩],
        recs := e.record .cpe 0x12 2 1 0 v.toNat 0 0 }) := by
  intro v
  have hdest : e.dest .cpe 0x12 v.toNat 0 = resultLanding e 2 false v 0 := by
    simp [OpEnv.dest, OpEnv.landing, resultLanding, opLatency, opResults]
  change execAccrd f s = _
  rw [← hdest]
  exact issueOp_done (granuleLate f) _ h (cpe_portLate e 0x12) hn

/-- `accrd` that is late. -/
theorem execAccrd_late (h : Issues s f e) (hn : granuleLate f s e = true) : exec (.accrd f) s = .next (s.late e) := by
  change execAccrd f s = _
  exact issueOp_late (granuleLate f) _ h (cpe_portLate e 0x12) hn

/-- `accwr` (06 R180) that is not late. -/
theorem execAccwr_done (h : Issues s f e) (hn : granuleLate f s e = false) :
    exec (.accwr f) s = .next (issuedAct s e 0x13 2
      (.accwr e.st.sel (f.modBits 0 0 = 1) (e.a % 256) (BitVec.ofNat 512 e.b))) :=
  landingOp_done 0x13 2 h rfl _ (late := granuleLate f) hn

/-- `accwr` that is late. -/
theorem execAccwr_late (h : Issues s f e) (hn : granuleLate f s e = true) : exec (.accwr f) s = .next (s.late e) :=
  landingOp_late 0x13 h (late := granuleLate f) hn

/-- `drn` (06 R182): the drain takes its place in the queue of its core. -/
theorem execDrn_issues (h : Issues s f e) :
    exec (.drn f) s = .next (issued s e .cpe 0x15
      { run := fun r => r.putDrain e.core { r.drain e.core with
          queue := (r.drain e.core).queue ++ [(decide (e.slot = 10), decide (f.modBits 0 0 = 1))] } }) := by
  change execDrn f s = _
  exact issueOp_never _ h (cpe_portLate e 0x15)

end

/-! ### Landings -/

/-- The exponents of one half of a scale register, replaced by a landing (06 R176). -/
theorem lane_setLane_scale (x : BitVec 1024) (hi : Bool) (v : Wide) {m : Nat} (hm : m < 64) :
    lane 16 (setLane x (if hi then 1 else 0) v) m
      = if (m / 32 = 1) = (hi = true) then lane 16 v (m % 32) else lane 16 x m := by
  have hhalf : m / 32 = (if hi then 1 else 0) ↔ (m / 32 = 1) = (hi = true) := by
    cases hi with
    | false =>
      simp only [Bool.false_eq_true, if_false, eq_iff_iff, iff_false]
      omega
    | true => simp
  rw [lane_setLane (u := 16) (q := 32) x _ v (by decide) (by omega)]
  simp only [hhalf]

/-- A granule of a bank behind a write (06 R180). -/
theorem lane_setLane_granule (x : BitVec 131072) (g : Nat) (v : Wide) {m : Nat} (hm : m < 256) :
    lane 512 (setLane x g v) m = if m = g then v else lane 512 x m := by
  have hwhole : lane 512 v 0 = v := by simp [lane]
  rw [lane_setLane (u := 512) (q := 1) x g v (by decide) (by omega), Nat.div_one, Nat.mod_one, hwhole]

/-! ### The statement -/

/-- Settles O2: an op without results is one landing of what it sampled (`landingOp_never`), late only where it needs
fold registers that a fold changes (`granuleLate_eq_true`, `landingOp_late`); a scale half and a granule are one field of
their register (`lane_setLane_scale`, `lane_setLane_granule`). -/
theorem cpeBankAccess : Obligations.CpeBankAccess := by
  refine ⟨?issue, ?access, ?landings⟩
  case issue =>
    intro f s e h a b p hi is prod
    exact ⟨landingOp_never 0x05 8 h rfl, landingOp_never 0x06 8 h rfl, landingOp_never 0x07 1 h rfl,
      landingOp_never 0x10 1 h rfl, landingOp_never 0x11 1 h rfl, landingOp_never 0x16 1 h rfl,
      landingOp_never 0x17 1 h rfl, landingOp_never 0x18 1 h rfl, landingOp_never 0x19 1 h rfl,
      fun kind hl => issueOp_never (fun _ _ => {}) h hl⟩
  case access =>
    intro f s e h p k fr g v busy enqueue act
    refine ⟨fun hfree => ⟨?read, ?write⟩, fun hfr hbusy => ⟨?readLate, ?writeLate⟩, fun hfree => ?clear,
      fun hbusy => ?clearLate, execDrn_issues h⟩
    case read => simpa [Bank.granule] using execAccrd_done h (granuleLate_eq_false hfree)
    case write => exact execAccwr_done h (granuleLate_eq_false hfree)
    case readLate => exact execAccrd_late h (granuleLate_eq_true hfr hbusy)
    case writeLate => exact execAccwr_late h (granuleLate_eq_true hfr hbusy)
    case clear => exact landingOp_done 0x14 1 h rfl _ hfree
    case clearLate => exact landingOp_late 0x14 h hbusy
  case landings =>
    intro p cyc
    refine ⟨fun isB hi v => ?scale, fun v => rfl, fun b => rfl, fun b => rfl, fun b fr g v => ?write, fun v => ?widths,
      fun b w ty n hty => ?mode, fun w ty sat ftz rm b m x y hmode => ?mismatch⟩
    case scale =>
      refine ⟨_, rfl, fun m hm => ?_, ?_⟩
      · cases isB
        · exact lane_setLane_scale p.ea hi v hm
        · exact lane_setLane_scale p.eb hi v hm
      · cases isB <;> rfl
    case write =>
      refine ⟨_, rfl, fun _ m hm => ?_, ?_⟩
      · cases fr
        · exact lane_setLane_granule (p.bank b).cells g v hm
        · exact lane_setLane_granule (p.bank b).folds g v hm
      · cases fr <;> rfl
    case widths =>
      intro w ok
      simp only [Pe.cpeLand, Gw.ok_iff]
      rfl
    case mode => simp [Pe.cpeLand, hty]
    case mismatch => simp [Pe.cpeLand, hmode]

end Sys2Proof.Machine
end

section
/-! The results of the APE ops: the lanes of what lands, and the types of the lanes (07 R188, R189). -/
namespace Sys2Proof

/-! ### Types and lanes -/

/-- An integer type is no float type. -/
theorem typeFloat_of_tyInt {f : OpF} (h : f.tyInt = true) : typeFloat f.ty = false := by
  simp only [OpF.tyInt, Bool.and_eq_true, decide_eq_true_eq] at h
  simp only [typeFloat, Bool.or_eq_false_iff, decide_eq_false_iff_not]
  omega

/-- The lanes of a float type are as wide as its format. -/
theorem typeWidth_of_float {ty : Nat} (h : typeFloat ty = true) : typeWidth ty = (typeFmt ty).width := by
  simp only [typeFloat, Bool.or_eq_true, decide_eq_true_eq] at h
  rcases h with rfl | rfl <;> rfl

theorem Fmt.width_pos (fm : Fmt) : 0 < fm.width := by cases fm <;> decide

/-- The canonical NaN fits its format. -/
theorem Fmt.nan_lt (fm : Fmt) : fm.nan < 2 ^ fm.width := by cases fm <;> decide

/-- A lane that is all ones or zero fits. -/
theorem ones_lt (ty : Nat) (b : Bool) : Machine.ones ty b < 2 ^ typeWidth ty := by
  have := Nat.two_pow_pos (typeWidth ty)
  unfold Machine.ones
  split <;> omega

/-- A lane whose NaN is made canonical fits. -/
theorem laneCanon_lt {ty x : Nat} (hx : x < 2 ^ typeWidth ty) : laneCanon ty x < 2 ^ typeWidth ty := by
  unfold laneCanon
  split
  · next h => exact typeWidth_of_float h.1 ▸ Fmt.nan_lt _
  · exact hx

/-- The integer of a signed pattern of n bits lies in its range. -/
theorem sx_mem {n : Nat} (v : Nat) (hn : 0 < n) :
    -(2 ^ (n - 1) : Nat) ≤ sx v n ∧ sx v n < (2 ^ (n - 1) : Nat) := by
  have hpow := Nat.two_pow_pred_mul_two hn
  have hlt := Nat.mod_lt v (Nat.two_pow_pos n)
  unfold sx
  split <;> omega

namespace Machine

section
variable {i : Instr} {s : State} {f : OpF} {e : OpEnv} {opc l : Nat} {g : OpEnv → PeOut} {p q : Nat → Nat}
  {v w : Nat → Nat}

/-- A result op of a slot other than an MPE's lands what it forms at issue. -/
theorem result_lands {kind : PeKind} {r q : Nat} (two : Bool) (h : Issues s f e) (hk : kind ≠ .mpe)
    (hi : exec i s = resultOp kind opc f s g) (hl : opLatency kind opc f = l)
    (htwo : decide (opResults kind opc f = 2) = two) (hg : g e = { r1 := r, r2 := q }) :
    exec i s = .next (lands s e kind opc l two (BitVec.ofNat 512 r) (BitVec.ofNat 512 q)) := by
  subst hl htwo
  rw [hi, resultOp_lands g _ h hk, hg]

/-- A lane of what lands of a result given lane by lane. -/
theorem laneNat_landed {ty j : Nat} (hj : j < laneCount ty) (hp : p j < 2 ^ typeWidth ty) :
    laneNat ty (BitVec.ofNat 512 (mapLanes ty p)).toNat j = p j := by
  rw [BitVec.toNat_ofNat, Nat.mod_eq_of_lt (mapLanes_lt ty p), laneNat_mapLanes _ _ _ hj, Nat.mod_eq_of_lt hp]

/-- An op that forms patterns lane by lane. -/
theorem ApeLanes.of_patterns (h : Issues s f e) (hi : exec i s = resultOp .ape opc f s g)
    (hl : opLatency .ape opc f = l) (htwo : decide (opResults .ape opc f = 2) = false)
    (hg : g e = { r1 := mapLanes f.ty p }) (hv : ∀ j, p j = v j ∧ v j < 2 ^ typeWidth f.ty) :
    ApeLanes i s e opc l v := by
  have hpv : p = v := funext fun j => (hv j).1
  refine ⟨_, result_lands false h (by decide) hi hl htwo hg, fun j hj => ?_⟩
  rw [opEnv_f h.1] at hj ⊢
  rw [hpv]
  exact laneNat_landed hj (hv j).2

/-- An op that forms two results lane by lane. -/
theorem ApeLanes2.of_patterns (h : Issues s f e) (hi : exec i s = resultOp .ape opc f s g)
    (hl : opLatency .ape opc f = l) (htwo : decide (opResults .ape opc f = 2) = true)
    (hg : g e = { r1 := mapLanes f.ty v, r2 := mapLanes f.ty w })
    (hv : ∀ j, v j < 2 ^ typeWidth f.ty ∧ w j < 2 ^ typeWidth f.ty) :
    ApeLanes2 i s e opc l v w := by
  refine ⟨_, _, result_lands true h (by decide) hi hl htwo hg, fun j hj => ?_⟩
  rw [opEnv_f h.1] at hj ⊢
  exact ⟨laneNat_landed hj (hv j).1, laneNat_landed hj (hv j).2⟩

/-- An op that forms integers lane by lane. -/
theorem ApeLanes.of_ints {x : Nat → Int} (h : Issues s f e) (hi : exec i s = resultOp .ape opc f s g)
    (hl : opLatency .ape opc f = l) (htwo : decide (opResults .ape opc f = 2) = false)
    (hg : g e = { r1 := mapInts f.ty x }) : ApeLanes i s e opc l fun j => low f.ty (x j) :=
  .of_patterns h hi hl htwo hg fun _ => ⟨rfl, lowBits_lt ..⟩

end

end Machine
end Sys2Proof
end

section
/-! The integer and bitwise ops of an APE (07 R193 to R196). -/
namespace Sys2Proof

/-- The sign of a float pattern, cleared. -/
theorem floatSign_clear (fm : Fmt) (x : Nat) :
    floatSign fm (fun _ => false) x = if (fm.dec x).isNan then fm.nan else x % 2 ^ (fm.width - 1) := by
  simp [floatSign, Fmt.signBit]

/-- The top bit of a pattern, inverted. -/
theorem xor_topBit {x n : Nat} (hn : 0 < n) (hx : x < 2 ^ n) :
    x % 2 ^ (n - 1) + (if !x.testBit (n - 1) then 2 ^ (n - 1) else 0) = x ^^^ 2 ^ (n - 1) := by
  have hpow := (Nat.two_pow_pred_mul_two hn).symm
  have htop : x / 2 ^ (n - 1) < 2 := Nat.div_lt_of_lt_mul (hpow ▸ hx)
  have hbit : (x ^^^ 2 ^ (n - 1)) / 2 ^ (n - 1) = if !x.testBit (n - 1) then 1 else 0 := by
    rw [Nat.xor_div_two_pow, Nat.div_self (Nat.two_pow_pos _), Nat.testBit_eq_decide_div_mod_eq]
    rcases Nat.le_one_iff_eq_zero_or_eq_one.mp (Nat.le_of_lt_succ htop) with h | h <;> simp [h]
  have hlow : (x ^^^ 2 ^ (n - 1)) % 2 ^ (n - 1) = x % 2 ^ (n - 1) := by
    rw [Nat.xor_mod_two_pow, Nat.mod_self, Nat.xor_zero]
  rw [← Nat.div_add_mod (x ^^^ 2 ^ (n - 1)) (2 ^ (n - 1)), hbit, hlow, mul_ite, Nat.mul_one, Nat.mul_zero, Nat.add_comm]

/-- The sign of a float pattern, inverted. -/
theorem floatSign_invert {fm : Fmt} {x : Nat} (hx : x < 2 ^ fm.width) :
    floatSign fm (fun n => !n) x = if (fm.dec x).isNan then fm.nan else x ^^^ 2 ^ (fm.width - 1) := by
  rw [floatSign, Fmt.signBit, xor_topBit fm.width_pos hx]

/-- The set bits of a pattern, counted. -/
theorem popCount_eq (v n : Nat) : popCount v n = ((List.range n).filter fun k => v.testBit k).length := by
  induction n with
  | zero => rfl
  | succ n ih =>
    rw [popCount, ih, List.range_succ, List.filter_append, List.length_append, List.filter_singleton,
      Nat.testBit_eq_decide_div_mod_eq]
    rcases Nat.mod_two_eq_zero_or_one (v / 2 ^ n) with h | h <;> simp [h]

/-- The conditions of `cmp` by their codes (07 R196). -/
theorem condHolds_compare (x y : Int) {c : Nat} (hc : c ≤ 5) :
    condHolds c (some (compare x y))
      = [x == y, x != y, decide (x < y), decide (x ≤ y), decide (x > y), decide (x ≥ y)].getD c false := by
  have hlt : compare x y = .lt ↔ x < y := compare_lt_iff_lt
  have hgt : compare x y = .gt ↔ x > y := compare_gt_iff_gt
  rw [Bool.eq_iff_iff]
  interval_cases c <;> simp [condHolds, hlt, hgt]

namespace Machine

/-- The whole operand without the bits of another. -/
theorem ofNat_andn {a b : Nat} (hb : b < 2 ^ 512) :
    BitVec.ofNat 512 (a &&& (2 ^ 512 - 1 - b)) = BitVec.ofNat 512 a &&& ~~~BitVec.ofNat 512 b := by
  have hnot : BitVec.ofNat 512 (2 ^ 512 - 1 - b) = ~~~BitVec.ofNat 512 b := by
    refine BitVec.eq_of_toNat_eq ?_
    rw [BitVec.toNat_not, BitVec.toNat_ofNat, BitVec.toNat_ofNat, Nat.mod_eq_of_lt hb, Nat.mod_eq_of_lt (by omega)]
  rw [BitVec.ofNat_and, hnot]

/-- Settles O4: an op is never late and lands what it forms (`ApeLanes.of_ints`, `ApeLanes.of_patterns`), so that each
clause is left with what one lane is: an arithmetic identity, or a bound on a pattern. -/
theorem apeIntegers : Obligations.ApeIntegers := by
  refine ⟨?arithmetic, ?bitwise, ?shifts, ?compares⟩
  case arithmetic =>
    intro f s e h x y z p fm sat is
    refine ⟨fun hty => ?ints, fun hty => ?floats⟩
    case ints =>
      have hnf := typeFloat_of_tyInt hty
      have hsign (ig : Int → Int) (fg : Bool → Bool) :
          apeSign f.ty f.sat e.a ig fg = { r1 := mapInts f.ty fun j => sat (ig (x j)) } := by
        rw [apeSign, hnf]
        rfl
      have hmax : apeInt2 f.ty e.a e.b max = { r1 := mapInts f.ty fun j => if x j ≥ y j then x j else y j } := by
        simp only [apeInt2, max_def']
        rfl
      exact ⟨.of_ints h rfl rfl rfl rfl, .of_ints h rfl rfl rfl rfl, .of_ints h rfl rfl rfl rfl, .of_ints h rfl rfl rfl rfl,
        .of_ints h rfl rfl rfl rfl, .of_ints h rfl rfl rfl rfl, .of_ints h rfl rfl rfl rfl, .of_ints h rfl rfl rfl rfl,
        .of_ints h rfl rfl rfl hmax, .of_ints h rfl rfl rfl (hsign ..), .of_ints h rfl rfl rfl (hsign ..)⟩
    case floats =>
      have hw := typeWidth_of_float hty
      have hsign (ig : Int → Int) (fg : Bool → Bool) :
          apeSign f.ty f.sat e.a ig fg = { r1 := mapLanes f.ty fun j => floatSign fm fg (p j) } := by
        rw [apeSign, hty]
        rfl
      have hp (j : Nat) : p j < 2 ^ fm.width := hw ▸ laneNat_lt ..
      have htop : 2 ^ (fm.width - 1) < 2 ^ fm.width :=
        Nat.pow_lt_pow_right (by decide) (Nat.sub_lt fm.width_pos (by decide))
      refine ⟨.of_patterns h rfl rfl rfl (hsign ..) fun j => ⟨floatSign_clear .., ?_⟩,
        .of_patterns h rfl rfl rfl (hsign ..) fun j => ⟨floatSign_invert (hp j), ?_⟩⟩
      · rw [hw]
        exact ite_lt fm.nan_lt (Nat.lt_trans (Nat.mod_lt _ (Nat.two_pow_pos _)) htop)
      · rw [hw]
        exact ite_lt fm.nan_lt (Nat.xor_lt_two_pow (hp j) htop)
  case bitwise =>
    intro f s e h a b
    have hone {i : Instr} {opc r : Nat} {v : Wide} {g : OpEnv → PeOut} (hi : exec i s = resultOp .ape opc f s g)
        (hl : opLatency .ape opc f = 1) (htwo : decide (opResults .ape opc f = 2) = false) (hg : g e = { r1 := r })
        (hv : BitVec.ofNat 512 r = v) : exec i s = .next (lands s e .ape opc 1 false v 0) :=
      hv ▸ result_lands false h (by decide) hi hl htwo hg
    obtain ⟨-, hb, -⟩ := h.operands_lt
    exact ⟨hone rfl rfl rfl rfl BitVec.ofNat_and, hone rfl rfl rfl rfl BitVec.ofNat_or,
      hone rfl rfl rfl rfl BitVec.ofNat_xor, hone rfl rfl rfl rfl (ofNat_andn hb), hone rfl rfl rfl rfl rfl⟩
  case shifts =>
    intro f s e h _ w x n
    have hx (j : Nat) : x j < 2 ^ w := laneNat_lt ..
    have hpos := Nat.two_pow_pos w
    exact ⟨.of_patterns h rfl rfl rfl rfl fun j => ⟨rfl, ite_lt hpos (Nat.mod_lt _ hpos)⟩,
      .of_patterns h rfl rfl rfl rfl fun j => ⟨rfl, ite_lt hpos (Nat.lt_of_le_of_lt (Nat.div_le_self ..) (hx j))⟩,
      .of_patterns h rfl rfl rfl rfl fun j => ⟨rfl, lowBits_lt ..⟩,
      .of_patterns h rfl rfl rfl rfl fun j => ⟨rfl, Nat.mod_lt _ hpos⟩⟩
  case compares =>
    intro f s e h w a b c x y
    have ha (j : Nat) : a j < 2 ^ w := laneNat_lt ..
    have hcount {n : Nat} (hn : n ≤ w) : n < 2 ^ w := Nat.lt_of_le_of_lt hn Nat.lt_two_pow_self
    refine ⟨fun _ hcond => .of_patterns h rfl rfl rfl rfl fun j => ⟨?cmp, ones_lt ..⟩,
      fun _ => .of_patterns h rfl rfl rfl rfl fun j => ⟨rfl, ?sel⟩,
      fun _ => ⟨.of_patterns h rfl rfl rfl rfl fun j => ⟨popCount_eq .., hcount ?cnt⟩,
        .of_patterns h rfl rfl rfl rfl fun j => ⟨?lzc, hcount ?zeros⟩⟩⟩
    case cmp => exact congrArg (laneMask f.ty) (condHolds_compare _ _ hcond)
    case sel => exact laneCanon_lt (ite_lt (ha j) (laneNat_lt ..))
    case cnt => exact (List.length_filter_le ..).trans List.length_range.le
    case lzc => rw [leadingZeros, Nat.mod_eq_of_lt (ha j)]
    case zeros => split <;> omega

end Machine
end Sys2Proof
end

section
/-! Encoded floats: codes fit their formats, and the special values of the functions of one operand (02 R42, R43, R52 to
R54; 07 R199). -/
namespace Sys2Proof

/-! ### Codes fit their formats -/

theorem Fmt.omega_lt (fm : Fmt) : fm.omega < 2 ^ (fm.width - 1) := by cases fm <;> decide

theorem tapFloor_le (fm : Fmt) (m : Nat) (e : Int) (c : Nat) : tapFloor fm m e c ≤ c := by
  induction c with
  | zero => exact Nat.le_refl 0
  | succ c ih =>
    unfold tapFloor
    split
    · exact Nat.le_succ_of_le ih
    · exact Nat.le_refl _

theorem ite_le {c : Prop} [Decidable c] {a b n : Nat} (ha : a ≤ n) (hb : b ≤ n) : (if c then a else b) ≤ n := by
  split
  · exact ha
  · exact hb

/-- A magnitude is rounded down to a code that is at most that of Ω. -/
theorem Fmt.floor_code_le (fm : Fmt) (m : Nat) (e : Int) : (fm.floor m e).code ≤ fm.omega := by
  have hcap (c : Nat) : (if c ≥ fm.omega then fm.omega else c) ≤ fm.omega := by split <;> omega
  simp only [Fmt.floor, apply_ite Floor.code, ite_self]
  exact ite_le (Nat.zero_le _) (ite_le (tapFloor_le ..) (hcap _))

/-- A magnitude rounds to a code that is at most that of Ω. -/
theorem Fmt.roundMag_le (fm : Fmt) (rm : Rm) (neg : Bool) (m : Nat) (e : Int) : fm.roundMag rm neg m e ≤ fm.omega := by
  have hle := fm.floor_code_le m e
  unfold Fmt.roundMag
  by_cases hcode : (fm.floor m e).code = fm.omega
  · rw [if_pos hcode]
    exact ite_le (Nat.le_refl _) (Nat.sub_le ..)
  · have hnext : (fm.floor m e).code + 1 ≤ fm.omega := Nat.lt_of_le_of_ne hle hcode
    rw [if_neg hcode]
    refine ite_le hle ?_
    cases rm with
    | rtz => exact hle
    | rne => exact ite_le hnext hle
    | rmm => exact ite_le hle hnext
    | rup => exact ite_le hle hnext
    | rdn => exact ite_le hnext hle

/-- A magnitude code with a sign fits. -/
theorem Fmt.add_signBit_lt (fm : Fmt) {c : Nat} (neg : Bool) (hc : c ≤ fm.omega) : c + fm.signBit neg < 2 ^ fm.width := by
  have hpow := Nat.two_pow_pred_mul_two fm.width_pos
  have homega := fm.omega_lt
  unfold Fmt.signBit
  split <;> omega

/-- So does the code of an infinity. -/
theorem Fmt.infCode_lt (fm : Fmt) (neg : Bool) : fm.infCode neg < 2 ^ fm.width := by
  cases fm <;> cases neg <;> decide

/-- An encoded value fits. -/
theorem Fmt.enc_lt (fm : Fmt) (v : Val) (rm : Rm) (sat : Bool) : fm.enc v rm sat < 2 ^ fm.width := by
  cases v with
  | nan => exact fm.nan_lt
  | inf neg => exact fm.infCode_lt neg
  | fin neg m e =>
    unfold Fmt.enc
    dsimp only
    split
    · split
      · exact fm.add_signBit_lt neg (Nat.sub_le ..)
      · exact fm.infCode_lt neg
    · unfold Fmt.signed
      split
      · exact Nat.two_pow_pos _
      · exact fm.add_signBit_lt neg (fm.roundMag_le ..)

/-- An encoded value that is flushed to a zero where it is subnormal fits. -/
theorem Fmt.encFtz_lt (fm : Fmt) (v : Val) (rm : Rm) (ftz sat : Bool) : fm.encFtz v rm ftz sat < 2 ^ fm.width := by
  have h := fm.enc_lt v rm sat
  unfold Fmt.encFtz
  dsimp only
  split
  · exact Nat.lt_of_le_of_lt (Nat.sub_le ..) h
  · exact h

/-- Of two numbers the extreme fits. -/
theorem floatExtreme_lt (fm : Fmt) (ftz mx : Bool) (x y : Nat) : floatExtreme fm ftz mx x y < 2 ^ fm.width := by
  unfold floatExtreme
  dsimp only
  split
  · split
    · exact Machine.ite_lt fm.nan_lt (fm.enc_lt ..)
    · exact fm.enc_lt ..
  · exact fm.enc_lt ..
  · exact fm.enc_lt ..
  · exact fm.enc_lt ..

/-! ### Special values -/

/-- A magnitude that a code below that of Ω has exactly rounds to it. -/
theorem Fmt.roundMag_exact {fm : Fmt} {m c : Nat} {e : Int} (rm : Rm) (neg : Bool) (h : fm.floor m e = ⟨c, true, .lt⟩)
    (hc : c ≠ fm.omega) : fm.roundMag rm neg m e = c := by
  unfold Fmt.roundMag
  rw [h]
  exact (if_neg hc).trans (if_pos rfl)

/-- The magnitude of a zero is code 0. -/
theorem Fmt.roundMag_zero (fm : Fmt) (rm : Rm) (neg : Bool) (e : Int) : fm.roundMag rm neg 0 e = 0 :=
  Fmt.roundMag_exact rm neg (by simp [Fmt.floor]) (by cases fm <;> decide)

/-- That of one has the exponent of the bias and no fraction. -/
theorem Fmt.roundMag_one {fm : Fmt} (rm : Rm) (hf : fm.tapered = false) :
    fm.roundMag rm false 1 0 = fm.bias * 2 ^ fm.fbits := by
  refine Fmt.roundMag_exact rm false ?_ (by cases fm <;> decide)
  cases fm
  case t8 | t6 => cases hf
  all_goals decide

section
variable (fm : Fmt) (rm : Rm) (ftz sat : Bool)

/-- A value that does not encode as a subnormal is not flushed. -/
theorem Fmt.encFtz_eq_enc {v : Val} {c : Nat} (hc : fm.enc v rm sat = c)
    (h : c % 2 ^ (fm.width - 1) = 0 ∨ 2 ^ fm.fbits ≤ c % 2 ^ (fm.width - 1)) : fm.encFtz v rm ftz sat = c := by
  subst hc
  unfold Fmt.encFtz
  exact if_neg fun ⟨_, hne, hlt⟩ => h.elim hne (Nat.not_le.mpr hlt)

/-- The NaN is written as the canonical one. -/
theorem Fmt.encFtz_nan : fm.encFtz .nan rm ftz sat = fm.nan :=
  fm.encFtz_eq_enc rm ftz sat rfl (by cases fm <;> decide)

/-- An infinity is written by the INF rule. -/
theorem Fmt.encFtz_inf (neg : Bool) : fm.encFtz (.inf neg) rm ftz sat = fm.infCode neg :=
  fm.encFtz_eq_enc rm ftz sat rfl (by cases fm <;> cases neg <;> decide)

/-- A zero keeps its sign. -/
theorem Fmt.encFtz_zero (neg : Bool) (e : Int) (hf : fm.tapered = false) :
    fm.encFtz (.fin neg 0 e) rm ftz sat = fm.signBit neg := by
  have homega : 0 ≠ fm.omega := by cases fm <;> decide
  refine fm.encFtz_eq_enc rm ftz sat ?_ (by cases fm <;> cases neg <;> decide)
  simp [Fmt.enc, Fmt.roundMag_zero, homega, Fmt.signed, hf]

/-- One is written exactly. -/
theorem Fmt.encFtz_one (hf : fm.tapered = false) : fm.encFtz (.fin false 1 0) rm ftz sat = fm.bias * 2 ^ fm.fbits := by
  have homega : fm.bias * 2 ^ fm.fbits ≠ fm.omega := by cases fm <;> decide
  refine fm.encFtz_eq_enc rm ftz sat ?_ (by cases fm <;> decide)
  simp [Fmt.enc, Fmt.roundMag_one rm hf, homega, Fmt.signed, hf, Fmt.signBit]

end

end Sys2Proof
end

section
/-! The float ops of an APE (07 R197 to R200). -/
namespace Sys2Proof

/-- The formats of the float types are not tapered. -/
theorem typeFmt_tapered (ty : Nat) : (typeFmt ty).tapered = false := by
  unfold typeFmt
  split <;> rfl

/-- A field of MOD is as wide as it says. -/
theorem OpF.modBits_lt (f : OpF) (hi lo : Nat) : f.modBits hi lo < 2 ^ (hi + 1 - lo) := Nat.mod_lt _ (Nat.two_pow_pos _)

/-! ### Comparison -/

/-- Two values are unordered where one of them is NaN. -/
theorem Val.cmp_eq_none_iff (a b : Val) : a.cmp b = none ↔ a.isNan = true ∨ b.isNan = true := by
  cases a <;> cases b <;> simp [Val.cmp, Val.isNan]

/-- The extreme of two numbers, and of a number and a NaN the number (07 R198). -/
theorem floatExtreme_eq (fm : Fmt) (ftz mx : Bool) (x y : Nat) :
    let a := fm.decFtz x ftz
    let b := fm.decFtz y ftz
    let o := a.cmp b
    let first := if mx then o == some .gt || (o == some .eq && !a.neg?) else o == some .lt || (o == some .eq && a.neg?)
    floatExtreme fm ftz mx x y
      = if a.isNan && b.isNan then fm.nan else if a.isNan then fm.enc b .rne
        else if b.isNan then fm.enc a .rne else if first then fm.enc a .rne else fm.enc b .rne := by
  intro a b o first
  have hnone := Val.cmp_eq_none_iff a b
  simp only [floatExtreme, first, o]
  cases ho : a.cmp b with
  | none =>
    have hnan := hnone.mp ho
    cases ha : a.isNan <;> cases hb : b.isNan <;> simp_all [a, b]
  | some o =>
    obtain ⟨ha, hb⟩ : a.isNan = false ∧ b.isNan = false := by simpa [ho] using hnone
    cases o <;> cases mx <;> cases a.neg? <;> simp_all [a, b]

/-- The conditions of `fcmp` by their codes (07 R198). -/
theorem condHolds_float (o : Option Ordering) {c : Nat} (hc : c < 8) :
    condHolds c o
      = [o == some .eq, o != some .eq, o == some .lt, o == some .lt || o == some .eq, o == some .gt,
         o == some .gt || o == some .eq, o == none, o != none].getD c false := by
  interval_cases c <;> rcases o with _ | _ | _ | _ <;> rfl

/-! ### Conversion -/

/-- A value that a signed integer of fewer bits holds is not saturated. -/
theorem satS_sx {m n : Nat} (v : Nat) (hm : 0 < m) (hmn : m ≤ n) : satS (sx v m) n = sx v m := by
  obtain ⟨hlow, hhigh⟩ := sx_mem v hm
  have hpow : 2 ^ (m - 1) ≤ 2 ^ (n - 1) := Nat.pow_le_pow_right (by decide) (Nat.sub_le_sub_right hmn 1)
  unfold satS
  rw [if_neg (by omega), if_neg (by omega)]

/-- The types that `fcvt` converts from have lanes of 32 or 64 bits. -/
theorem typeWidth_fcvtSrc_pos (n : Nat) : 0 < typeWidth (fcvtSrc n) := by
  unfold fcvtSrc
  split
  · decide
  · split
    · decide
    · split <;> decide

/-- An integer saturates in `fcvt` only on its way to fewer bits (07 R200). -/
theorem cvtLane_eq (f : OpF) (src p : Nat) (hsrc : 0 < typeWidth src) :
    let rm := Rm.of2 f.rmode
    let w := typeWidth f.ty
    let ws := typeWidth src
    let real := if typeFloat src then (typeFmt src).decFtz p f.ftz else Val.ofInt (sx p ws)
    cvtLane f src p
      = if typeFloat f.ty then (typeFmt f.ty).encFtz real rm f.ftz f.sat
        else if typeFloat src then lowBits (real.toInt rm true w) w
        else lowBits (if f.sat && w < ws then satS (sx p ws) w else sx p ws) w := by
  intro rm w ws real
  have hsat : (if f.sat then satS (sx p ws) w else sx p ws) = if f.sat && w < ws then satS (sx p ws) w else sx p ws := by
    by_cases hw : w < ws
    · simp [hw]
    · have hfits : satS (sx p ws) w = sx p ws := satS_sx p hsrc (Nat.le_of_not_lt hw)
      simp [hw, hfits]
  by_cases hty : typeFloat f.ty = true
  · simp only [cvtLane, hty, if_true]
    rfl
  · by_cases hfl : typeFloat src = true
    · simp only [cvtLane, hty, hfl, if_true, if_false, Bool.false_eq_true, real]
      rfl
    · simp only [cvtLane, hty, hfl, if_false, Bool.false_eq_true, ← hsat]
      rfl

/-- A converted lane fits. -/
theorem cvtLane_lt (f : OpF) (src p : Nat) : cvtLane f src p < 2 ^ typeWidth f.ty := by
  unfold cvtLane
  by_cases hty : typeFloat f.ty = true
  · simp only [hty, if_true, typeWidth_of_float hty]
    exact Fmt.encFtz_lt ..
  · simp only [hty, if_false, Bool.false_eq_true]
    exact Machine.ite_lt (lowBits_lt ..) (lowBits_lt ..)

/-- `fcvt` (07 R200): how the widths map its lanes. -/
theorem apeFcvt_eq {f : OpF} {a b : Nat} {cv : Nat → Nat → Nat}
    (hcv : ∀ x j, cvtLane f (fcvtSrc (f.modBits 1 0)) (laneNat (fcvtSrc (f.modBits 1 0)) x j) = cv x j) :
    apeFcvt f a b =
      if typeWidth f.ty = typeWidth (fcvtSrc (f.modBits 1 0)) then { r1 := mapLanes f.ty (cv a) }
      else if typeWidth f.ty = 64 then { r1 := mapLanes f.ty (cv a), r2 := mapLanes f.ty fun j => cv a (j + 8) }
      else { r1 := mapLanes f.ty fun j => if j < 8 then cv a j else cv b (j - 8) } := by
  obtain rfl := funext₂ hcv
  rfl

/-- `fcvt` has two results where it widens. -/
theorem opResults_fcvt (f : OpF) : decide (opResults .ape 0x23 f = 2) = fcvtWidens f := by
  cases h : fcvtWidens f <;> simp [opResults, h]

namespace Machine

/-- An op that forms floats lane by lane. -/
theorem ApeLanes.of_floats {i : Instr} {s : State} {f : OpF} {e : OpEnv} {opc l : Nat} {g : OpEnv → PeOut} (x : Nat → Val)
    {v : Nat → Nat} (hty : typeFloat f.ty = true) (h : Issues s f e) (hi : exec i s = resultOp .ape opc f s g)
    (hl : opLatency .ape opc f = l) (htwo : decide (opResults .ape opc f = 2) = false)
    (hg : g e = { r1 := mapLanes f.ty fun j => (typeFmt f.ty).encFtz (x j) (Rm.of2 f.rmode) f.ftz f.sat })
    (hv : ∀ j, (typeFmt f.ty).encFtz (x j) (Rm.of2 f.rmode) f.ftz f.sat = v j) : ApeLanes i s e opc l v :=
  .of_patterns h hi hl htwo hg fun j => ⟨hv j, hv j ▸ typeWidth_of_float hty ▸ Fmt.encFtz_lt ..⟩

/-- Settles O5: an op encodes the value of each lane once (`ApeLanes.of_floats`), and the special cases are the values that
the four functions give there, encoded (`Fmt.encFtz_nan`, `Fmt.encFtz_inf`, `Fmt.encFtz_zero`, `Fmt.encFtz_one`). -/
theorem apeFloats : Obligations.ApeFloats := by
  refine ⟨?arithmetic, ?compares, ?functions, ?conversion⟩
  case arithmetic =>
    intro f s e h hty fm rm d is
    exact ⟨.of_floats _ hty h rfl rfl rfl rfl fun _ => rfl, .of_floats _ hty h rfl rfl rfl rfl fun _ => rfl,
      .of_floats _ hty h rfl rfl rfl rfl fun _ => rfl, .of_floats _ hty h rfl rfl rfl rfl fun _ => rfl⟩
  case compares =>
    intro f s e h hty fm x y o put pick
    have hext (mx : Bool) (j : Nat) := floatExtreme_eq fm f.ftz mx (laneNat f.ty e.a j) (laneNat f.ty e.b j)
    have hfit (mx : Bool) (j : Nat) :
        floatExtreme fm f.ftz mx (laneNat f.ty e.a j) (laneNat f.ty e.b j) < 2 ^ typeWidth f.ty :=
      typeWidth_of_float hty ▸ floatExtreme_lt ..
    exact ⟨.of_patterns h rfl rfl rfl rfl fun j => ⟨hext false j, (hext false j).symm.trans_lt (hfit ..)⟩,
      .of_patterns h rfl rfl rfl rfl fun j => ⟨hext true j, (hext true j).symm.trans_lt (hfit ..)⟩,
      .of_patterns h rfl rfl rfl rfl fun j =>
        ⟨congrArg (laneMask f.ty) (condHolds_float _ (f.modBits_lt 2 0)), ones_lt ..⟩⟩
  case functions =>
    intro f s e h hty fm d other one
    have htap : fm.tapered = false := typeFmt_tapered f.ty
    refine ⟨.of_floats (fun j => (Val.fin false 1 0).div (d j)) hty h rfl rfl rfl rfl fun j => ?rcp,
      .of_floats (fun j => (d j).rsqrt) hty h rfl rfl rfl rfl fun j => ?rsq,
      .of_floats (fun j => (d j).exp2) hty h rfl rfl rfl rfl fun j => ?exp,
      .of_floats (fun j => (d j).log2) hty h rfl rfl rfl rfl fun j => ?log⟩
    case rcp =>
      rcases d j with _ | n | ⟨n, _ | m, k⟩
      · exact fm.encFtz_nan ..
      · cases n <;> exact fm.encFtz_zero _ _ _ _ 0 htap
      · cases n <;> exact fm.encFtz_inf ..
      · rfl
    case rsq =>
      rcases d j with _ | (_ | _) | ⟨n, _ | m, k⟩
      · exact fm.encFtz_nan ..
      · exact fm.encFtz_zero _ _ _ false 0 htap
      · exact fm.encFtz_nan ..
      · exact fm.encFtz_inf ..
      · cases n
        · rfl
        · exact fm.encFtz_nan ..
    case exp =>
      rcases d j with _ | (_ | _) | ⟨n, _ | m, k⟩
      · exact fm.encFtz_nan ..
      · exact fm.encFtz_inf ..
      · exact fm.encFtz_zero _ _ _ false 0 htap
      · exact fm.encFtz_one _ _ _ htap
      · rfl
    case log =>
      rcases d j with _ | (_ | _) | ⟨n, _ | m, k⟩
      · exact fm.encFtz_nan ..
      · exact fm.encFtz_inf ..
      · exact fm.encFtz_nan ..
      · exact fm.encFtz_inf ..
      · cases n
        · rfl
        · exact fm.encFtz_nan ..
  case conversion =>
    intro f s e h _ src rm w ws real cv
    have hsrc : 0 < ws := typeWidth_fcvtSrc_pos _
    have hcv (x j : Nat) : cvtLane f src (laneNat src x j) = cv x j := cvtLane_eq f src _ hsrc
    have hlt (x j : Nat) : cv x j < 2 ^ w := hcv x j ▸ cvtLane_lt ..
    have hout := apeFcvt_eq (a := e.a) (b := e.b) hcv
    have htwo (b : Bool) (hb : (w = 64 ∧ ws = 32) ↔ b = true) : decide (opResults .ape 0x23 f = 2) = b := by
      rw [opResults_fcvt, Bool.eq_iff_iff, ← hb]
      simp [fcvtWidens, w, ws, src]
    refine ⟨fun heq => ?same, fun hw hws => ?wider, fun hw hws => ?narrower⟩
    case same =>
      exact .of_patterns h rfl rfl (htwo false (by simp; omega)) (hout.trans (if_pos heq)) fun j => ⟨rfl, hlt ..⟩
    case wider =>
      have hne : w ≠ ws := by omega
      exact .of_patterns h rfl rfl (htwo true (by simp; omega)) (hout.trans ((if_neg hne).trans (if_pos hw)))
        fun j => ⟨hlt .., hlt ..⟩
    case narrower =>
      have hne : w ≠ ws := by omega
      have hw64 : w ≠ 64 := by omega
      exact .of_patterns h rfl rfl (htwo false (by simp; omega)) (hout.trans ((if_neg hne).trans (if_neg hw64)))
        fun j => ⟨rfl, ite_lt (hlt ..) (hlt ..)⟩

end Machine
end Sys2Proof
end

section
/-! The reductions of an APE, and its lane movement ops (07 R201, R202). -/
namespace Sys2Proof

/-! ### Extremes of integers -/

/-- The lanes of an integer type have a width. -/
theorem typeWidth_pos_of_tyInt {f : OpF} (h : f.tyInt = true) : 0 < typeWidth f.ty := by
  simp only [OpF.tyInt, Bool.and_eq_true, decide_eq_true_eq] at h
  obtain ⟨hlow, hhigh⟩ := h
  interval_cases f.ty <;> decide

theorem typeWidth_le (ty : Nat) : typeWidth ty ≤ 64 := by
  unfold typeWidth
  split
  · decide
  · split
    · decide
    · split
      · decide
      · split <;> decide

/-- Of two integers the one that `rmax`, or `rmin`, prefers. -/
def better (mx : Bool) (a b : Int) : Int := if mx then max a b else min a b

/-- One integer does not go beyond another, in the direction of `rmax` or of `rmin`. -/
def within (mx : Bool) (a v : Int) : Prop := if mx then a ≤ v else v ≤ a

theorem within_refl (mx : Bool) (a : Int) : within mx a a := by cases mx <;> exact Int.le_refl a

theorem within_trans {mx : Bool} {a b c : Int} (hab : within mx a b) (hbc : within mx b c) : within mx a c := by
  cases mx
  · exact Int.le_trans hbc hab
  · exact Int.le_trans hab hbc

theorem within_antisymm {mx : Bool} {a b : Int} (hab : within mx a b) (hba : within mx b a) : a = b := by
  cases mx
  · exact Int.le_antisymm hba hab
  · exact Int.le_antisymm hab hba

theorem within_better_left (mx : Bool) (a b : Int) : within mx a (better mx a b) := by
  cases mx
  · exact Int.min_le_left a b
  · exact Int.le_max_left a b

theorem within_better_right (mx : Bool) (a b : Int) : within mx b (better mx a b) := by
  cases mx
  · exact Int.min_le_right a b
  · exact Int.le_max_right a b

theorem better_eq_or (mx : Bool) (a b : Int) : better mx a b = a ∨ better mx a b = b := by
  cases mx
  · exact min_choice a b
  · exact max_choice a b

/-- What a fold over some of the integers of a list prefers: none goes beyond it, and it is one of them or the start. -/
theorem foldl_better (mx : Bool) (part : Nat → Bool) (x : Nat → Int) (l : List Nat) (t : Int) :
    let v := l.foldl (fun t i => if part i then better mx t (x i) else t) t
    within mx t v ∧ (∀ i ∈ l, part i = true → within mx (x i) v) ∧ (v = t ∨ ∃ i ∈ l, part i = true ∧ x i = v) := by
  induction l generalizing t with
  | nil => exact ⟨within_refl mx t, fun _ hi => (List.not_mem_nil hi).elim, .inl rfl⟩
  | cons n l ih =>
    rw [List.foldl_cons]
    by_cases hn : part n = true
    · rw [if_pos hn]
      obtain ⟨hstart, hall, hsome⟩ := ih (better mx t (x n))
      refine ⟨within_trans (within_better_left ..) hstart, fun i hi hp => ?_, ?_⟩
      · rcases List.mem_cons.mp hi with rfl | hi
        · exact within_trans (within_better_right ..) hstart
        · exact hall i hi hp
      · rcases hsome with hv | ⟨i, hi, hp, hx⟩
        · rcases better_eq_or mx t (x n) with ht | hx
          · exact .inl (hv.trans ht)
          · exact .inr ⟨n, List.mem_cons_self .., hn, (hv.trans hx).symm⟩
        · exact .inr ⟨i, List.mem_cons_of_mem n hi, hp, hx⟩
    · rw [if_neg hn]
      obtain ⟨hstart, hall, hsome⟩ := ih t
      refine ⟨hstart, fun i hi hp => ?_, hsome.imp_right fun ⟨i, hi, hp⟩ => ⟨i, List.mem_cons_of_mem n hi, hp⟩⟩
      rcases List.mem_cons.mp hi with rfl | hi
      · exact (hn hp).elim
      · exact hall i hi hp

/-- A fold from a start that goes beyond none of the integers finds one of them, unless it has none to choose from. -/
theorem foldl_better_mem (mx : Bool) (part : Nat → Bool) (x : Nat → Int) (n : Nat) (t : Int)
    (ht : ∀ i, within mx t (x i)) :
    let v := (List.range n).foldl (fun t i => if part i then better mx t (x i) else t) t
    (∀ i, i < n → part i = true → within mx (x i) v)
      ∧ ((∃ i, i < n ∧ part i = true ∧ x i = v) ∨ ((∀ i, i < n → part i = false) ∧ v = t)) := by
  intro v
  obtain ⟨-, hall, hsome⟩ := foldl_better mx part x (List.range n) t
  simp only [List.mem_range] at hall hsome
  refine ⟨hall, ?_⟩
  rcases hsome with hv | hfound
  · by_cases hpart : ∃ i, i < n ∧ part i = true
    · obtain ⟨i, hi, hp⟩ := hpart
      have hv : v = t := hv
      exact .inl ⟨i, hi, hp, within_antisymm (hall i hi hp) (hv ▸ ht i)⟩
    · exact .inr ⟨fun i hi => Bool.eq_false_iff.mpr fun hp => hpart ⟨i, hi, hp⟩, hv⟩
  · exact .inl hfound

/-- An integer below the range of a type saturates to its minimum. -/
theorem satI_of_le {sgn : Bool} {v : Int} {n : Nat} (hn : 0 < n) (h : v ≤ -(2 ^ n : Nat)) :
    satI sgn v n = if sgn then -((2 ^ (n - 1) : Nat) : Int) else 0 := by
  have hpow := Nat.two_pow_pred_mul_two hn
  have hpos := Nat.two_pow_pos (n - 1)
  cases sgn
  · change satN v n = 0
    rw [satN, if_pos (by omega)]
  · change satS v n = -((2 ^ (n - 1) : Nat) : Int)
    rw [satS, if_pos (by omega)]

/-- An integer above the range of a type saturates to its maximum. -/
theorem satI_of_ge {sgn : Bool} {v : Int} {n : Nat} (hn : 0 < n) (h : (2 ^ n : Nat) ≤ v) :
    satI sgn v n = if sgn then ((2 ^ (n - 1) : Nat) : Int) - 1 else ((2 ^ n : Nat) : Int) - 1 := by
  have hpow := Nat.two_pow_pred_mul_two hn
  have hpos := Nat.two_pow_pos (n - 1)
  cases sgn
  · change satN v n = ((2 ^ n : Nat) : Int) - 1
    rw [satN, if_neg (by omega), if_pos (by omega)]
  · change satS v n = ((2 ^ (n - 1) : Nat) : Int) - 1
    rw [satS, if_neg (by omega), if_pos (by omega)]

/-- The end of the range of a type from which a reduction starts: the minimum for `rmax`, the maximum for `rmin`. -/
def farEnd (mx : Bool) (ty : Nat) : Int :=
  satT ty (if mx then -((2 ^ typeWidth ty : Nat) : Int) else ((2 ^ typeWidth ty : Nat) : Int))

/-- It is what any number far enough out saturates to. -/
theorem farEnd_eq {mx : Bool} {ty : Nat} (hw : 0 < typeWidth ty) :
    farEnd mx ty = satT ty (if mx then -(2 ^ 64 : Int) else 2 ^ 64) := by
  have hpow : ((2 ^ typeWidth ty : Nat) : Int) ≤ 2 ^ 64 := by
    exact_mod_cast Nat.pow_le_pow_right (by decide) (typeWidth_le ty)
  cases mx
  · exact (satI_of_ge hw (Int.le_refl _)).trans (satI_of_ge hw hpow).symm
  · exact (satI_of_le hw (Int.le_refl _)).trans (satI_of_le hw (Int.neg_le_neg hpow)).symm

/-- It goes beyond no lane. -/
theorem within_farEnd {mx : Bool} {ty : Nat} (hw : 0 < typeWidth ty) (a i : Nat) :
    within mx (farEnd mx ty) (laneInt ty a i) := by
  obtain ⟨hlow, hhigh⟩ := sx_mem (laneNat ty a i) hw
  have hlt := laneNat_lt ty a i
  have hread : laneInt ty a i = if typeSigned ty then sx (laneNat ty a i) (typeWidth ty) else laneNat ty a i :=
    readInt_of_lt _ hlt
  cases mx
  · have hend : farEnd false ty = _ := satI_of_ge hw (Int.le_refl _)
    rw [within, hread, hend]
    cases typeSigned ty
    · simp only [Bool.false_eq_true, if_false]
      omega
    · simp only [Bool.false_eq_true, if_false, if_true]
      omega
  · have hend : farEnd true ty = _ := satI_of_le hw (Int.le_refl _)
    rw [within, hread, hend]
    cases typeSigned ty
    · simp only [Bool.false_eq_true, if_false, if_true]
      omega
    · simp only [if_true]
      exact hlow

/-- `rmax` and `rmin` of integers (07 R201). -/
theorem apeRext_int {f : OpF} (mx : Bool) (a b : Nat) (hty : f.tyInt = true) :
    apeRext f mx a b
      = { r1 := lowBits ((List.range (laneCount f.ty)).foldl
            (fun t i => if takesPart f b i then better mx t (laneInt f.ty a i) else t) (farEnd mx f.ty))
            (typeWidth f.ty) } := by
  rw [apeRext, typeFloat_of_tyInt hty]
  rfl

/-- `rsum` of integers (07 R201). -/
theorem apeRsum_int {f : OpF} (a b : Nat) (hty : f.tyInt = true) :
    apeRsum f a b =
      let sum := ((List.range (laneCount f.ty)).map fun i => if takesPart f b i then laneInt f.ty a i else 0).sum
      { r1 := lowBits (if f.sat then satT f.ty sum else sum) (typeWidth f.ty) } := by
  have hstep (t : Int) (i : Nat) : (if takesPart f b i then t + laneInt f.ty a i else t)
      = t + if takesPart f b i then laneInt f.ty a i else 0 := by
    split
    · rfl
    · exact (Int.add_zero t).symm
  have hsum := foldl_eq_add_sum (List.range (laneCount f.ty)) 0 fun t i _ => hstep t i
  rw [Int.zero_add] at hsum
  rw [apeRsum, typeFloat_of_tyInt hty, ← hsum]
  rfl

/-! ### The tree of floats -/

section
variable {α : Type} {P : α → Prop} {g : α → α → α}

theorem pairUp_forall (hg : ∀ a b, P (g a b)) : ∀ xs : List α, (∀ x ∈ xs, P x) → ∀ x ∈ pairUp g xs, P x
  | [], h => h
  | [_], h => h
  | a :: b :: rest, h => by
    intro x hx
    rcases List.mem_cons.mp hx with rfl | hx
    · exact hg a b
    · exact pairUp_forall hg rest (fun y hy => h y (List.mem_cons_of_mem a (List.mem_cons_of_mem b hy))) x hx

/-- What holds of the leaves of a tree and of each of its nodes holds of what it comes to. -/
theorem treeFold_forall (hg : ∀ a b, P (g a b)) (n : Nat) {xs : List α} (h : ∀ x ∈ xs, P x) :
    ∀ x ∈ treeFold g n xs, P x := by
  induction n generalizing xs with
  | zero => exact h
  | succ n ih => exact ih (pairUp_forall hg xs h)

end

/-- The tree over lanes of w bits comes to a pattern of w bits. -/
theorem treeFold_head_lt {g : Nat → Nat → Nat} {leaf : Nat → Nat} {w : Nat} (levels n : Nat) (hg : ∀ a b, g a b < 2 ^ w)
    (hleaf : ∀ i, leaf i < 2 ^ w) : (treeFold g levels ((List.range n).map leaf)).headD 0 < 2 ^ w := by
  have hall := treeFold_forall (P := (· < 2 ^ w)) hg levels (xs := (List.range n).map leaf) (by simpa using fun i _ => hleaf i)
  cases hx : treeFold g levels ((List.range n).map leaf) with
  | nil => exact Nat.two_pow_pos w
  | cons x xs => exact hall x (hx ▸ List.mem_cons_self ..)

theorem nth_zero {α : Type} (xs : List α) (d : α) : nth xs 0 d = xs.headD d := by cases xs <;> rfl

/-- `rsum` of floats (07 R201). -/
theorem apeRsum_float {f : OpF} (a b : Nat) (hty : typeFloat f.ty = true) :
    let fm := typeFmt f.ty
    let rm := Rm.of2 f.rmode
    apeRsum f a b
      = { r1 := (treeFold (fun x y => fm.encFtz ((fm.decFtz x f.ftz).add (fm.decFtz y f.ftz) rm) rm f.ftz f.sat)
            (laneCount f.ty).log2
            ((List.range (laneCount f.ty)).map fun i => if takesPart f b i then laneNat f.ty a i else 0)).headD 0 } := by
  intro fm rm
  rw [apeRsum, hty, ← nth_zero]
  rfl

/-- `rmax` and `rmin` of floats (07 R201). -/
theorem apeRext_float {f : OpF} (mx : Bool) (a b : Nat) (hty : typeFloat f.ty = true) :
    let fm := typeFmt f.ty
    apeRext f mx a b
      = { r1 := (treeFold (floatExtreme fm f.ftz mx) (laneCount f.ty).log2
            ((List.range (laneCount f.ty)).map fun i =>
              if takesPart f b i then laneNat f.ty a i else fm.infCode mx)).headD 0 } := by
  intro fm
  rw [apeRext, hty, ← nth_zero]
  rfl

namespace Machine

/-- An op that forms one lane. -/
theorem ApeLanes.of_first {i : Instr} {s : State} {f : OpF} {e : OpEnv} {opc l v : Nat} {g : OpEnv → PeOut}
    (h : Issues s f e) (hi : exec i s = resultOp .ape opc f s g) (hl : opLatency .ape opc f = l)
    (htwo : decide (opResults .ape opc f = 2) = false) (hg : g e = { r1 := v }) (hv : v < 2 ^ typeWidth f.ty) :
    ApeLanes i s e opc l fun j => if j = 0 then v else 0 := by
  have hwide : v < 2 ^ 512 :=
    Nat.lt_of_lt_of_le hv (Nat.pow_le_pow_right (by decide) ((typeWidth_le f.ty).trans (by decide)))
  refine ⟨_, result_lands false h (by decide) hi hl htwo hg, fun j _ => ?_⟩
  rw [opEnv_f h.1, BitVec.toNat_ofNat, Nat.mod_eq_of_lt hwide, laneNat]
  dsimp only
  split
  · next hj => rw [hj, Nat.mul_zero, Nat.pow_zero, Nat.div_one, Nat.mod_eq_of_lt hv]
  · next hj =>
    have hle : typeWidth f.ty ≤ typeWidth f.ty * j := Nat.le_mul_of_pos_right _ (Nat.pos_of_ne_zero hj)
    rw [Nat.div_eq_of_lt (Nat.lt_of_lt_of_le hv (Nat.pow_le_pow_right (by decide) hle)), Nat.zero_mod]

/-- Settles O6: a reduction forms lane 0 (`ApeLanes.of_first`), a sum by `apeRsum_int`, an extreme by `foldl_better_mem`
from the far end of the range, and a float by a tree whose nodes fit (`treeFold_head_lt`); a movement op forms each lane
from lanes of its operands. -/
theorem apeLaneMovement : Obligations.ApeLaneMovement := by
  refine ⟨?reductions, ?movement⟩
  case reductions =>
    intro f s e h n x p part fm rm first tree extreme
    refine ⟨fun hty => ?ints, fun hty => ?floats⟩
    case ints =>
      have hw := typeWidth_pos_of_tyInt hty
      let v (mx : Bool) : Int :=
        (List.range n).foldl (fun t i => if part i then better mx t (x i) else t) (farEnd mx f.ty)
      have hv (mx : Bool) : extreme mx (v mx) := by
        obtain ⟨hall, hsome⟩ := foldl_better_mem mx part x n (farEnd mx f.ty) (within_farEnd hw e.a)
        exact ⟨hall, hsome.imp_right fun ⟨hnone, hend⟩ => ⟨hnone, hend.trans (farEnd_eq hw)⟩⟩
      exact ⟨.of_first h rfl rfl rfl (apeRsum_int e.a e.b hty) (lowBits_lt ..),
        ⟨v true, hv true, .of_first h rfl rfl rfl (apeRext_int true e.a e.b hty) (lowBits_lt ..)⟩,
        ⟨v false, hv false, .of_first h rfl rfl rfl (apeRext_int false e.a e.b hty) (lowBits_lt ..)⟩⟩
    case floats =>
      have hw := typeWidth_of_float hty
      have htree {g : Nat → Nat → Nat} {off : Nat} (hg : ∀ a b, g a b < 2 ^ fm.width) (hoff : off < 2 ^ fm.width) :
          tree g off < 2 ^ typeWidth f.ty :=
        treeFold_head_lt _ _ (fun a b => hw ▸ hg a b) fun i => ite_lt (laneNat_lt ..) (hw ▸ hoff)
      exact ⟨.of_first h rfl rfl rfl (apeRsum_float e.a e.b hty) (htree (fun a b => fm.encFtz_lt ..) (Nat.two_pow_pos _)),
        .of_first h rfl rfl rfl (apeRext_float true e.a e.b hty) (htree (floatExtreme_lt fm f.ftz _) (fm.infCode_lt _)),
        .of_first h rfl rfl rfl (apeRext_float false e.a e.b hty) (htree (floatExtreme_lt fm f.ftz _) (fm.infCode_lt _))⟩
  case movement =>
    intro f s e h _ n a b ab
    have ha (j : Nat) : a j < 2 ^ typeWidth f.ty := laneNat_lt ..
    have hb (j : Nat) : b j < 2 ^ typeWidth f.ty := laneNat_lt ..
    have h0 : 0 < 2 ^ typeWidth f.ty := Nat.two_pow_pos _
    have hzip : apeZip f.ty e.a e.b
        = { r1 := mapLanes f.ty fun j => if j % 2 = 0 then a (j / 2) else b (j / 2),
            r2 := mapLanes f.ty fun j => if j % 2 = 0 then a (n / 2 + j / 2) else b (n / 2 + j / 2) } := by
      simp only [apeZip, Nat.zero_add]
      rfl
    exact ⟨.of_patterns h rfl rfl rfl rfl fun j => ⟨rfl, ite_lt (ha _) h0⟩,
      .of_patterns h rfl rfl rfl rfl fun j => ⟨rfl, ite_lt (ha _) h0⟩,
      .of_patterns h rfl rfl rfl rfl fun j => ⟨rfl, ha _⟩,
      .of_patterns h rfl rfl rfl rfl fun j => ⟨rfl, ite_lt (ha _) (ite_lt (hb _) h0)⟩,
      .of_patterns h rfl rfl rfl hzip fun j => ⟨ite_lt (ha _) (hb _), ite_lt (ha _) (hb _)⟩,
      .of_patterns h rfl rfl rfl rfl fun j => ⟨ite_lt (ha _) (hb _), ite_lt (ha _) (hb _)⟩⟩

end Machine
end Sys2Proof
end

section
/-! Ternary digits on an APE, saturation, clamping, masks and tables (07 R203 to R208). -/
namespace Sys2Proof

/-- A lane of a joined list that fits a register. -/
theorem lane_ofNat_joinLanes {w : Nat} {xs : List Nat} (i : Nat) (h : w * xs.length ≤ 512) :
    lane w (BitVec.ofNat 512 (joinLanes w xs)) i = BitVec.ofNat w (xs.getD i 0) := by
  refine BitVec.eq_of_toNat_eq ?_
  rw [lane_toNat, BitVec.toNat_ofNat, Nat.mod_eq_of_lt (joinLanes_lt_of_le h), joinLanes_lane, BitVec.toNat_ofNat]

/-- An element of a list joined from pieces of one length. -/
theorem getD_flatMap {α : Type} {g : α → List Nat} {n : Nat} (hg : ∀ x, (g x).length = n) (l : List α) (j : Nat) {k : Nat}
    (hk : k < n) : (l.flatMap g).getD (n * j + k) 0 = (l[j]?.map fun x => (g x).getD k 0).getD 0 := by
  induction l generalizing j with
  | nil => simp
  | cons x l ih =>
    rw [List.flatMap_cons]
    cases j with
    | zero => rw [List.getD_append _ _ _ _ (by rw [hg]; omega)]; simp
    | succ j =>
      rw [List.getD_append_right _ _ _ _ (by rw [hg, Nat.mul_succ]; omega), hg]
      have hsub : n * (j + 1) + k - n = n * j + k := by rw [Nat.mul_succ]; omega
      rw [hsub, ih, List.getElem?_cons_succ]

/-! ### Unpacking -/

/-- A code of five digits as bytes, five zeros where it is bad (07 R203). -/
def unpackCode (x : Nat) : List Nat := if x ≥ 243 then [0, 0, 0, 0, 0] else ternaryBytes x

@[simp] theorem unpackCode_length (x : Nat) : (unpackCode x).length = 5 := by
  unfold unpackCode
  split
  · rfl
  · simp [ternaryBytes]

/-- A digit that a code stands for. -/
theorem unpackCode_digit {x k : Nat} (hx : x < 243) (hk : k < 5) :
    BitVec.ofNat 8 ((unpackCode x).getD k 0) = BitVec.ofInt 8 ((x / 3 ^ k % 3 : Nat) - 1) := by
  have hdigit : (unpackCode x).getD k 0 = (x / 3 ^ k % 3 + 255) % 256 := by
    simp [unpackCode, ternaryBytes, Nat.not_le.mpr hx, hk]
  have hlt : x / 3 ^ k % 3 < 3 := Nat.mod_lt _ (by decide)
  rw [hdigit]
  interval_cases x / 3 ^ k % 3 <;> rfl

/-- A bad code stands for zeros. -/
theorem unpackCode_bad {x k : Nat} (hx : 243 ≤ x) (hk : k < 5) : (unpackCode x).getD k 0 = 0 := by
  rw [unpackCode, if_pos hx]
  interval_cases k <;> rfl

/-- Byte k of an operand. -/
def byteOf (a k : Nat) : Nat := a / 2 ^ (8 * k) % 256

/-- The twelve codes of group g of an operand. -/
def groupCodes (a g : Nat) : List Nat := (List.range 12).map fun j => byteOf a (12 * g + j)

/-- What `tunp` makes of them. -/
def unpackGroup (a g : Nat) : List Nat := (groupCodes a g).flatMap unpackCode

theorem unpackGroup_length (a g : Nat) : (unpackGroup a g).length = 60 := by
  simp [unpackGroup, groupCodes, List.length_flatMap, Function.comp_def]

/-- Five bytes stand for each code. -/
theorem unpackGroup_getD (a g : Nat) {j k : Nat} (hj : j < 12) (hk : k < 5) :
    (unpackGroup a g).getD (5 * j + k) 0 = (unpackCode (byteOf a (12 * g + j))).getD k 0 := by
  rw [unpackGroup, getD_flatMap unpackCode_length _ _ hk]
  simp [groupCodes, hj]

/-- `tunp` of a group of the operand (07 R203). -/
theorem apeTunp_group {a b : Nat} (h : b % 2 ^ 64 ≤ 4) :
    apeTunp a b = ({ r1 := joinLanes 8 (unpackGroup a (b % 2 ^ 64)) }, (groupCodes a (b % 2 ^ 64)).any fun x => x ≥ 243) :=
  if_neg (by omega)

/-- `tunp` of a group beyond the operand. -/
theorem apeTunp_beyond {a b : Nat} (h : 5 ≤ b % 2 ^ 64) : apeTunp a b = ({}, false) := if_pos h

/-- Some code of a group is bad. -/
theorem groupCodes_any (a g : Nat) :
    ((groupCodes a g).any fun x => decide (x ≥ 243)) = true ↔ ∃ j, j < 12 ∧ 243 ≤ byteOf a (12 * g + j) := by
  simp [groupCodes]

/-! ### Accumulation -/

/-- The product of a digit of an operand and a lane (07 R204). -/
def ternaryTerm (ty a b k : Nat) : Int :=
  if byteOf a k = 1 then laneInt ty b k else if byteOf a k = 255 then -laneInt ty b k else 0

/-- The sum that `tacc` forms in lane k. -/
def ternarySum (ty a b c k : Nat) : Int :=
  sx (c / 2 ^ (32 * k)) 32
    + (ternaryTerm ty a b (4 * k) + ternaryTerm ty a b (4 * k + 1) + ternaryTerm ty a b (4 * k + 2)
      + ternaryTerm ty a b (4 * k + 3))

/-- `tacc` (07 R204). -/
theorem apeTacc_eq (f : OpF) (a b c : Nat) :
    apeTacc f a b c
      = ({ r1 := joinLanes 32 ((List.range 16).map fun k => lowBits (satIf f.sat (ternarySum f.ty a b c k) 32) 32) },
         (List.range 64).any fun k => byteOf a k ≠ 0 && byteOf a k ≠ 1 && byteOf a k ≠ 255) := by
  simp only [ternarySum, ← Int.add_assoc]
  rfl

/-- Some byte of the operand is no digit. -/
theorem badDigit_any (a : Nat) :
    ((List.range 64).any fun k => byteOf a k ≠ 0 && byteOf a k ≠ 1 && byteOf a k ≠ 255) = true
      ↔ ∃ k, k < 64 ∧ byteOf a k ≠ 0 ∧ byteOf a k ≠ 1 ∧ byteOf a k ≠ 255 := by
  simp [and_assoc]

/-- `clamp` of floats (07 R207). -/
theorem apeClamp_float {f : OpF} (a b c : Nat) (hty : typeFloat f.ty = true) :
    let fm := typeFmt f.ty
    apeClamp f a b c
      = { r1 := mapLanes f.ty fun j =>
            if (fm.dec (laneNat f.ty a j)).isNan then fm.nan
            else floatExtreme fm f.ftz false (floatExtreme fm f.ftz true (laneNat f.ty a j) (laneNat f.ty b j))
              (laneNat f.ty c j) } := by
  intro fm
  rw [apeClamp, hty]
  rfl

/-- `clamp` of integers (07 R207). -/
theorem apeClamp_int {f : OpF} (a b c : Nat) (hty : f.tyInt = true) :
    apeClamp f a b c
      = { r1 := mapInts f.ty fun j => min (max (laneInt f.ty a j) (laneInt f.ty b j)) (laneInt f.ty c j) } := by
  rw [apeClamp, typeFloat_of_tyInt hty]
  rfl

namespace Machine

/-- An op that notes a bad ternary code with its result (07 R205). -/
theorem apeTernary_lands {i : Instr} {s : State} {f : OpF} {e : OpEnv} {opc l r : Nat} {bad : Bool}
    {g : OpEnv → PeOut × Bool} (h : Issues s f e)
    (hi : exec i s = resultOp .ape opc f s (fun e => (g e).1) fun e => badCode e (g e).2)
    (hl : opLatency .ape opc f = l) (htwo : decide (opResults .ape opc f = 2) = false) (hg : g e = ({ r1 := r }, bad)) :
    exec i s = .next (lands s e .ape opc l false (BitVec.ofNat 512 r) 0 (badCode e bad)) := by
  rw [hi, resultOp_lands _ _ h (by decide), hl, htwo, hg]
  rfl

/-- Settles O7: a ternary op lands what it forms and notes a bad code with it (`apeTernary_lands`), its bytes being read
code by code (`unpackGroup_getD`); the others form each lane by itself. -/
theorem apeTernaryTables : Obligations.ApeTernaryTables := by
  refine ⟨?ternary, ?tables⟩
  case ternary =>
    intro f s e h g byte note bad1 bad2 term
    refine ⟨fun _ => ?unpack, fun _ => ?accumulate⟩
    case unpack =>
      by_cases hg : g ≤ 4
      · have hlane (i : Nat) : lane 8 (BitVec.ofNat 512 (joinLanes 8 (unpackGroup e.a g))) i
            = BitVec.ofNat 8 ((unpackGroup e.a g).getD i 0) :=
          lane_ofNat_joinLanes i (by rw [unpackGroup_length]; decide)
        refine ⟨_, _, apeTernary_lands h rfl rfl rfl (apeTunp_group hg), ?_, fun hbeyond => (by omega), fun j hj _ => ?_,
          fun j k _ hj hk => ?_⟩
        · rw [groupCodes_any]
          exact (and_iff_right hg).symm
        · rw [hlane, List.getD_eq_default _ _ (by rwa [unpackGroup_length])]
        · rw [hlane, unpackGroup_getD e.a g hj hk]
          split
          · next hgood => exact unpackCode_digit hgood hk
          · next hbad => exact congrArg (BitVec.ofNat 8) (unpackCode_bad (Nat.le_of_not_lt hbad) hk)
      · have hbeyond : 5 ≤ g := by omega
        refine ⟨_, _, apeTernary_lands h rfl rfl rfl (apeTunp_beyond hbeyond), ?_, fun _ => rfl, fun j _ _ => ?_,
          fun j k hle => (hg hle).elim⟩
        · exact ⟨fun hbad => (by cases hbad), fun hbad => (hg hbad.1).elim⟩
        · simp [lane]
    case accumulate =>
      refine ⟨_, _, apeTernary_lands h rfl rfl rfl (apeTacc_eq f e.a e.b e.c), badDigit_any e.a, fun k hk => ?_⟩
      intro v
      rw [lane_ofNat_joinLanes k (by simp), ofInt_eq_ofNat_lowBits]
      simp only [List.getD, List.getElem?_map, List.getElem?_range hk, Option.map_some, Option.getD_some]
      rfl
  case tables =>
    intro f s e h n x a nb fm sgn
    have hlane (v j : Nat) : laneNat f.ty v j < 2 ^ typeWidth f.ty := laneNat_lt ..
    refine ⟨fun _ => .of_ints h rfl rfl rfl rfl, fun hty => ⟨.of_ints h rfl rfl rfl (apeClamp_int e.a e.b e.c hty),
      .of_patterns h rfl rfl rfl rfl fun j => ⟨rfl, ones_lt ..⟩, .of_ints h rfl rfl rfl rfl,
      .of_patterns h rfl rfl rfl rfl fun j => ⟨rfl, ite_lt (hlane ..) (hlane ..)⟩⟩, fun hty => ?_⟩
    have hw := typeWidth_of_float hty
    exact .of_patterns h rfl rfl rfl (apeClamp_float e.a e.b e.c hty) fun j =>
      ⟨rfl, hw ▸ ite_lt fm.nan_lt (floatExtreme_lt ..)⟩

end Machine
end Sys2Proof
end

section
/-! Predicates of an SPE (07 R211, R214). -/
namespace Sys2Proof

/-- The conditions of `pcmp` by their codes (07 R213). -/
theorem speCond_eq (ty a b : Nat) {c : Nat} (hc : c < 4) :
    let x := readInt (ty = 7) a 64
    let y := readInt (ty = 7) b 64
    speCond ty c a b = [x == y, x != y, decide (x < y), decide (x ≥ y)].getD c false := by
  intro x y
  have hlt : compare x y = .lt ↔ x < y := compare_lt_iff_lt
  rw [Bool.eq_iff_iff]
  interval_cases c <;> simp [speCond, x, y, hlt]

namespace Machine

/-- No op of an SPE waits for a word on a kind port. -/
theorem spe_portLate (e : OpEnv) (opc : Nat) : e.portLate .spe opc = false := portLate_of_ne opc (by decide)

/-- A predicate op writes its destination at the end of its cycle. -/
theorem predOp_issues {i : Instr} {s : State} {f : OpF} {e : OpEnv} {opc : Nat} {g : OpEnv → Bool} {v : Bool}
    (h : Issues s f e) (hi : exec i s = predOp opc f s g) (hv : g e = v) :
    exec i s = .next (issued s e .spe opc { lands := [⟨e.t, e.pe, e.ops, .pred e.core (f.modBits 8 5) v⟩] }) := by
  subst hv
  exact hi.trans (issueOp_never _ h (spe_portLate e opc))

/-- A change of the round of a kernel that the context has. -/
theorem State.modRun_of_kernel {s : State} {ctx kh : Nat} {k : Kernel} (g : Run → Run)
    (hk : s.kernel? ctx kh = some k) : s.modRun ctx kh g = s.putKernel ctx kh { k with run := g k.run } := by
  simp only [State.modRun, State.modKernel, hk]

/-- A byte with one bit set or cleared. -/
def putBit (b : BitVec 8) (n : Nat) (v : Bool) : BitVec 8 := if v then b ||| 1#8 <<< n else b &&& ~~~(1#8 <<< n)

/-- A bit of it. -/
theorem getLsbD_putBit (b : BitVec 8) (n : Nat) (v : Bool) {i : Nat} (hi : i < 8) :
    (putBit b n v).getLsbD i = if i = n then v else b.getLsbD i := by
  have hone : (1#8 <<< n).getLsbD i = decide (i = n) := by
    rw [BitVec.getLsbD_shiftLeft, BitVec.getLsbD_one, Bool.eq_iff_iff]
    simp only [Bool.and_eq_true, Bool.not_eq_true', decide_eq_true_eq, decide_eq_false_iff_not]
    omega
  cases v
  · simp only [putBit, Bool.false_eq_true, if_false, BitVec.getLsbD_and, BitVec.getLsbD_not, hone, hi, decide_true,
      Bool.true_and]
    by_cases h : i = n <;> simp [h]
  · simp only [putBit, if_true, BitVec.getLsbD_or, hone]
    by_cases h : i = n <;> simp [h]

/-- A round with one of p1 to p7 of a core written. -/
def Run.setPredicate (r : Run) (core n : Nat) (v : Bool) : Run :=
  { r with preds := Tab.put r.preds core (putBit (Tab.getD r.preds core 0#8) n v) }

/-- A predicate of it. -/
theorem Run.predicate_setPredicate (r : Run) (core : Nat) {n : Nat} (v : Bool) (c i : Nat) (h1 : 1 ≤ n) (h7 : n ≤ 7) :
    (r.setPredicate core n v).predicate c i = if c = core ∧ i = n then v else r.predicate c i := by
  by_cases h0 : i = 0
  · simp [Run.predicate, h0, show ¬0 = n by omega]
  by_cases h8 : i < 8
  · simp only [Run.predicate, h0, h8, if_false, if_true]
    by_cases hc : c = core
    · subst hc
      simp only [Run.setPredicate, Tab.getD_put_self, getLsbD_putBit _ _ _ h8, true_and]
    · simp only [Run.setPredicate, Tab.getD_put_ne _ _ _ hc, hc, false_and, if_false]
  · simp [Run.predicate, Run.setPredicate, h0, h8, show ¬i = n by omega]

/-- The landing of a predicate op (07 R211). -/
theorem State.landOne_pred {s : State} {ctx kh : Nat} {k : Kernel} (cyc pe ops core pd : Nat) (v : Bool)
    (hk : s.kernel? ctx kh = some k) :
    s.landOne ctx kh ⟨cyc, pe, ops, .pred core pd v⟩ = s.putKernel ctx kh { k with run := k.run.setPredicate core pd v } :=
  State.modRun_of_kernel (fun r => r.setPredicate core pd v) hk

/-- Settles O8: an op is one landing of what it reads at issue (`predOp_issues`), and a landing writes one bit of its
core's predicates (`State.landOne_pred`, `Run.predicate_setPredicate`). -/
theorem spePredicates : Obligations.SpePredicates := by
  refine ⟨?ops, ?landing⟩
  case ops =>
    intro f s e h p pd px nx is x y
    obtain rfl := opEnv_f h.1
    exact ⟨predOp_issues h rfl (by rw [bne, beq_eq_decide, decide_not]), predOp_issues h rfl (speCond_eq _ _ _ (e.f.modBits_lt 1 0)),
      predOp_issues h rfl rfl, predOp_issues h rfl rfl, predOp_issues h rfl rfl⟩
  case landing =>
    intro s ctx kh cyc pe ops core pd v k hk h1 h7
    exact ⟨_, State.landOne_pred cyc pe ops core pd v hk, fun c i _ => Run.predicate_setPredicate k.run core v c i h1 h7,
      rfl⟩

end Machine
end Sys2Proof
end

section
/-! The scalar ops of an SPE (07 R215 to R224). -/
namespace Sys2Proof.Machine

/-- The iteration number of a stage (07 R215). -/
theorem Run.stageIter_toNat (r : Run) (n : Nat) :
    (r.stageIter n).toNat = if n ≤ r.iter ∧ r.iter - n < r.lim then (r.iter - n) % 2 ^ 64 else 2 ^ 64 - 1 := by
  unfold Run.stageIter
  split
  · exact BitVec.toNat_ofNat ..
  · rfl

/-- `sadd` and `ssub` (07 R215). -/
theorem speSum_eq (f : OpF) (minus : Bool) (a b : Nat) :
    let x := readInt (f.ty = 7) a 64
    let y := readInt (f.ty = 7) b 64
    let v := if minus then x - y else x + y
    speSum f minus a b
      = lowBits (if f.modBits 0 0 = 1 then (if f.ty = 7 then satS v 64 else satN v 64) else v) 64 := by
  simp only [speSum, satI, decide_eq_true_eq]

/-- An identifier out of range names no barrier (07 R216). -/
theorem Kernel.speBar_out {k : Kernel} {id : Nat} (h : id ≥ 2 ^ 14 ∨ id % 128 > 95 ∨ id / 128 % 128 ≥ k.desc.cores) :
    k.speBar id = none := if_pos h

/-- Every other identifier names one. -/
theorem Kernel.speBar_in {k : Kernel} {id : Nat} (h : ¬(id ≥ 2 ^ 14 ∨ id % 128 > 95 ∨ id / 128 % 128 ≥ k.desc.cores)) :
    k.speBar id = some (id / 128 % 128, 96 * (id / 128 % 128) + id % 128) := if_neg h

section
variable {s : State} {f : OpF} {e : OpEnv} {core i : Nat} {b : Word}

/-! ### Arrivals (07 R217, R221) -/

/-- An arrival at no barrier. -/
theorem execSpeBarr_none (h : Issues s f e) (hbar : e.k.speBar e.a = none) :
    exec (.speBarr f) s = .next (issued s e .spe 0x0A {}) := by
  change execSpeBarr f s = _
  refine (issueOp_never _ h (spe_portLate e 0x0A)).trans ?_
  rw [hbar]

/-- An arrival in strict mode. -/
theorem execSpeBarr_strict (h : Issues s f e) (hbar : e.k.speBar e.a = some (core, i)) (hs : e.k.run.strict = true) :
    exec (.speBarr f) s = .next (issued s e .spe 0x0A { mach := fun s => s.modKernel e.ctx e.kh fun k =>
      { k with buffer := k.buffer ++ [.arrive i (if core = e.core then none else some (e.t + 24))] } }) := by
  change execSpeBarr f s = _
  refine (issueOp_never _ h (spe_portLate e 0x0A)).trans ?_
  simp only [hbar, hs, if_true]

/-- An arrival at a barrier of the own core. -/
theorem execSpeBarr_own (h : Issues s f e) (hbar : e.k.speBar e.a = some (core, i)) (hs : e.k.run.strict = false)
    (hc : core = e.core) :
    exec (.speBarr f) s = .next (issued s e .spe 0x0A { lands := [⟨e.t, e.pe, e.ops, .arrive i⟩] }) := by
  change execSpeBarr f s = _
  refine (issueOp_never _ h (spe_portLate e 0x0A)).trans ?_
  simp only [hbar, hs, hc, Bool.false_eq_true, if_true, if_false]
  rfl

/-- An arrival at a barrier of another core. -/
theorem execSpeBarr_other (h : Issues s f e) (hbar : e.k.speBar e.a = some (core, i)) (hs : e.k.run.strict = false)
    (hc : core ≠ e.core) :
    exec (.speBarr f) s = .next (issued s e .spe 0x0A { mach := fun s => s.modKernel e.ctx e.kh fun k =>
      { k with arrivals := k.arrivals ++ [⟨e.t + 24, i, false⟩] } }) := by
  change execSpeBarr f s = _
  refine (issueOp_never _ h (spe_portLate e 0x0A)).trans ?_
  simp only [hbar, hs, hc, Bool.false_eq_true, if_false]

/-! ### Waits (07 R218) -/

/-- A wait names a barrier of its own core, or none. -/
theorem OpEnv.ownBar_of_some (hbar : e.k.speBar e.a = some (core, i)) :
    e.ownBar = if core = e.core then some (e.k.bar i) else none := by
  simp only [OpEnv.ownBar, hbar]

theorem OpEnv.ownBar_of_none (hbar : e.k.speBar e.a = none) : e.ownBar = none := by
  simp only [OpEnv.ownBar, hbar]

/-- The state in which a wait has answered, with a further change of the round. -/
def waited (s : State) (e : OpEnv) (v : Nat) (g : Run → Run) : State :=
  issued s e .spe 0x0B { lands := [resultLanding e 1 false (BitVec.ofNat 512 v) 0], run := g }

/-- A wait at no barrier of its own core answers all ones. -/
theorem execBwt_none (h : Issues s f e) (hown : e.ownBar = none) : exec (.bwt f) s = .next (waited s e (2 ^ 64 - 1) id) := by
  have hlate : bwtLate s e = false := by simp [bwtLate, hown]
  change execBwt f s = _
  refine (issueOp_done bwtLate _ h (spe_portLate e 0x0B) hlate).trans ?_
  rw [hown]
  rfl

/-- A wait that is not late answers the generation; one at a poisoned barrier raises its event. -/
theorem execBwt_done (h : Issues s f e) (hown : e.ownBar = some b)
    (hgo : f.modBits 0 0 = 0 → barState b = 3 ∨ barGen b ≠ e.b % 2 ^ 16) :
    exec (.bwt f) s = .next (waited s e (barGen b) fun r => if f.modBits 0 0 = 0 ∧ barState b = 3 then
      r.addEvent e.pe e.ops 0 0x0702#16 (Word.of e.a) else r) := by
  have hf := opEnv_f h.1
  have hlate : bwtLate s e = false := by
    simp only [bwtLate, hf, hown, Option.any_some, Bool.and_eq_false_imp, decide_eq_true_eq, decide_eq_false_iff_not]
    omega
  change execBwt f s = _
  refine (issueOp_done bwtLate _ h (spe_portLate e 0x0B) hlate).trans ?_
  rw [hown]
  rfl

/-- A wait at the generation that it names is late. -/
theorem execBwt_late (h : Issues s f e) (hown : e.ownBar = some b) (hm : f.modBits 0 0 = 0) (hs : barState b ≠ 3)
    (hg : barGen b = e.b % 2 ^ 16) : exec (.bwt f) s = .next (s.late e) := by
  have hf := opEnv_f h.1
  change execBwt f s = _
  refine issueOp_late bwtLate _ h (spe_portLate e 0x0B) ?_
  simp [bwtLate, hf, hown, hm, hs, hg]

/-! ### Signal-stores (07 R220, R221) -/

/-- The byte budget refuses a signal-store. -/
theorem execSpeSigst_refused (h : Issues s f e) (hpay : s.spend e.k.cluster (s.cost [4] 16) (.op e.ctx e.kh e.pe) = none) :
    exec (.speSigst f) s = .next ((s.refuse e.k.cluster (s.cost [4] 16) (.op e.ctx e.kh e.pe)).late e) := by
  refine (issueWith_issues speSigstGo h (spe_portLate e 0x0C)).trans ?_
  simp only [speSigstGo, hpay]

/-- A signal-store that is paid for, in strict mode. -/
theorem execSpeSigst_strict {t : State} (h : Issues s f e)
    (hpay : s.spend e.k.cluster (s.cost [4] 16) (.op e.ctx e.kh e.pe) = some t) (hs : e.k.run.strict = true) :
    exec (.speSigst f) s = .next (issued t e .spe 0x0C { mach := fun s => s.modKernel e.ctx e.kh fun k =>
      { k with buffer := k.buffer ++ [.signal e.core (Word.of e.a) (Word.of e.b) (Word.of e.c)] } }) := by
  refine (issueWith_issues speSigstGo h (spe_portLate e 0x0C)).trans ?_
  simp only [speSigstGo, hpay, hs, if_true]

/-- A signal-store that is paid for, outside strict mode. -/
theorem execSpeSigst_sent {t : State} (h : Issues s f e)
    (hpay : s.spend e.k.cluster (s.cost [4] 16) (.op e.ctx e.kh e.pe) = some t) (hs : e.k.run.strict = false) :
    exec (.speSigst f) s = .next (issued t e .spe 0x0C
      { lands := [⟨e.t, e.pe, e.ops, .signal (Word.of e.a) (Word.of e.b) (Word.of e.c)⟩] }) := by
  refine (issueWith_issues speSigstGo h (spe_portLate e 0x0C)).trans ?_
  simp only [speSigstGo, hpay, hs, Bool.false_eq_true, if_false]
  rfl

end

/-! ### The statement -/

/-- Settles O9: a scalar lands its value (`result_lands`); an arrival and a wait go by the barrier that their identifier
names (`Kernel.speBar_in`, `OpEnv.ownBar_of_some`), a signal-store by the byte budget. -/
theorem speScalars : Obligations.SpeScalars := by
  refine ⟨?values, ?barriers, ?rest⟩
  case values =>
    intro f s e h is x y fit a n st m
    have hlands {i : Instr} {opc v : Nat} {g : OpEnv → PeOut} (hi : exec i s = resultOp .spe opc f s g)
        (htwo : decide (opResults .spe opc f = 2) = false) (hg : g e = { r1 := v }) : is i opc v :=
      result_lands false h (by decide) hi rfl htwo hg
    refine ⟨hlands rfl rfl ?_, hlands rfl rfl rfl, hlands rfl rfl (by rw [speSum_eq]; rfl), hlands rfl rfl (by rw [speSum_eq]; rfl), hlands rfl rfl rfl⟩
    simp only [Run.stageIter_toNat]
    rfl
  case barriers =>
    intro f s e h num core out i b gen peek wait poison put queued sent
    refine ⟨fun hout => ?outside, fun hin => ?inside⟩
    case outside =>
      have hbar := Kernel.speBar_out hout
      exact ⟨execSpeBarr_none h hbar, execBwt_none h (OpEnv.ownBar_of_none hbar)⟩
    case inside =>
      have hbar : e.k.speBar e.a = some (core, i) := Kernel.speBar_in hin
      have hown (hc : core = e.core) : e.ownBar = some b := (OpEnv.ownBar_of_some hbar).trans (if_pos hc)
      have hmod : f.modBits 0 0 < 2 := f.modBits_lt 0 0
      refine ⟨execSpeBarr_strict h hbar, execSpeBarr_own h hbar, execSpeBarr_other h hbar,
        fun hc => execBwt_none h ((OpEnv.ownBar_of_some hbar).trans (if_neg hc)), fun hc hgo => ?answer,
        fun hc hpeek hpois => ?poisoned, fun hc hpeek => execBwt_late h (hown hc) (by omega)⟩
      case answer =>
        have hno : ¬(f.modBits 0 0 = 0 ∧ barState b = 3) := by omega
        refine (execBwt_done h (hown hc) (by omega)).trans ?_
        simp only [hno, if_false]
        rfl
      case poisoned =>
        have hyes : f.modBits 0 0 = 0 ∧ barState b = 3 := by omega
        refine (execBwt_done h (hown hc) fun _ => .inl hpois).trans ?_
        simp only [hyes, and_self, if_true]
        rfl
  case rest =>
    intro f s e h paid hold ask
    refine ⟨execSpeSigst_refused h, fun t ht => ⟨execSpeSigst_strict h ht, execSpeSigst_sent h ht⟩, ?kexit, ?trapk,
      ?hint⟩
    case kexit =>
      change execKexit f s = _
      refine (issueOp_never _ h (spe_portLate e 0x0D)).trans ?_
      simp only [ask, beq_eq_decide]
    case trapk =>
      change execTrapk f s = _
      refine (issueOp_never _ h (spe_portLate e 0x0E)).trans ?_
      simp only [Word.of, BitVec.ofNat_toNat]
    case hint =>
      change execSpeHint f s = _
      exact issueOp_never _ h (spe_portLate e 0x0F)

end Sys2Proof.Machine
end

section
/-! What the operations on a stream leave of it: U, the byte position and the prefetch depth. -/
namespace Sys2Proof.Machine

/-! ### A round's streams -/

@[simp] theorem Run.stream_putStream_self (r : Run) (key : Nat) (x : StreamSt) : (r.putStream key x).stream key = x :=
  Tab.getD_put_self ..
@[simp] theorem Run.stream_addEvent (r : Run) (pe ops idx : Nat) (c : BitVec 16) (v : Word) (key : Nat) :
    (r.addEvent pe ops idx c v).stream key = r.stream key := rfl
@[simp] theorem OpEnv.stream_onStream (e : OpEnv) (g : StreamSt → StreamSt) (r : Run) :
    (e.onStream g r).stream e.key = g (r.stream e.key) := Run.stream_putStream_self ..

/-- The telling of a failure changes the stream in what it notes of its failures (08 R241). -/
theorem Run.stream_tellFail (r : Run) (pe ops key w : Nat) (pages : List Nat) :
    ∃ fails, (r.tellFail pe ops key w pages).stream key = { r.stream key with fails := fails } := by
  unfold Run.tellFail
  dsimp only
  split
  · split
    · exact ⟨_, rfl⟩
    · exact ⟨_, Run.stream_putStream_self ..⟩
  · exact ⟨_, rfl⟩

@[simp] theorem Run.tellFail_u (r : Run) (pe ops key w : Nat) (pages : List Nat) :
    ((r.tellFail pe ops key w pages).stream key).u = (r.stream key).u := by
  obtain ⟨fails, h⟩ := r.stream_tellFail pe ops key w pages
  rw [h]
@[simp] theorem Run.tellFail_bp (r : Run) (pe ops key w : Nat) (pages : List Nat) :
    ((r.tellFail pe ops key w pages).stream key).bp = (r.stream key).bp := by
  obtain ⟨fails, h⟩ := r.stream_tellFail pe ops key w pages
  rw [h]

/-- It takes no event back. -/
theorem Run.mem_events_tellFail {r : Run} {ev : TrapEvent} (pe ops key w : Nat) (pages : List Nat) (h : ev ∈ r.events) :
    ev ∈ (r.tellFail pe ops key w pages).events := by
  unfold Run.tellFail
  dsimp only
  split
  · split
    · exact h
    · exact List.mem_append_left _ h
  · exact h

/-! ### Windows -/

@[simp] theorem StreamSt.use_u (x : StreamSt) (w : Nat) : (x.use w).u = x.u := by
  unfold StreamSt.use
  split
  · split <;> rfl
  · rfl

section
variable (d : StreamDesc) (cyc n : Nat) (x : StreamSt)

@[simp] theorem StreamDesc.topUp_u : (d.topUp cyc n x).u = x.u := by
  unfold StreamDesc.topUp
  split <;> rfl
@[simp] theorem StreamDesc.topUp_bp : (d.topUp cyc n x).bp = x.bp := by
  unfold StreamDesc.topUp
  split <;> rfl
@[simp] theorem StreamDesc.topUp_pref : (d.topUp cyc n x).pref = x.pref := by
  unfold StreamDesc.topUp
  split <;> rfl
@[simp] theorem StreamDesc.writeBack_u (p : Nat → Bool) : (d.writeBack cyc p x).u = x.u := by
  unfold StreamDesc.writeBack
  split <;> rfl
@[simp] theorem StreamDesc.writeBack_bp (p : Nat → Bool) : (d.writeBack cyc p x).bp = x.bp := by
  unfold StreamDesc.writeBack
  split <;> rfl
@[simp] theorem StreamDesc.settle_u : (d.settle cyc x).u = x.u := d.writeBack_u cyc x _
@[simp] theorem StreamDesc.settle_bp : (d.settle cyc x).bp = x.bp := d.writeBack_bp cyc x _
@[simp] theorem StreamDesc.advance_u : (d.advance cyc n x).u = x.u + 64 * n := by simp [StreamDesc.advance]
@[simp] theorem StreamDesc.advance_bp : (d.advance cyc n x).bp = x.bp := by simp [StreamDesc.advance]

/-- The tail is not ahead of the word at U (08 R236). -/
theorem StreamDesc.tail_le_head : d.tail x ≤ x.u / 64 := Nat.div_le_div_right (Nat.sub_le ..)

end

end Sys2Proof.Machine
end

section
/-! The issue of an MPE op, and of one with a result. -/
namespace Sys2Proof.Machine

/-- An op whose meaning has an effect at issue. -/
theorem issueWith_done {s t : State} {f : OpF} {e : OpEnv} {kind : PeKind} {opc : Nat} {x : Effect}
    {go : State → OpEnv → Issue} (h : Issues s f e) (hl : e.portLate kind opc = false) (hgo : go s e = .done t x) :
    issueWith kind opc f s go = .next (issued t e kind opc x) := by
  rw [issueWith_issues go h hl, hgo]

/-- An op whose meaning is late. -/
theorem issueWith_late {s t : State} {f : OpF} {e : OpEnv} {kind : PeKind} {opc : Nat}
    {go : State → OpEnv → Issue} (h : Issues s f e) (hl : e.portLate kind opc = false) (hgo : go s e = .late t) :
    issueWith kind opc f s go = .next (t.late e) := by
  rw [issueWith_issues go h hl, hgo]

/-- The domain on the move holds the kernel of an op that issues. -/
theorem Issues.kernel {s : State} {f : OpF} {e : OpEnv} (h : Issues s f e) : s.kernel? e.ctx e.kh = some e.k := by
  obtain ⟨he, -⟩ := h
  unfold State.opEnv at he
  split at he
  · cases he
  · next k hk =>
    cases he
    exact hk

/-- The stream that an op names. -/
theorem OpEnv.strm?_of_some {e : OpEnv} {d : StreamDesc} (hd : e.k.strm? e.key = some d) :
    e.strm? = some (d, e.k.run.stream e.key) := by
  simp [OpEnv.strm?, hd]

/-- Its state is that of the round. -/
theorem OpEnv.stream_of_strm? {e : OpEnv} {d : StreamDesc} {x : StreamSt} (hx : e.strm? = some (d, x)) :
    e.k.run.stream e.key = x := by
  obtain ⟨d', -, hd⟩ := Option.map_eq_some_iff.mp hx
  cases hd
  rfl

/-- No op of an MPE has two results. -/
theorem opResults_mpe_ne_two (opc : Nat) (f : OpF) : opResults .mpe opc f ≠ 2 := by
  simp only [opResults]
  split <;> decide

/-- A 512-bit pattern as a number and back. -/
theorem ofNat_toNat_wide (v : Wide) : BitVec.ofNat 512 v.toNat = v := by
  rw [BitVec.ofNat_toNat, BitVec.setWidth_eq]

/-- The effect of an MPE op whose result is v. -/
theorem OpEnv.loads_eq {e : OpEnv} {opc l n : Nat} {v : Wide} (hl : opLatency .mpe opc e.f = l)
    (hv : BitVec.ofNat 512 n = v) (run : Run → Run) (extra : List Landing) :
    e.loads opc n run extra = { lands := resultLanding e l false v 0 :: extra, run := run,
                                recs := e.record .mpe opc l 1 0 v.toNat 0 0 } := by
  subst hl hv
  have htwo : decide (opResults .mpe opc e.f = 2) = false := decide_eq_false (opResults_mpe_ne_two opc e.f)
  rw [OpEnv.loads, OpEnv.dest, htwo, OpEnv.record, OpEnv.record, ofNat_toNat_wide]
  rfl

end Sys2Proof.Machine
end

section
/-! The window reads of an MPE (08 R247, R248, R256). -/
namespace Sys2Proof.Machine

/-- The word that a window holds at a position, zero where it holds none. -/
def StreamSt.word (x : StreamSt) (w : Nat) : Wide := ((Tab.get? x.win w).map WinWord.data).getD 0

/-- A read at or behind the tail finds the word of the window. -/
theorem StreamDesc.read_eq_data {d : StreamDesc} {x : StreamSt} {w : Nat} (h : d.tail x ≤ w) :
    ∃ m, d.read x w = .data (x.word w).toNat m := by
  rw [StreamDesc.read, if_neg (Nat.not_lt.mpr h), StreamSt.word]
  cases Tab.get? x.win w with
  | none => exact ⟨0, congrArg (WordRead.data · 0) BitVec.toNat_zero.symm⟩
  | some y => exact ⟨y.mask.toNat, rfl⟩

section
variable {s : State} {e : OpEnv} {d : StreamDesc} {x : StreamSt} {w : Nat}

/-- What a read that finds its word does to the round. -/
def OpEnv.takeWord (e : OpEnv) (w : Nat) (step : StreamSt → StreamSt) (r : Run) : Run :=
  (e.onStream (fun y => step (y.use w)) r).tellFail e.pe e.ops e.key w

/-- A read of a word at or behind the tail that is not on its way. -/
theorem OpEnv.readWord_done (opc : Nat) (step : StreamSt → StreamSt) (htail : d.tail x ≤ w)
    (hlate : x.wordLate w = false) :
    e.readWord opc s d x w step = .done s (e.loads opc (x.word w).toNat (e.takeWord w step)) := by
  obtain ⟨m, hm⟩ := StreamDesc.read_eq_data htail
  simp only [OpEnv.readWord, hm, hlate, Bool.false_eq_true, if_false]
  rfl

/-- A read of a word on its way. -/
theorem OpEnv.readWord_late (opc : Nat) (step : StreamSt → StreamSt) (htail : d.tail x ≤ w)
    (hlate : x.wordLate w = true) : e.readWord opc s d x w step = .late s := by
  obtain ⟨m, hm⟩ := StreamDesc.read_eq_data htail
  simp only [OpEnv.readWord, hm, hlate, if_true]

/-- A read below the tail. -/
theorem OpEnv.readWord_under (opc : Nat) (step : StreamSt → StreamSt) (htail : w < d.tail x) :
    e.readWord opc s d x w step = .done s (e.loads opc 0 e.underrun) := by
  simp only [OpEnv.readWord, StreamDesc.read, htail, if_true]

end

section
variable {s : State} {e : OpEnv} {d : StreamDesc} {go : State → OpEnv → Issue} {x : StreamSt}
  {opc l w n : Nat} {step : StreamSt → StreamSt}

/-- The MPE op of a meaning `go` lands v after l cycles and moves U on by n. -/
def ReadGives (go : State → OpEnv → Issue) (s : State) (e : OpEnv) (opc l : Nat) (v : Wide) (n : Nat) : Prop :=
  ∃ g : Run → Run, issueWith .mpe opc e.f s go
      = .next (issued s e .mpe opc { lands := [resultLanding e l false v 0], run := g,
                                     recs := e.record .mpe opc l 1 0 v.toNat 0 0 })
    ∧ ((g e.k.run).stream e.key).u = (e.k.run.stream e.key).u + n

/-- A meaning that loads a word gives it. -/
theorem readGives_of_loads {v : Wide} {m : Nat} {g : Run → Run} (h : Issues s e.f e)
    (hp : ∀ opc, e.portLate .mpe opc = false) (hl : opLatency .mpe opc e.f = l) (hv : BitVec.ofNat 512 m = v)
    (hgo : go s e = .done s (e.loads opc m g))
    (hu : ((g e.k.run).stream e.key).u = (e.k.run.stream e.key).u + n) : ReadGives go s e opc l v n :=
  ⟨g, (issueWith_done h (hp opc) hgo).trans (by rw [OpEnv.loads_eq hl hv]), hu⟩

/-- A meaning that reads a word of the window gives it. -/
theorem readGives_of_readWord (h : Issues s e.f e) (hp : ∀ opc, e.portLate .mpe opc = false)
    (hl : opLatency .mpe opc e.f = l) (hgo : go s e = e.readWord opc s d x w step) (htail : d.tail x ≤ w)
    (hlate : x.wordLate w = false) (hstep : ∀ y, (step y).u = y.u + n) : ReadGives go s e opc l (x.word w) n :=
  readGives_of_loads h hp hl (ofNat_toNat_wide _) (hgo.trans (OpEnv.readWord_done opc step htail hlate)) (by simp [OpEnv.takeWord, hstep])

end

section
variable {s : State} {e : OpEnv} {d : StreamDesc} {x : StreamSt}

/-- `ld` of PART 0 reads the word at U. -/
theorem ldGo_word (hx : e.strm? = some (d, x)) (hpart : e.f.modBits 1 0 = 0) :
    ldGo s e = e.readWord 0x01 s d x (x.u / 64) (d.advance e.t 1) := by
  simp only [ldGo, hx, hpart, if_true]

/-- `ld` of another PART reads one half of the exponents of the fold group of a word that is not on its way. -/
theorem ldGo_exps {part : Nat} (hx : e.strm? = some (d, x)) (hpart : e.f.modBits 1 0 = part + 1)
    (hlate : x.wordLate (x.u / 64) = false) :
    ldGo s e = .done s (e.loads 0x01 (lane 512 (Tab.getD x.exps (x.u / 64 / groupWords d.deliv) 0) part).toNat
      fun r => r.tellFail e.pe e.ops e.key (x.u / 64)) := by
  simp only [ldGo, hx, hpart, Nat.succ_ne_zero, if_false, hlate, Bool.false_eq_true, Nat.add_sub_cancel]

/-- `ld` is late while the word at U is on its way. -/
theorem ldGo_late (hx : e.strm? = some (d, x)) (hlate : x.wordLate (x.u / 64) = true) : ldGo s e = .late s := by
  by_cases hpart : e.f.modBits 1 0 = 0
  · rw [ldGo_word hx hpart, OpEnv.readWord_late _ _ (d.tail_le_head x) hlate]
  · simp only [ldGo, hx, hpart, if_false, hlate, if_true]

/-- `unf` reads the word at U. -/
theorem unfGo_eq (hx : e.strm? = some (d, x)) : unfGo s e = e.readWord 0x09 s d x (x.u / 64) (d.advance e.t 1) := by
  simp only [unfGo, hx]

/-- `unf` is late while that word is on its way. -/
theorem unfGo_late (hx : e.strm? = some (d, x)) (hlate : x.wordLate (x.u / 64) = true) : unfGo s e = .late s := by
  rw [unfGo_eq hx, OpEnv.readWord_late _ _ (d.tail_le_head x) hlate]

/-- The position that `ldk` reads. -/
def OpEnv.ldkPos (e : OpEnv) (x : StreamSt) : Int := x.u + 64 * sx e.a 16

/-- `ldk` at or beyond U + PREF. -/
theorem ldkGo_beyond (hx : e.strm? = some (d, x)) (hp : e.ldkPos x ≥ x.u + x.pref) :
    ldkGo s e = .done s (e.loads 0x02 0) := by
  simp only [ldkGo, hx]
  exact if_pos hp

/-- `ldk` before U + PREF reads its word, or is an underrun where its position is negative. -/
theorem ldkGo_within (hx : e.strm? = some (d, x)) (hp : e.ldkPos x < x.u + x.pref) :
    ldkGo s e = if e.ldkPos x < 0 then .done s (e.loads 0x02 0 e.underrun)
      else e.readWord 0x02 s d x (e.ldkPos x / 64).toNat id := by
  simp only [ldkGo, hx]
  exact if_neg (not_le.mpr hp)

/-- `ldk` below the tail. -/
theorem ldkGo_under (hx : e.strm? = some (d, x)) (hp : e.ldkPos x < x.u + x.pref) (htail : e.ldkPos x < 64 * d.tail x) :
    ldkGo s e = .done s (e.loads 0x02 0 e.underrun) := by
  rw [ldkGo_within hx hp]
  split
  · rfl
  · exact OpEnv.readWord_under _ _ (by omega)

/-- `ldk` of a word between the tail and U + PREF. -/
theorem ldkGo_word (hx : e.strm? = some (d, x)) (hp : e.ldkPos x < x.u + x.pref) (htail : 64 * d.tail x ≤ e.ldkPos x) :
    ldkGo s e = e.readWord 0x02 s d x (e.ldkPos x / 64).toNat id := by
  rw [ldkGo_within hx hp, if_neg (by omega)]

/-- `vmsk` delivers the mask of the word at U, where that is not on its way, or of the last `ldx`. -/
theorem vmskGo_done (hd : e.k.strm? e.key = some d) (hlate : e.k.headLate e.core e.slot e.f.stream = false) :
    let x := e.k.run.stream e.key
    vmskGo s e = .done s (e.loads 0x0F (if d.kind = .indexed then x.lastMask.toNat
      else ((Tab.get? x.win (x.u / 64)).map fun y => y.mask.toNat).getD 0)) := by
  have hd : e.k.strm? (streamKey e.core (e.slot = 3) e.f.stream) = some d := hd
  simp only [vmskGo, hlate, Bool.false_eq_true, if_false, Kernel.headMask, hd, Option.any_some, decide_eq_true_eq]
  rfl

end

/-- Settles O10: a read gives the word that the window holds, is late or is an underrun (`readGives_of_readWord`,
`OpEnv.readWord_late`, `ldkGo_under`), each op at its own position. -/
theorem mpeWindowReads : Obligations.MpeWindowReads := by
  intro f s e d h hp key x hd gives fails word w p
  obtain rfl := opEnv_f h.1
  have hx : e.strm? = some (d, x) := OpEnv.strm?_of_some hd
  have hhead := d.tail_le_head x
  refine ⟨fun hlate => ⟨fun hpart => ?word, fun hpart => ?exps1, fun hpart => ?exps2, ?unf⟩,
    fun hlate => ⟨issueWith_late h (hp 0x01) (ldGo_late hx hlate), issueWith_late h (hp 0x09) (unfGo_late hx hlate)⟩,
    fun hbeyond => ?beyond, fun hpref htail => ?under, fun hpref htail => ?within, fun hlate => ?vmsk⟩
  case word => exact readGives_of_readWord h hp rfl (ldGo_word hx hpart) hhead hlate (d.advance_u e.t 1)
  case exps1 => exact readGives_of_loads h hp rfl (ofNat_toNat_wide _) (ldGo_exps hx hpart hlate) (Run.tellFail_u ..)
  case exps2 => exact readGives_of_loads h hp rfl (ofNat_toNat_wide _) (ldGo_exps hx hpart hlate) (Run.tellFail_u ..)
  case unf => exact readGives_of_readWord h hp rfl (unfGo_eq hx) hhead hlate (d.advance_u e.t 1)
  case beyond => exact readGives_of_loads h hp rfl rfl (ldkGo_beyond hx hbeyond) rfl
  case under =>
    refine (issueWith_done h (hp 0x02) (ldkGo_under hx hpref htail)).trans ?_
    rw [OpEnv.loads_eq rfl rfl, BitVec.ofNat_eq_ofNat, BitVec.toNat_zero]
    rfl
  case within =>
    have hword := ldkGo_word (s := s) hx hpref htail
    have htail : d.tail x ≤ (p / 64).toNat := by omega
    exact ⟨fun hlate => readGives_of_readWord h hp rfl hword htail hlate fun y => rfl,
      fun hlate => issueWith_late h (hp 0x02) (hword.trans (OpEnv.readWord_late _ _ htail hlate))⟩
  case vmsk => exact readGives_of_loads h hp rfl rfl (vmskGo_done hd hlate) rfl

end Sys2Proof.Machine
end

section
/-! A store whose translations are at hand and whose bytes are paid for, and reads of the scratchpads (08 R244, R250). -/
namespace Sys2Proof.Machine

/-! ### The stream of an op -/

/-- The core of a stream stands above the 32 numbers of its streams. -/
theorem OpEnv.key_div_32 (e : OpEnv) : e.key / 32 = e.core := by
  have hstrm : e.f.stream < 16 := BitVec.isLt _
  simp only [OpEnv.key, streamKey]
  split <;> omega

/-- The state of a stream in a state that has its kernel. -/
theorem State.stream_of_kernel {s : State} {ctx kh : Nat} {k : Kernel} (key : Nat) (hk : s.kernel? ctx kh = some k) :
    s.stream ctx kh key = k.run.stream key := by
  simp [State.stream, hk]

/-- A stream whose format is known keeps it. -/
theorem State.fixFmt_known (s : State) (ctx kh : Nat) {key : Nat} {k : Kernel} (d : StreamDesc) (path : Nat)
    (hfmt : (k.run.stream key).fmt.isSome = true) : s.fixFmt ctx kh key k d path = (s, false) := by
  simp [State.fixFmt, hfmt]

/-- A charge that the meter accepts. -/
theorem State.opSpend_some {s t : State} {e : OpEnv} {classes : List Nat} {n : Nat} (go : State → Issue)
    (ht : s.spend e.k.cluster (s.cost classes n) (.op e.ctx e.kh e.pe) = some t) :
    s.opSpend e classes n go = go t := by
  simp only [State.opSpend, ht]

/-! ### Plans -/

/-- A plan of a store by an op waits for nothing, and its bytes are paid for in t. -/
structure PlanPaid (s t : State) (e : OpEnv) (p : StorePlan) : Prop where
  nowait : p.wait = none
  nowalks : p.walks = []
  unheld : p.held = false
  free : p.near.length = 0 ∨ e.k.run.heldNow e.key = false
  paid : s.spend e.k.cluster (s.cost [0] p.near.length) (.op e.ctx e.kh e.pe) = some t

section
variable {s t : State} {e : OpEnv} {d : StreamDesc} {x : StreamSt} {p : StorePlan}

theorem PlanPaid.planWait (h : PlanPaid s t e p) (ctx kh key path : Nat) (k : Kernel) :
    s.planWait ctx kh key path k p = none := by
  simp [State.planWait, h.nowait, h.nowalks, h.unheld]

theorem PlanPaid.goes (h : PlanPaid s t e p) : ¬(p.near.length ≠ 0 ∧ e.k.run.heldNow e.key = true) := by
  rintro ⟨hbytes, hheld⟩
  rcases h.free with hnone | hfree
  · exact hbytes hnone
  · exact absurd hheld (by simp [hfree])

/-- The landings of a plan in the region's scratchpads: after l cycles in the core of the op, after 24 in others. -/
def OpEnv.planLands (e : OpEnv) (l : Nat) (p : StorePlan) : List Landing :=
  nearLands e.k e.key e.core e.pe e.ops (l - 1) 23 p.near

/-- A word written by a plan that is paid for lands, and leaves U. -/
theorem State.storeWord_paid {w : Nat} {v : Wide} (path : Nat) (h : Issues s e.f e) (hd : e.k.strm? e.key = some d)
    (hfmt : (e.k.run.stream e.key).fmt.isSome = true) (hok : (e.k.run.stream e.key).failed = false)
    (hplan : PlanPaid s t e (s.storePlan e.ctx e.k (e.k.run.stream e.key) (d.storeElems (e.k.run.stream e.key) w v))) :
    ∃ run, s.storeWord e.ctx e.kh e.pe e.ops e.key w v path
        = .go t (e.planLands 4 (s.storePlan e.ctx e.k (e.k.run.stream e.key) (d.storeElems (e.k.run.stream e.key) w v))) run
      ∧ ∀ r, ((run r).stream e.key).u = (r.stream e.key).u := by
  simp only [State.storeWord, h.kernel, hd, State.fixFmt_known s _ _ d path hfmt, State.stream_of_kernel _ h.kernel, hok,
    Bool.false_eq_true, if_false, hplan.planWait, hplan.goes, hplan.paid, OpEnv.key_div_32]
  refine ⟨_, rfl, fun r => ?_⟩
  split <;> simp

end

/-! ### The record of a store -/

/-- The cycles to the last of some landings, l at least. -/
def OpEnv.lastOf (e : OpEnv) (l : Nat) (ls : List Landing) : Nat := ls.foldl (fun n y => max n (y.cyc + 1 - e.t)) l

/-- A store lasts to the last of its landings. -/
theorem OpEnv.storeRec_eq {e : OpEnv} {opc l : Nat} (hl : opLatency .mpe opc e.f = l) (pos : Nat) (ls : List Landing) :
    e.storeRec opc pos ls = if ls.isEmpty then [] else e.record .mpe opc (e.lastOf l ls) 2 pos e.a e.b e.c := by
  subst hl
  rfl

/-! ### Plain memory -/

/-- Bytes off the codec pages are read as memory lists them. -/
theorem State.peek_eq_readLE {s : State} {pa n : Nat} (h : ∀ i, i < n → s.isCodec (pa + i) = false) :
    s.peek pa n = Memory.readLE s.mem pa n := by
  induction n generalizing pa with
  | zero => rfl
  | succ n ih =>
    have hfirst : s.isCodec pa = false := h 0 (Nat.succ_pos n)
    have hrest := ih (pa := pa + 1) fun i hi => by
      rw [Nat.add_assoc, Nat.add_comm 1]
      exact h (i + 1) (Nat.succ_lt_succ hi)
    simp [State.peek, Memory.readLE, State.peekByte, hfirst, hrest]

/-- A load of plain bytes leaves the machine. -/
theorem State.load_plain {s : State} {pa n : Nat} (h : s.plain pa n) : s.load pa n = (Memory.readLE s.mem pa n, s) := by
  obtain ⟨hbanks, hcodec, -⟩ := h
  have hnone : s.banks.filter (fun b => b.touches pa n) = [] :=
    List.filter_eq_nil_iff.mpr fun b hb => by simp [hbanks b hb]
  have hall : s.banks.filter (fun b => !b.touches pa n) = s.banks :=
    List.filter_eq_self.mpr fun b hb => by simp [hbanks b hb]
  have hsettle : s.settle pa n = s := by
    simp only [State.settle, State.drainBanks, hnone, hall, List.foldl_nil]
  rw [State.load, hsettle, State.peek_eq_readLE hcodec]

end Sys2Proof.Machine
end

section
/-! The window stores of an MPE, and its scratchpad words (08 R249, R250). -/
namespace Sys2Proof.Machine

section
variable {s t : State} {e : OpEnv} {d : StreamDesc} {x : StreamSt} {go : State → OpEnv → Issue} {opc l : Nat}

/-- The MPE op of a meaning `go` lands a plan after l cycles, its word position in its record, and moves U on by n. -/
def StoreGives (go : State → OpEnv → Issue) (s t : State) (e : OpEnv) (opc l pos n : Nat) (p : StorePlan) : Prop :=
  ∃ g : Run → Run,
    let ls := e.planLands l p
    issueWith .mpe opc e.f s go = .next (issued t e .mpe opc
      { lands := ls, run := g, recs := if ls.isEmpty then [] else e.record .mpe opc (e.lastOf l ls) 2 pos e.a e.b e.c })
    ∧ ((g e.k.run).stream e.key).u = (e.k.run.stream e.key).u + n

/-- The plan of word w of an op's stream with its operand A. -/
def OpEnv.wordPlan (e : OpEnv) (s : State) (d : StreamDesc) (x : StreamSt) (w : Nat) : StorePlan :=
  s.storePlan e.ctx e.k x (d.storeElems x w (BitVec.ofNat 512 e.a))

/-- A meaning that writes a word whose plan is paid for lands it. -/
theorem storeGives_of_writeWord {w n : Nat} {step : StreamSt → StreamSt} (h : Issues s e.f e)
    (hp : ∀ opc, e.portLate .mpe opc = false) (hl : opLatency .mpe opc e.f = 4) (hd : e.k.strm? e.key = some d)
    (hfmt : (e.k.run.stream e.key).fmt.isSome = true) (hok : (e.k.run.stream e.key).failed = false)
    (hgo : go s e = e.writeWord opc s w e.a step) (hstep : ∀ y, (step y).u = y.u + n)
    (hplan : PlanPaid s t e (e.wordPlan s d (e.k.run.stream e.key) w)) :
    StoreGives go s t e opc 4 (64 * w) n (e.wordPlan s d (e.k.run.stream e.key) w) := by
  obtain ⟨run, hword, hu⟩ := State.storeWord_paid 1 h hd hfmt hok hplan
  have hdone := hgo
  simp only [OpEnv.writeWord, hword, OpEnv.storeRec_eq hl] at hdone
  exact ⟨_, issueWith_done h (hp opc) hdone, by simp [hstep, hu]⟩

/-- `st` waits while write-backs keep the window full. -/
theorem stGo_full (hx : e.strm? = some (d, x)) (hfull : d.full x = true) : stGo s e = .late s := by
  simp only [stGo, hx, hfull, if_true]

/-- `st` writes the word at U. -/
theorem stGo_word (hx : e.strm? = some (d, x)) (hfull : d.full x = false) :
    stGo s e = e.writeWord 0x03 s (x.u / 64) e.a (d.advance e.t 1) := by
  simp only [stGo, hx, hfull, Bool.false_eq_true, if_false]

/-- How far behind U `stk` writes. -/
def OpEnv.stkBack (e : OpEnv) : Nat := 64 * (1 + e.b % 2 ^ 16)

/-- `stk` below the tail. -/
theorem stkGo_under (hx : e.strm? = some (d, x)) (hlow : x.u < e.stkBack ∨ (x.u - e.stkBack) / 64 < d.tail x) :
    stkGo s e = .done s { run := e.underrun } := by
  simp only [stkGo, hx]
  exact if_pos hlow

/-- `stk` of a word at or behind the tail. -/
theorem stkGo_word (hx : e.strm? = some (d, x)) (hback : e.stkBack ≤ x.u) (htail : d.tail x ≤ (x.u - e.stkBack) / 64) :
    stkGo s e = e.writeWord 0x04 s ((x.u - e.stkBack) / 64) e.a id := by
  simp only [stkGo, hx]
  exact if_neg (not_or.mpr ⟨Nat.not_lt.mpr hback, Nat.not_lt.mpr htail⟩)

/-- The elements of an `stx`: lane, virtual address and bytes. -/
def OpEnv.stxElems (e : OpEnv) (d : StreamDesc) (x : StreamSt) : List (Nat × Nat × List Nat) :=
  (indexLanes (d.bits x) (nth d.bounds 0 0) e.a).map fun l =>
    (l.1, d.elemVa x l.2, laneBytes (d.bits x) (BitVec.ofNat 512 e.b) l.1)

/-- `stx` of elements whose plan is paid for lands them, and leaves U. -/
theorem stxGo_paid (h : Issues s e.f e) (hx : e.strm? = some (d, x)) (hfmt : x.fmt.isSome = true)
    (hok : x.failed = false) (hplan : PlanPaid s t e (s.storePlan e.ctx e.k x (e.stxElems d x) true)) :
    ∃ run, stxGo s e = .done t
        { lands := e.planLands 8 (s.storePlan e.ctx e.k x (e.stxElems d x) true), run := run,
          recs := e.storeRec 0x06 0 (e.planLands 8 (s.storePlan e.ctx e.k x (e.stxElems d x) true)) }
      ∧ ∀ r, ((run r).stream e.key).u = (r.stream e.key).u := by
  obtain rfl := OpEnv.stream_of_strm? hx
  unfold OpEnv.stxElems at hplan ⊢
  simp only [stxGo, hx, State.fixFmt_known s _ _ d 1 hfmt, State.stream_of_kernel _ h.kernel, hok, Bool.false_eq_true,
    if_false, hplan.planWait, hplan.goes, State.opSpend_some _ hplan.paid]
  refine ⟨_, rfl, fun r => ?_⟩
  split <;> simp

/-! ### Scratchpad words -/

/-- The core whose scratchpad an address operand names. -/
def OpEnv.spCore (e : OpEnv) : Nat := if e.f.modBits 0 0 = 1 then e.a / 2 ^ 21 % 128 else e.core

/-- The physical address of the 64 bytes that it names. -/
def OpEnv.spAddr (e : OpEnv) : Nat := e.k.spm e.spCore + 64 * (e.a / 64 % 2 ^ 15)

theorem OpEnv.spWord_inside (hin : e.spCore < e.k.desc.cores) : e.spWord = some (e.spCore, e.spAddr) :=
  if_neg (Nat.not_le.mpr hin)

theorem OpEnv.spWord_outside (hout : e.k.desc.cores ≤ e.spCore) : e.spWord = none := if_pos hout

/-- `lds` of plain bytes, outside strict mode. -/
theorem ldsGo_plain (hin : e.spCore < e.k.desc.cores)
    (ht : s.spend e.k.cluster (s.cost [0] 64) (.op e.ctx e.kh e.pe) = some t) (hs : e.k.run.strict = false)
    (hplain : t.plain e.spAddr 64) : ldsGo s e = .done t (e.loads 0x07 (Memory.readLE t.mem e.spAddr 64)) := by
  obtain ⟨-, -, hread⟩ := id hplain
  simp only [ldsGo, OpEnv.spWord_inside hin, State.opSpend_some _ ht, hread, State.asKernel, State.after, hs,
    Bool.false_eq_true, if_false, State.load_plain hplain]

/-- `lds` of a core outside the region. -/
theorem ldsGo_outside (hout : e.k.desc.cores ≤ e.spCore) : ldsGo s e = .done s (e.loads 0x07 0) := by
  simp only [ldsGo, OpEnv.spWord_outside hout]

/-- The cycles that a scratchpad word takes (08 R250). -/
def OpEnv.spTime (e : OpEnv) : Nat := if e.f.mod.getLsbD 0 then 24 else 4

theorem OpEnv.spTime_pos (e : OpEnv) : 0 < e.spTime := by
  unfold OpEnv.spTime
  split <;> decide

/-- The latency of `sts` is that time. -/
theorem OpEnv.latency_sts (e : OpEnv) : opLatency .mpe 0x08 e.f = e.spTime := rfl

/-- The byte enables of operand C. -/
def OpEnv.enables (e : OpEnv) : List Nat := (List.range 64).map fun j => if e.c.testBit j then 1 else 0

/-- `sts` to a core of the region. -/
theorem stsGo_inside (hin : e.spCore < e.k.desc.cores)
    (ht : s.spend e.k.cluster (s.cost [0] 64) (.op e.ctx e.kh e.pe) = some t) :
    stsGo s e = .done t
      { lands := [⟨e.t + e.spTime - 1, e.pe, e.ops, .bytes e.spAddr (bytesOf e.b 64) e.enables none⟩],
        recs := e.record .mpe 0x08 e.spTime 2 0 e.a e.b e.c } := by
  have hlast (act : LandAct) : e.lastOf e.spTime [⟨e.t + e.spTime - 1, e.pe, e.ops, act⟩] = e.spTime := by
    have := e.spTime_pos
    simp only [OpEnv.lastOf, List.foldl_cons, List.foldl_nil]
    omega
  simp only [stsGo, OpEnv.spWord_inside hin, State.opSpend_some _ ht, OpEnv.storeRec_eq e.latency_sts, OpEnv.landing,
    e.latency_sts, List.isEmpty_cons, Bool.false_eq_true, if_false, hlast]
  rfl

/-- `sts` to a core outside the region. -/
theorem stsGo_outside (hout : e.k.desc.cores ≤ e.spCore) : stsGo s e = .done s {} := by
  simp only [stsGo, OpEnv.spWord_outside hout]

end

end Sys2Proof.Machine
end

section
/-! The lanes of an indexed access, and the gather of `ldx` (08 R234, R251). -/
namespace Sys2Proof.Machine

/-- A bit of a mask built from a list. -/
theorem getLsbD_foldl_or_bit (is : List Nat) (m : Word) {j : Nat} (hj : j < 64) :
    (is.foldl (fun m i => m ||| (1#64 <<< i)) m).getLsbD j = (m.getLsbD j || decide (j ∈ is)) := by
  induction is generalizing m with
  | nil => simp
  | cons i is ih =>
    have hbit : (1#64 <<< i).getLsbD j = decide (j = i) := by
      rw [BitVec.getLsbD_shiftLeft, BitVec.getLsbD_one]
      simp only [hj, decide_true, Bool.true_and]
      rw [Bool.eq_iff_iff]
      simp
      omega
    rw [List.foldl_cons, ih, BitVec.getLsbD_or, hbit, Bool.or_assoc]
    simp

/-- A mask has the bits of its list. -/
theorem getLsbD_maskOf (is : List Nat) {j : Nat} (hj : j < 64) : (maskOf is).getLsbD j = decide (j ∈ is) := by
  rw [maskOf, getLsbD_foldl_or_bit is _ hj]
  simp

/-! ### Valid lanes -/

/-- The index of a lane, where it is valid. -/
def laneIndex (bits bound a i : Nat) : Option Nat :=
  if 0 ≤ sx (a / 2 ^ (bits * i)) 32 ∧ sx (a / 2 ^ (bits * i)) 32 < bound then some (sx (a / 2 ^ (bits * i)) 32).toNat
  else none

/-- A lane is valid where its index lies below the bound. -/
theorem laneIndex_eq_some {bits bound a i o : Nat} :
    laneIndex bits bound a i = some o ↔ (0 ≤ sx (a / 2 ^ (bits * i)) 32 ∧ sx (a / 2 ^ (bits * i)) 32 < bound)
      ∧ (sx (a / 2 ^ (bits * i)) 32).toNat = o := by
  simp [laneIndex]

/-- The valid lanes are those whose index is valid. -/
theorem mem_indexLanes {bits bound a : Nat} {l : Nat × Nat} :
    l ∈ indexLanes bits bound a ↔ l.1 < 512 / bits ∧ laneIndex bits bound a l.1 = some l.2 := by
  obtain ⟨i, o⟩ := l
  rw [laneIndex_eq_some]
  simp only [indexLanes, List.mem_filterMap, List.mem_range, Option.ite_none_right_eq_some, Option.some.injEq,
    Prod.mk.injEq]
  constructor
  · rintro ⟨j, hj, hvalid, rfl, rfl⟩
    exact ⟨hj, hvalid, rfl⟩
  · rintro ⟨hi, hvalid, ho⟩
    exact ⟨i, hi, hvalid, rfl, ho⟩

/-- The lanes of an access that are valid, by their numbers. -/
theorem mem_fst_indexLanes {bits bound a j : Nat} :
    j ∈ (indexLanes bits bound a).map Prod.fst ↔ j < 512 / bits ∧ (laneIndex bits bound a j).isSome = true := by
  simp [mem_indexLanes, Option.isSome_iff_exists]

/-- What the valid lane of a number finds, if there is one. -/
theorem findSome?_indexLanes {bits bound a j : Nat} (val : Nat → Nat) (hj : j < 512 / bits) :
    (indexLanes bits bound a).findSome? (fun l => if l.1 = j then some (val l.2) else none)
      = (laneIndex bits bound a j).map val := by
  cases hlane : laneIndex bits bound a j with
  | none =>
    refine List.findSome?_eq_none_iff.mpr fun l hl => if_neg ?_
    rintro rfl
    have hsome := (mem_indexLanes.mp hl).2
    rw [hlane] at hsome
    cases hsome
  | some o =>
    have hmem : (j, o) ∈ indexLanes bits bound a := mem_indexLanes.mpr ⟨hj, hlane⟩
    have hfound : ((indexLanes bits bound a).findSome? fun l => if l.1 = j then some (val l.2) else none).isSome := by
      rw [List.findSome?_isSome_iff]
      exact ⟨_, hmem, by simp⟩
    obtain ⟨v, hv⟩ := Option.isSome_iff_exists.mp hfound
    obtain ⟨l, hl, hval⟩ := List.exists_of_findSome?_eq_some hv
    have hindex := (mem_indexLanes.mp hl).2
    split at hval
    · next heq =>
      rw [heq, hlane] at hindex
      cases hindex
      cases hval
      exact hv
    · cases hval

/-! ### The gather -/

/-- The bits that a lane of an `ldx` reads, zero where it reads none. -/
def LaneLoad.value : LaneLoad → Nat
  | .ok v => v
  | _ => 0

/-- A number of elements gathered: one lane for each, the invalid ones zero. -/
def gathered (bits bound a : Nat) (val : Nat → Nat) : Nat :=
  joinLanes bits ((List.range (512 / bits)).map fun i => ((laneIndex bits bound a i).map val).getD 0)

/-- Lanes that fit an operand. -/
theorem gathered_lt (bits bound a : Nat) (val : Nat → Nat) : gathered bits bound a val < 2 ^ 512 :=
  joinLanes_lt_of_le (by simpa using Nat.mul_div_le 512 bits)

/-- A lane of a gather whose values fit. -/
theorem gathered_lane {bits bound a j : Nat} {val : Nat → Nat} (hj : j < 512 / bits)
    (hval : ∀ o, laneIndex bits bound a j = some o → val o < 2 ^ bits) :
    gathered bits bound a val / 2 ^ (bits * j) % 2 ^ bits = ((laneIndex bits bound a j).map val).getD 0 := by
  refine joinLanes_map_field hj ?_
  cases hlane : laneIndex bits bound a j with
  | none => exact Nat.two_pow_pos bits
  | some o => exact hval o hlane

section
variable {s : State} {e : OpEnv} {d : StreamDesc} {x : StreamSt} {pf : PageFmt}

/-- The lanes that an `ldx` finds valid. -/
def OpEnv.ldxLanes (e : OpEnv) (d : StreamDesc) (x : StreamSt) : List (Nat × Nat) :=
  indexLanes (d.bits x) (nth d.bounds 0 0) e.a

/-- What an `ldx` gathers. -/
def OpEnv.ldxValue (e : OpEnv) (d : StreamDesc) (x : StreamSt) (val : Nat → Nat) : Nat :=
  gathered (d.bits x) (nth d.bounds 0 0) e.a val

/-- Its lanes, looked up one by one. -/
theorem OpEnv.ldxValue_eq (e : OpEnv) (d : StreamDesc) (x : StreamSt) (val : Nat → Nat) :
    joinLanes (d.bits x) ((List.range (512 / d.bits x)).map fun i =>
        ((e.ldxLanes d x).findSome? fun l => if l.1 = i then some (val l.2) else none).getD 0)
      = e.ldxValue d x val := by
  refine congrArg (joinLanes (d.bits x)) (List.map_congr_left fun i hi => ?_)
  rw [OpEnv.ldxLanes, findSome?_indexLanes val (List.mem_range.mp hi)]

/-- What an `ldx` reads at an index. -/
def OpEnv.ldxRead (e : OpEnv) (s : State) (d : StreamDesc) (x : StreamSt) (pf : PageFmt) (o : Nat) : Nat :=
  (s.ldxLane e.ctx e.k d x pf o).value

/-- Every valid lane of an `ldx` is at hand. -/
def OpEnv.LanesReady (e : OpEnv) (s : State) (d : StreamDesc) (x : StreamSt) (pf : PageFmt) : Prop :=
  ∀ j o, j < 512 / d.bits x → laneIndex (d.bits x) (nth d.bounds 0 0) e.a j = some o →
    s.ldxLane e.ctx e.k d x pf o = .ok (e.ldxRead s d x pf o) ∧ e.ldxRead s d x pf o < 2 ^ d.bits x

/-- `ldx` whose valid lanes are at hand gathers them, with the mask of the lanes that it read. -/
theorem ldxGo_gathers (h : Issues s e.f e) (hx : e.strm? = some (d, x)) (hfmt : x.fmt = some pf)
    (hready : e.LanesReady s d x pf) (hfree : e.ldxHeld x = false) :
    ldxGo s e = .done s (e.loads 0x05 (e.ldxValue d x (e.ldxRead s d x pf)) id
      [⟨e.t + 7, e.pe, e.ops, .ldxMask e.key (maskOf ((e.ldxLanes d x).map Prod.fst))⟩]) := by
  have hstrm := OpEnv.stream_of_strm? hx
  have hknown : (e.k.run.stream e.key).fmt.isSome = true := by rw [hstrm, hfmt]; rfl
  have hlanes : indexLanes (d.bits x) (nth d.bounds 0 0) e.a = e.ldxLanes d x := rfl
  have hloads : ((e.ldxLanes d x).map fun l => (l.1, s.ldxLane e.ctx e.k d x pf l.2))
      = (e.ldxLanes d x).map fun l => (l.1, LaneLoad.ok (e.ldxRead s d x pf l.2)) := by
    refine List.map_congr_left fun l hl => ?_
    obtain ⟨hj, ho⟩ := mem_indexLanes.mp hl
    rw [(hready l.1 l.2 hj ho).1]
  have hnone {β : Type} (ls : List (Nat × Nat)) : ls.findSome? (fun _ => (none : Option β)) = none :=
    List.findSome?_eq_none_iff.mpr fun _ _ => rfl
  have hfalse (ls : List (Nat × Nat)) : ls.any (fun _ => false) = false :=
    List.any_eq_false.mpr fun _ _ => Bool.false_ne_true
  simp only [ldxGo, hx, State.fixFmt_known s _ _ d 1 hknown, State.stream_of_kernel _ h.kernel, hstrm, hfmt, hlanes,
    hloads]
  simp only [List.findSome?_map, List.any_map, List.filterMap_map, Function.comp_def, hnone, hfalse, hfree,
    Bool.false_eq_true, or_self, if_false, List.filterMap_eq_map', OpEnv.ldxValue_eq]
  rfl

end

end Sys2Proof.Machine
end

section
/-! The stores and the scratchpad reads of an MPE, together (08 R244, R249 to R251). -/
namespace Sys2Proof.Machine

/-- Settles O11: a store lands the plan that is paid for (`storeGives_of_writeWord`, `stxGo_paid`), a scratchpad word is
read and written where its core lies in the region (`ldsGo_plain`, `stsGo_inside`), and `ldx` gathers the lanes that it
reads (`ldxGo_gathers`). -/
theorem mpeStores : Obligations.MpeStores := by
  refine ⟨?stores, ?scratchpads⟩
  case stores =>
    intro f s t e d h hp key x hd hfmt hok plan paid stores w back v elems
    obtain rfl := opEnv_f h.1
    have hx : e.strm? = some (d, x) := OpEnv.strm?_of_some hd
    have hplan {p : StorePlan} : paid p → PlanPaid s t e p := fun ⟨hwait, hwalks, hheld, hfree, hpay⟩ =>
      ⟨hwait, hwalks, hheld, hfree, hpay⟩
    refine ⟨fun hfull => issueWith_late h (hp 0x03) (stGo_full hx hfull), fun hfull hpaid => ?st,
      fun hback htail hpaid => ?stk, fun hlow => issueWith_done h (hp 0x04) (stkGo_under hx hlow), fun hpaid => ?stx⟩
    case st =>
      exact storeGives_of_writeWord h hp rfl hd hfmt hok (stGo_word hx hfull) (d.advance_u e.t 1) (hplan hpaid)
    case stk =>
      exact storeGives_of_writeWord h hp rfl hd hfmt hok (stkGo_word hx hback htail) (fun _ => rfl) (hplan hpaid)
    case stx =>
      obtain ⟨run, hgo, hu⟩ := stxGo_paid h hx hfmt hok (hplan hpaid)
      exact ⟨run, (issueWith_done h (hp 0x06) hgo).trans (by rw [OpEnv.storeRec_eq rfl]; rfl), hu e.k.run⟩
  case scratchpads =>
    intro f s t e d h hp rmt core pa l key x gives mask
    obtain rfl := opEnv_f h.1
    have hgives {u : State} {i : Instr} {go : State → OpEnv → Issue} {opc l n : Nat} {more : List Landing} {v : Wide}
        (hi : exec i s = issueWith .mpe opc e.f s go) (hl : opLatency .mpe opc e.f = l) (hv : BitVec.ofNat 512 n = v)
        (hgo : go s e = .done u (e.loads opc n id more)) : gives u i opc l v more :=
      hi.trans ((issueWith_done h (hp opc) hgo).trans (by rw [OpEnv.loads_eq hl hv]))
    refine ⟨fun hin hpay => ⟨fun hs hplain => ?lds, ?sts⟩, fun hout => ⟨?ldsOutside, ?stsOutside⟩,
      ?ldx⟩
    case lds => exact hgives rfl rfl rfl (ldsGo_plain hin hpay hs hplain)
    case sts => exact issueWith_done h (hp 0x08) (stsGo_inside hin hpay)
    case ldsOutside => exact hgives rfl rfl rfl (ldsGo_outside hout)
    case stsOutside => exact issueWith_done h (hp 0x08) (stsGo_outside hout)
    case ldx =>
      intro pf hd hfmt _ n got hloads hfree
      have hx : e.strm? = some (d, x) := OpEnv.strm?_of_some hd
      have hready : e.LanesReady s d x pf := by
        intro j o hj ho
        obtain ⟨⟨hlow, hhigh⟩, rfl⟩ := laneIndex_eq_some.mp ho
        obtain ⟨b, hb, hfits⟩ := hloads j _ hj rfl hlow hhigh
        rw [OpEnv.ldxRead, hb]
        exact ⟨rfl, hfits⟩
      have hgot {j : Nat} (hj : j < n) :
          got j = (laneIndex (d.bits x) (nth d.bounds 0 0) e.a j).map (e.ldxRead s d x pf) := by
        simp only [got]
        split
        · next hvalid =>
          have hindex := laneIndex_eq_some.mpr ⟨hvalid, rfl⟩
          rw [(hready j _ hj hindex).1, hindex]
          rfl
        · next hvalid =>
          rw [laneIndex, if_neg hvalid]
          rfl
      refine ⟨_, _, hgives rfl rfl rfl (ldxGo_gathers h hx hfmt hready hfree), fun j hj => ?_, fun j hj => ?_⟩
      · rw [OpEnv.ldxValue, BitVec.toNat_ofNat, Nat.mod_eq_of_lt (gathered_lt ..), hgot hj]
        exact gathered_lane hj fun o ho => (hready j o hj ho).2
      · rw [getLsbD_maskOf _ hj, Bool.eq_iff_iff, Bool.and_eq_true, decide_eq_true_eq, decide_eq_true_eq]
        refine mem_fst_indexLanes.trans (and_congr_right fun hj => ?_)
        rw [hgot hj, Option.isSome_map]

end Sys2Proof.Machine
end

section
/-! The control ops of an MPE: messages, order, U, prefetch and write-back (08 R252 to R255). -/
namespace Sys2Proof.Machine

section
variable {s t : State} {e : OpEnv} {d : StreamDesc} {x : StreamSt}

/-- The bytes of a message (08 R252). -/
def OpEnv.atmSize (e : OpEnv) : Nat := if e.f.ty = 7 ∨ e.f.ty = 8 then 8 else 4

/-- The virtual address that a message goes to. -/
def OpEnv.atmVa (e : OpEnv) : Nat := e.a % 2 ^ 57 / e.atmSize * e.atmSize

/-- The message of an `atm`. -/
def OpEnv.atmMsg (e : OpEnv) : AtmMsg := ⟨e.pe, e.ops, e.key, e.t, e.atmVa, e.f.modBits 4 2, e.f.ty, Word.of e.b⟩

/-- `atm` whose bytes are paid for at the classes of its place. -/
theorem atmGo_paid (ht : s.spend e.k.cluster
      (s.cost (((s.aimOf e.ctx e.k.cluster e.atmVa).map s.atomClasses).getD [2]) e.atmSize) (.op e.ctx e.kh e.pe) = some t) :
    atmGo s e = .done t { run := fun r => { r with atms := r.atms ++ [e.atmMsg] } } :=
  State.opSpend_some _ ht

/-- Only the low bits of a number stand in a bit vector. -/
theorem ofNat_mod_two_pow (n v : Nat) : BitVec.ofNat n (v % 2 ^ n) = BitVec.ofNat n v := by
  refine BitVec.eq_of_toNat_eq ?_
  rw [BitVec.toNat_ofNat, BitVec.toNat_ofNat, Nat.mod_mod]

/-- The order that an `sbar` puts in force. -/
def OpEnv.sbarHold (e : OpEnv) : SbarHold := ⟨e.core, BitVec.ofNat 24 e.a, BitVec.ofNat 24 (e.a / 2 ^ 24), e.t⟩

/-- `sbar`. -/
theorem execSbar_issues (h : Issues s e.f e) (hp : e.portLate .mpe 0x0B = false) :
    exec (.sbar e.f) s = .next (issued s e .mpe 0x0B { run := fun r => { r with sbars := r.sbars ++ [e.sbarHold] } }) := by
  have hhold : BitVec.ofNat 24 (bitsOf e.a 23 0) = BitVec.ofNat 24 e.a := by
    rw [bitsOf, ofNat_mod_two_pow, Nat.pow_zero, Nat.div_one]
  have hwait : BitVec.ofNat 24 (bitsOf e.a 47 24) = BitVec.ofNat 24 (e.a / 2 ^ 24) := ofNat_mod_two_pow 24 _
  change execSbar e.f s = _
  refine (issueOp_never _ h hp).trans ?_
  rw [hhold, hwait]
  rfl

/-- `sadv`. -/
theorem execSadv_issues (h : Issues s e.f e) (hp : e.portLate .mpe 0x0C = false) (hx : e.strm? = some (d, x)) :
    exec (.sadv e.f) s = .next (issued s e .mpe 0x0C { run := e.onStream (d.advance e.t (e.a % 2 ^ 16)) }) := by
  change execSadv e.f s = _
  refine (issueOp_never _ h hp).trans ?_
  rw [hx]

/-- `pfh`. -/
theorem execPfh_issues (h : Issues s e.f e) (hp : e.portLate .mpe 0x0D = false) (hx : e.strm? = some (d, x)) :
    exec (.pfh e.f) s = .next (issued s e .mpe 0x0D
      { run := e.onStream fun x => d.topUp e.t (pfhDepth d e.a) { x with pref := pfhDepth d e.a } }) := by
  change execPfh e.f s = _
  refine (issueOp_never _ h hp).trans ?_
  rw [hx]

/-- The prefetch depth where fills issue word by word (08 R254). -/
theorem pfhDepth_of_one (hg : groupWords d.deliv = 1) (v : Nat) :
    pfhDepth d v = max 64 (min (64 * (v % 2 ^ 32 / 64)) (2 ^ d.wlog - d.ret)) := by
  simp only [pfhDepth, hg, if_true, Nat.mul_comm]

/-- `wsync` of a STORE stream. -/
theorem execWsync_store (h : Issues s e.f e) (hp : e.portLate .mpe 0x0E = false) (hx : e.strm? = some (d, x))
    (hstore : d.store = true) :
    exec (.wsync e.f) s = .next (issued s e .mpe 0x0E { run := e.onStream (d.writeBack e.t (· < x.u / 64)) }) := by
  change execWsync e.f s = _
  refine (issueOp_never _ h hp).trans ?_
  simp only [hx, hstore, if_true]

/-- `wsync` of a LOAD stream that has not failed. -/
theorem execWsync_load (h : Issues s e.f e) (hp : e.portLate .mpe 0x0E = false) (hx : e.strm? = some (d, x))
    (hload : d.store = false) (hkind : d.kind ≠ .indexed) (hok : x.failed = false) :
    exec (.wsync e.f) s = .next (issued s e .mpe 0x0E { run := e.onStream fun y => y.refillFrom e.t (y.u / 64) d }) := by
  change execWsync e.f s = _
  refine (issueOp_never _ h hp).trans ?_
  simp only [hx, hload, hkind, hok, Bool.false_eq_true, or_self, if_false]

end

end Sys2Proof.Machine
end

section
/-! The conversions of the op ring of a DPE (09 R278, R279). -/
namespace Sys2Proof.Machine

/-- A bit of a field of ones. -/
theorem testBit_ones_mul_two_pow (n i j : Nat) :
    ((2 ^ n - 1) * 2 ^ i).testBit j = decide (i ≤ j ∧ j < i + n) := by
  rw [Nat.testBit_mul_two_pow, Nat.testBit_two_pow_sub_one, ← Bool.decide_and, decide_eq_decide]
  omega

/-- A number of n bits has no bit outside its field. -/
theorem testBit_mul_two_pow_of_outside {c n i j : Nat} (hc : c < 2 ^ n) (hj : ¬(i ≤ j ∧ j < i + n)) :
    (c * 2 ^ i).testBit j = false := by
  rw [Nat.testBit_mul_two_pow]
  by_cases hij : i ≤ j
  · rw [Nat.testBit_lt_two_pow (Nat.lt_of_lt_of_le hc (Nat.pow_le_pow_right (by decide) (by omega))), Bool.and_false]
  · simp [hij]

/-- A field of a number moved up by some bits. -/
theorem mul_two_pow_field (c q i w : Nat) : c * 2 ^ q / 2 ^ (q + i) % 2 ^ w = c / 2 ^ i % 2 ^ w := by
  rw [Nat.pow_add, ← Nat.div_div_eq_div_mul, Nat.mul_div_cancel _ (Nat.two_pow_pos q)]

section
variable (tgt q : Nat) (sat : Bool) (a : Nat)

/-- The code of an FP32 lane in the format of a target. -/
def cvtCode (i : Nat) : Nat := (cvtFmt tgt).enc (Fmt.f32.dec (laneNat 9 a i)) .rne sat

/-- The bits of the codes of sixteen lanes. -/
def cvtBits : Nat := 16 * (cvtFmt tgt).width

/-- The codes of sixteen lanes, joined. -/
def cvtJoined : Nat := joinLanes (cvtFmt tgt).width ((List.range 16).map (cvtCode tgt sat a))

theorem cvtJoined_lt : cvtJoined tgt sat a < 2 ^ cvtBits tgt :=
  joinLanes_lt_of_le (by simp [cvtBits, Nat.mul_comm])

/-- The mask and the codes of a `dcvs` stand in chunk q. -/
theorem cvtPlace_eq : cvtPlace tgt q sat a
    = ((2 ^ cvtBits tgt - 1) * 2 ^ (q * cvtBits tgt), cvtJoined tgt sat a * 2 ^ (q * cvtBits tgt)) := by
  have hbits : 8 * (2 * (cvtFmt tgt).width) = cvtBits tgt := by rw [cvtBits]; omega
  simp only [cvtPlace, cvtCodes, hbits, Nat.mul_comm _ q]
  rfl

end

/-- The landing of a conversion in CR, two cycles after its issue (09 R279). -/
def OpEnv.crLanding (e : OpEnv) (m v : Wide) : Landing :=
  ⟨e.t + 1, e.pe, e.ops, .cr m v (e.f.l0c = 1) (e.f.l1c = 1)⟩

theorem OpEnv.crLand_eq (e : OpEnv) (m v : Nat) :
    e.crLand m v = e.crLanding (BitVec.ofNat 512 m) (BitVec.ofNat 512 v) := rfl

/-- The record of a conversion keeps the 512 bits of its value. -/
theorem OpEnv.record_value (e : OpEnv) (kind : PeKind) (opc lat form xpos v : Nat) :
    e.record kind opc lat form xpos v 0 0 = e.record kind opc lat form xpos (BitVec.ofNat 512 v).toNat 0 0 := by
  rw [OpEnv.record, OpEnv.record, ofNat_toNat_wide]

/-- The lanes that a `dcvs` writes, in chunk q. -/
def OpEnv.cvtMask (e : OpEnv) : Wide :=
  BitVec.ofNat 512 ((2 ^ cvtBits (e.f.modBits 2 0) - 1) * 2 ^ (e.f.modBits 6 5 * cvtBits (e.f.modBits 2 0)))

/-- The codes of a `dcvs` at their place. -/
def OpEnv.cvtValue (e : OpEnv) : Wide :=
  BitVec.ofNat 512 (cvtJoined (e.f.modBits 2 0) (e.f.mod.getLsbD 3) e.a
    * 2 ^ (e.f.modBits 6 5 * cvtBits (e.f.modBits 2 0)))

/-- `dcvs` in the op ring. -/
theorem execDcvsOp_issues {s : State} {e : OpEnv} (h : Issues s e.f e) :
    exec (.dcvsOp e.f) s = .next (issued s e .dpe 0x12
      { lands := [e.crLanding e.cvtMask e.cvtValue], recs := e.record .dpe 0x12 2 1 0 e.cvtValue.toNat 0 0 }) := by
  change execDcvsOp e.f s = _
  refine (issueOp_never _ h (portLate_of_ne 0x12 (by decide))).trans ?_
  simp only [cvtPlace_eq, OpEnv.crLand_eq]
  rw [OpEnv.record_value]
  rfl

section
variable {e : OpEnv} {j : Nat}

/-- The bits of its mask. -/
theorem OpEnv.cvtMask_bit (hj : j < 512) :
    let n := cvtBits (e.f.modBits 2 0)
    e.cvtMask.getLsbD j = decide (e.f.modBits 6 5 * n ≤ j ∧ j < e.f.modBits 6 5 * n + n) := by
  intro n
  rw [OpEnv.cvtMask, BitVec.getLsbD_ofNat, decide_eq_true hj, Bool.true_and, testBit_ones_mul_two_pow]

/-- Outside its mask no bit of its codes is set. -/
theorem OpEnv.cvtValue_outside (hj : j < 512) (hm : e.cvtMask.getLsbD j = false) : e.cvtValue.getLsbD j = false := by
  rw [OpEnv.cvtMask_bit hj, decide_eq_false_iff_not] at hm
  rw [OpEnv.cvtValue, BitVec.getLsbD_ofNat, testBit_mul_two_pow_of_outside (cvtJoined_lt ..) hm, Bool.and_false]

/-- The code of a lane at its place, where the chunk lies in the register. -/
theorem OpEnv.cvtValue_lane (hj : j < 16)
    (hfit : e.f.modBits 6 5 * cvtBits (e.f.modBits 2 0) + cvtBits (e.f.modBits 2 0) ≤ 512) :
    let w := (cvtFmt (e.f.modBits 2 0)).width
    e.cvtValue.toNat / 2 ^ (e.f.modBits 6 5 * cvtBits (e.f.modBits 2 0) + w * j) % 2 ^ w
      = cvtCode (e.f.modBits 2 0) (e.f.mod.getLsbD 3) e.a j % 2 ^ w := by
  intro w
  have hlt : cvtJoined (e.f.modBits 2 0) (e.f.mod.getLsbD 3) e.a * 2 ^ (e.f.modBits 6 5 * cvtBits (e.f.modBits 2 0))
      < 2 ^ 512 := by
    refine Nat.lt_of_lt_of_le (Nat.mul_lt_mul_of_pos_right (cvtJoined_lt ..) (Nat.two_pow_pos _)) ?_
    rw [← Nat.pow_add]
    exact Nat.pow_le_pow_right (by decide) (by omega)
  rw [OpEnv.cvtValue, BitVec.toNat_ofNat, Nat.mod_eq_of_lt hlt, mul_two_pow_field, cvtJoined, joinLanes_lane]
  simp [List.getD, hj, w]

end

end Sys2Proof.Machine
end

section
/-! The masked-packed forms (09 R280). -/
namespace Sys2Proof.Machine

/-- A pattern of ones. -/
theorem ofNat_two_pow_sub_one (n : Nat) : BitVec.ofNat n (2 ^ n - 1) = BitVec.allOnes n := by
  refine BitVec.eq_of_toNat_eq ?_
  rw [BitVec.toNat_ofNat, BitVec.toNat_allOnes, Nat.mod_eq_of_lt (Nat.sub_lt (Nat.two_pow_pos n) Nat.one_pos)]

section
variable {s : State} {e : OpEnv} {d : StreamDesc} {esz p : Nat} {cs : List Nat}

/-- The stream that a masked-packed form expands. -/
def OpEnv.mpxKey (e : OpEnv) : Nat := streamKey e.core (e.f.mod.getLsbD 4) e.f.stream

/-- Its state at issue. -/
def OpEnv.mpxStream (e : OpEnv) : StreamSt := e.k.run.stream e.mpxKey

/-- The events before an expansion: the first byte may lie below the tail (08 R237). -/
def OpEnv.mpxCheck (e : OpEnv) (d : StreamDesc) (r : Run) : Run :=
  if !e.mpxStream.failed ∧ e.mpxStream.bp / 64 < d.tail e.mpxStream then e.underrun r else r

/-- What an expansion does to the round: its byte position moves to p. -/
def OpEnv.mpxRun (e : OpEnv) (d : StreamDesc) (p : Nat) (r : Run) : Run :=
  let y := (e.mpxCheck d r).stream e.mpxKey
  ((e.mpxCheck d r).putStream e.mpxKey (d.advance e.t (p / 64 - y.u / 64) { y with bp := p })).tellFail
    e.pe e.ops e.mpxKey (e.mpxStream.bp / 64)

theorem OpEnv.mpxRun_bp (e : OpEnv) (d : StreamDesc) (p : Nat) (r : Run) :
    ((e.mpxRun d p r).stream e.mpxKey).bp = p := by simp [OpEnv.mpxRun]

/-- A first byte below the tail raises 0x0202. -/
theorem OpEnv.mpxRun_underrun (p : Nat) (r : Run) (hok : e.mpxStream.failed = false)
    (hlow : e.mpxStream.bp / 64 < d.tail e.mpxStream) :
    0x0202#16 ∈ (e.mpxRun d p r).events.map TrapEvent.cause := by
  have hcheck : e.mpxCheck d r = e.underrun r := if_pos ⟨by rw [hok]; rfl, hlow⟩
  refine List.mem_map.mpr ⟨⟨r.vcc, e.pe, e.ops, 0, 0x0202#16, peInfo e.core e.slot e.ops e.f.stream⟩,
    Run.mem_events_tellFail _ _ _ _ _ ?_, rfl⟩
  rw [hcheck]
  exact List.mem_append_right _ (List.mem_singleton_self _)

/-- A form whose bytes have arrived replaces CR by the codes of its groups. -/
theorem mpxGo_expands (hd : e.k.strm? e.mpxKey = some d)
    (hbytes : expandGroups (d.byteAt e.mpxStream) esz (4 / esz) e.mpxStream.bp = .ok (cs, p)) :
    mpxGo esz s e = .done s
      { lands := [e.crLanding (BitVec.allOnes 512) (BitVec.ofNat 512 (joinLanes (8 * esz) cs))], run := e.mpxRun d p,
        recs := e.record .dpe 0x12 2 1 0 (joinLanes (8 * esz) cs) 0 0 } := by
  unfold OpEnv.mpxStream OpEnv.mpxKey at *
  simp only [mpxGo, hd, hbytes, OpEnv.crLand_eq, ofNat_two_pow_sub_one]
  rfl

/-- A form waits for the first of its bytes that has not arrived. -/
theorem mpxGo_waits (hd : e.k.strm? e.mpxKey = some d)
    (hbytes : expandGroups (d.byteAt e.mpxStream) esz (4 / esz) e.mpxStream.bp = .error p) :
    ∃ t, mpxGo esz s e = .late t := by
  unfold OpEnv.mpxStream OpEnv.mpxKey at *
  simp only [mpxGo, hd, hbytes]
  exact ⟨_, rfl⟩

end

end Sys2Proof.Machine
end

section
/-! The control ops and the conversions, together (08 R252 to R255, 09 R278 to R280). -/
namespace Sys2Proof.Machine

/-- Settles O12: each control op is one change of the round (`atmGo_paid`, `issueOp_never`); `dcvs` writes one chunk of CR
(`cvtPlace_eq`), and a masked-packed form replaces it whole or waits (`mpxGo_expands`, `mpxGo_waits`). -/
theorem mpeControl : Obligations.MpeControl := by
  refine ⟨?control, ?conversion⟩
  case control =>
    intro f s t e d h hp key x n msg hold does on classes
    obtain rfl := opEnv_f h.1
    refine ⟨fun hpay => issueWith_done h (hp 0x0A) (atmGo_paid hpay), execSbar_issues h (hp 0x0B), fun hd => ?streams⟩
    have hx : e.strm? = some (d, x) := OpEnv.strm?_of_some hd
    refine ⟨⟨_, execSadv_issues h (hp 0x0C) hx, ?sadv⟩, fun hg => ⟨_, execPfh_issues h (hp 0x0D) hx, ?pfh⟩,
      fun hstore => execWsync_store h (hp 0x0E) hx hstore,
      fun hload hkind hok => execWsync_load h (hp 0x0E) hx hload hkind hok⟩
    case sadv =>
      exact (congrArg StreamSt.u (e.stream_onStream _ e.k.run)).trans (d.advance_u e.t _ x)
    case pfh =>
      refine (congrArg StreamSt.pref (e.stream_onStream _ e.k.run)).trans ?_
      rw [StreamDesc.topUp_pref, pfhDepth_of_one hg]
  case conversion =>
    intro f s e d h g n q key x land mpx
    obtain rfl := opEnv_f h.1
    have hp : e.portLate .dpe 0x12 = false := portLate_of_ne 0x12 (by decide)
    have hmpx {i : Instr} {esz : Nat} (hi : exec i s = issueWith .dpe 0x12 e.f s (mpxGo esz))
        (hd : e.k.strm? key = some d) : mpx i esz := by
      refine ⟨fun cs p hbytes => ?_, fun p hbytes => ?_⟩
      · exact ⟨e.mpxRun d p, hi.trans (issueWith_done h hp (mpxGo_expands hd hbytes)), e.mpxRun_bp d p _,
          fun hok hlow => e.mpxRun_underrun p _ hok hlow⟩
      · obtain ⟨t, ht⟩ := mpxGo_waits (s := s) hd hbytes
        exact ⟨t, hi.trans (issueWith_late h hp ht)⟩
    exact ⟨fun _ hfit => ⟨e.cvtMask, e.cvtValue, execDcvsOp_issues h, fun j hj => OpEnv.cvtMask_bit hj,
        fun j hj => OpEnv.cvtValue_lane hj hfit, fun j hj hm => OpEnv.cvtValue_outside hj hm⟩,
      fun hd => ⟨hmpx rfl hd, hmpx rfl hd⟩⟩

end Sys2Proof.Machine
end

section
/-! A fill that arrives below the tail, and a stream whose tail has passed the word of its fill. -/
namespace Sys2Proof.Machine

/-- A table none of whose entries at a key passes a test has none there behind the test. -/
theorem Tab.get?_filter_eq_none {α : Type} {t : Tab α} {p : Nat × α → Bool} {k : Nat} (h : ∀ v, p (k, v) = false) :
    Tab.get? (t.filter p) k = none := by
  induction t with
  | nil => rfl
  | cons c t ih =>
    obtain ⟨a, v⟩ := c
    by_cases ha : a = k
    · subst ha
      rw [List.filter_cons, h v]
      exact ih
    · rw [List.filter_cons]
      split
      · rw [Tab.get?, if_neg ha, ih]
      · exact ih

/-- A word that arrives below the tail leaves the window at once (08 R236). -/
theorem StreamDesc.arrive_below {d : StreamDesc} {x : StreamSt} {w : Nat} (cyc : Nat) (ws : List Nat)
    (data : List (Nat × Nat)) (ex : Nat) (frames : Nat → List Nat) (h : w < d.tail x) :
    Tab.get? (d.arrive cyc x ws data ex frames).win w = none :=
  Tab.get?_filter_eq_none fun _ => decide_eq_false (Nat.not_le.mpr h)

/-- A kernel with a state of its stream 0. -/
def Kernel.ofStream (x : StreamSt) : Kernel := { run := { streams := [(0, x)] } }

/-- A kernel with the fill of word 0 out. -/
def Kernel.firstOut : Kernel := Kernel.ofStream { fills := [{ word := 0 }] }

/-- A state whose kernel has U at word 1. -/
def State.pastFirst : State := { ctxs := [(0, { kernels := [(0, Kernel.ofStream { u := 64 })] })] }

/-- The tail of its stream has passed word 0. -/
theorem State.pastFirst_tail : 0 < ({} : StreamDesc).tail (State.pastFirst.stream 0 0 0) := by decide

/-- Some fault record; the clause refuted speaks of none. -/
def FaultRec.blank : FaultRec :=
  { fid := 0, page := 0, va := 0, cause := 0, path := 0, acc := 0, unit := 0, gtc := 0, posted := false, waiters := [] }

/-- Refutes O38: the clause on what the window holds behind a return takes the tail from the stream of the kernel k, but
the words arrive in the stream of the state t, and nothing ties t to k. Here k has the fill of word 0 out and its tail
at word 0; in t the tail is word 1, so that word 0 leaves the window as it arrives (`StreamDesc.arrive_below`). The
clause lacks the hypothesis that t is what `payFills` answers of a state with k. -/
theorem not_streamFills : ¬ Obligations.StreamFills := by
  intro h
  obtain ⟨-, -, hwindow, -⟩ := h {} State.pastFirst {} 0 0 0 0 false Kernel.firstOut {} ⟨0, false, 0⟩ FaultRec.blank
    [(0, 0)] 0 0 0
  obtain ⟨w, hword, -⟩ := hwindow (by decide) (by decide) 0 (by decide) (by decide) rfl
  exact Option.some_ne_none w (hword.symm.trans (StreamDesc.arrive_below _ _ _ _ _ State.pastFirst_tail))

end Sys2Proof.Machine
end

section
/-! What a drain word leaves behind: its registers, its lanes, and the change of its round (09 R258 to R265). -/
namespace Sys2Proof.Machine

section
variable {s t : State} {e : DEnv} {i : Instr} {dd : BitVec 4} {g : DEnv → Nat} {ty : Nat}

/-- A drain word whose access is not late. -/
theorem drainWith_done {go : State → DEnv → DRes} {regs : BitVec 8192} {lens : List Nat} {ls : List Landing}
    {run : Run → Run} (he : s.drainEnv = some e) (hgo : go s e = .done t regs lens ls run) :
    drainWith s go = .next (wordDone t e regs lens ls run) := by
  simp only [drainWith, he, hgo, wordDone]

/-- A drain word whose access is late. -/
theorem drainWith_late {go : State → DEnv → DRes} (he : s.drainEnv = some e) (hgo : go s e = .late t) :
    drainWith s go = .next (t.lateWord e) := by
  simp only [drainWith, he, hgo]

/-- A drain word that forms a value for one register. -/
theorem DrainSets.of_drainSet {n : DEnv → Nat} {v : Wide} {m : Nat} (he : s.drainEnv = some e)
    (hi : exec i s = drainSet s dd g n) (hv : BitVec.ofNat 512 (g e) = v) (hm : n e = m) : DrainSets i s e dd v m := by
  subst hv hm
  exact hi.trans (drainWith_done he rfl)

/-- A drain word that forms patterns lane by lane. -/
theorem DrainLanes.of_patterns {p v : Nat → Nat} (he : s.drainEnv = some e) (hi : exec i s = drainSet s dd g)
    (hg : g e = mapLanes ty p) (hv : ∀ j, p j = v j ∧ v j < 2 ^ typeWidth ty) : DrainLanes i s e dd ty v := by
  obtain rfl : p = v := funext fun j => (hv j).1
  exact ⟨_, .of_drainSet he hi (congrArg _ hg) rfl, fun j hj => laneNat_landed hj (hv j).2⟩

/-- A drain word that encodes values lane by lane. -/
theorem DrainLanes.of_floats {rm : Rm} {sat : Bool} (x : Nat → Val) (hty : typeFloat ty = true)
    (he : s.drainEnv = some e) (hi : exec i s = drainSet s dd g)
    (hg : g e = mapLanes ty fun j => (typeFmt ty).enc (x j) rm sat) :
    DrainLanes i s e dd ty fun j => (typeFmt ty).enc (x j) rm sat :=
  .of_patterns he hi hg fun _ => ⟨rfl, typeWidth_of_float hty ▸ Fmt.enc_lt ..⟩

/-- A drain word that forms integers lane by lane. -/
theorem DrainLanes.of_ints (x : Nat → Int) (he : s.drainEnv = some e) (hi : exec i s = drainSet s dd g)
    (hg : g e = mapLanes ty fun j => lowBits (x j) (typeWidth ty)) :
    DrainLanes i s e dd ty fun j => lowBits (x j) (typeWidth ty) :=
  .of_patterns he hi hg fun _ => ⟨rfl, lowBits_lt ..⟩

end

end Sys2Proof.Machine
end

section
/-! The lanewise arithmetic of drain words, the activations and the piecewise-linear function (09 R270 to R272). -/
namespace Sys2Proof

/-- The low bits of a natural number. -/
theorem lowBits_natCast (v n : Nat) : lowBits v n = v % 2 ^ n := by
  rw [lowBits, ← Int.natCast_mod, Int.toNat_natCast]

namespace Machine

section
variable {lt rm : BitVec 2} {sat : Bool} {n ty : Nat} {f : Rm → (Nat → Val) → Val} {i : (Nat → Int) → Int}
  {xs : Nat → Nat → Nat}

/-- A lanewise operation on floats. -/
theorem dArith_float (h : typeFloat (ltTy lt) = true) : dArith lt rm sat n f i xs
    = mapLanes (ltTy lt) fun l => (typeFmt (ltTy lt)).enc
        (f (Rm.of2 rm) fun k => (typeFmt (ltTy lt)).dec (xs k l)) (Rm.of2 rm) sat := by
  simp only [dArith, h, if_true]

/-- A lanewise operation on integers. -/
theorem dArith_int (h : typeFloat (ltTy lt) = false) : dArith lt rm sat n f i xs
    = mapLanes (ltTy lt) fun l =>
        lowBits (if sat then satS (i fun k => sx (xs k l) n) n else i fun k => sx (xs k l) n) n := by
  simp only [dArith, h, Bool.false_eq_true, if_false]
  rfl

/-- A clamp of a float (07 R207). -/
theorem clampLane_float (h : typeFloat ty = true) (x lo hi : Nat) : clampLane ty x lo hi
    = if ((typeFmt ty).dec x).isNan then (typeFmt ty).nan
      else floatExtreme (typeFmt ty) false false (floatExtreme (typeFmt ty) false true x lo) hi := by
  simp only [clampLane, h, if_true]

/-- A clamp of an integer (07 R207). -/
theorem clampLane_int (h : typeFloat ty = false) (x lo hi : Nat) : clampLane ty x lo hi
    = lowBits (min (max (sx x (typeWidth ty)) (sx lo (typeWidth ty))) (sx hi (typeWidth ty))) (typeWidth ty) := by
  simp only [clampLane, h, Bool.false_eq_true, if_false]
  rfl

/-- The magnitude of a float under ABS is its pattern without the sign. -/
theorem absLane_float (h : typeFloat ty = true) (abs : Bool) (x : Nat) :
    absLane ty abs x = ((if abs then x % 2 ^ (typeWidth ty - 1) else x : Nat) : Int) := by
  simp only [absLane, h, if_true]

/-- The magnitude of an integer under ABS is exact. -/
theorem absLane_int (h : typeFloat ty = false) (abs : Bool) (x : Nat) :
    absLane ty abs x = if abs then ((sx x (typeWidth ty)).natAbs : Int) else sx x (typeWidth ty) := by
  simp only [absLane, h, Bool.false_eq_true, if_false]
  rfl

/-- The greater of two floats (07 R198). -/
theorem maxLane_float (h : typeFloat ty = true) (x y : Nat) :
    maxLane ty x y = (floatExtreme (typeFmt ty) false true x y : Nat) := by
  simp only [maxLane, h, if_true, Int.toNat_natCast]

/-- The greater of two integers. -/
theorem maxLane_int (h : typeFloat ty = false) (x y : Int) : maxLane ty x y = max x y := by
  simp only [maxLane, h, Bool.false_eq_true, if_false]

/-- A float lane that a maximum or a minimum gives fits. -/
theorem floatExtreme_lt_lane (h : typeFloat ty = true) (mx : Bool) (x y : Nat) :
    floatExtreme (typeFmt ty) false mx x y < 2 ^ typeWidth ty :=
  typeWidth_of_float h ▸ floatExtreme_lt ..

/-- So does the canonical NaN. -/
theorem nan_lt_lane (h : typeFloat ty = true) : (typeFmt ty).nan < 2 ^ typeWidth ty :=
  typeWidth_of_float h ▸ Fmt.nan_lt _

/-- A lane of `dmax` on floats (09 R270). -/
theorem dmaxLane_float (h : typeFloat ty = true) (abs : Bool) (x y : Nat) :
    lowBits (maxLane ty (absLane ty abs x) (absLane ty abs y)) (typeWidth ty)
      = floatExtreme (typeFmt ty) false true (if abs then x % 2 ^ (typeWidth ty - 1) else x)
          (if abs then y % 2 ^ (typeWidth ty - 1) else y) := by
  rw [absLane_float h, absLane_float h, maxLane_float h, lowBits_natCast, Nat.mod_eq_of_lt (floatExtreme_lt_lane h ..)]

/-- A lane of `dmax` on integers (09 R270). -/
theorem dmaxLane_int (h : typeFloat ty = false) (abs : Bool) (x y : Nat) :
    lowBits (maxLane ty (absLane ty abs x) (absLane ty abs y)) (typeWidth ty)
      = lowBits (max (if abs then ((sx x (typeWidth ty)).natAbs : Int) else sx x (typeWidth ty))
          (if abs then ((sx y (typeWidth ty)).natAbs : Int) else sx y (typeWidth ty))) (typeWidth ty) := by
  rw [absLane_int h, absLane_int h, maxLane_int h]

end

/-- Settles O13: each word forms its lanes from those of its registers (`dArith_float`, `dArith_int` and the lemmas on
one lane), and each lane fits the register that it is written to (`DrainLanes.of_patterns`). -/
theorem drainArithmetic : Obligations.DrainArithmetic := by
  refine ⟨?lanewise, ?functions⟩
  case lanewise =>
    intro dd da db lt rm sat abs j nb s e he ty w fm m x y z flt int d n is top mag size
    refine ⟨fun hty => ?floats, fun hty => ?ints, ?select⟩
    case floats =>
      refine ⟨.of_floats _ hty he rfl (dArith_float hty), .of_floats _ hty he rfl (dArith_float hty),
        .of_floats _ hty he rfl (dArith_float hty), .of_floats _ hty he rfl (dArith_float hty),
        .of_patterns he rfl rfl fun i =>
          ⟨clampLane_float hty .., ite_lt (nan_lt_lane hty) (floatExtreme_lt_lane hty ..)⟩,
        .of_patterns he rfl rfl fun i => ⟨dmaxLane_float hty .., floatExtreme_lt_lane hty ..⟩⟩
    case ints =>
      refine ⟨.of_ints _ he rfl (dArith_int hty), .of_ints _ he rfl (dArith_int hty),
        .of_ints _ he rfl (dArith_int hty),
        .of_patterns he rfl rfl fun i => ⟨clampLane_int hty .., lowBits_lt ..⟩,
        .of_patterns he rfl rfl fun i => ⟨dmaxLane_int hty .., lowBits_lt ..⟩⟩
    case select =>
      refine .of_patterns he rfl rfl fun i => ?_
      rw [apply_ite (laneNat _ · i)]
      exact ⟨rfl, laneCanon_lt (ite_lt (laneNat_lt ..) (laneNat_lt ..))⟩
  case functions =>
    intro dd da db rm fn sat s e he f x v enc act p fused
    have hnan : Fmt.f32.nan < 2 ^ typeWidth 9 := Fmt.nan_lt _
    have henc (u : Val) : enc u < 2 ^ typeWidth 9 := Fmt.enc_lt ..
    refine ⟨fun hfn => ?relu, fun hfn => ?leaky, fun hfn => ?magnitude, ?table⟩
    case relu =>
      subst hfn
      exact .of_patterns he rfl rfl fun i => ⟨rfl, ite_lt hnan (ite_lt (by decide) (laneNat_lt ..))⟩
    case leaky =>
      subst hfn
      exact .of_patterns he rfl rfl fun i => ⟨rfl, ite_lt hnan (ite_lt (henc _) (laneNat_lt ..))⟩
    case magnitude =>
      subst hfn
      exact .of_patterns he rfl rfl fun i =>
        ⟨rfl, ite_lt hnan (Nat.lt_of_le_of_lt (Nat.mod_le ..) (laneNat_lt ..))⟩
    case table =>
      refine .of_patterns he rfl rfl fun i => ⟨?_, ?_⟩
      · show (match segmentOf (p i) with | none => _ | some j => _) = _
        cases p i <;> rfl
      · cases p i
        · exact hnan
        · exact henc _
        · exact henc _

end Machine
end Sys2Proof
end

section
/-! The maximum of a group of beats, and the conversions among the lane types (09 R273, R274). -/
namespace Sys2Proof

/-- A pattern without FTZ reads as its value. -/
theorem Fmt.decFtz_false (fm : Fmt) (x : Nat) : fm.decFtz x false = fm.dec x := by
  simp [Fmt.decFtz]

/-- The formats of the float types: NaN are the patterns above the infinity (02 R42). -/
theorem typeFmt_isNan (ty x : Nat) : ((typeFmt ty).dec x).isNan
    = decide ((typeFmt ty).omega < x % 2 ^ ((typeFmt ty).width - 1)) := by
  have hfmt : typeFmt ty ≠ .e4m3 := by unfold typeFmt; split <;> decide
  simp only [Fmt.dec, typeFmt_tapered, Bool.false_eq_true, if_false, hfmt]
  split
  · next h => simp [Val.isNan, h]
  · split <;> simp_all [Val.isNan]

/-- The sign of a pattern does not make it NaN. -/
theorem typeFmt_isNan_mod (ty x : Nat) : ((typeFmt ty).dec (x % 2 ^ ((typeFmt ty).width - 1))).isNan
    = ((typeFmt ty).dec x).isNan := by
  rw [typeFmt_isNan, typeFmt_isNan, Nat.mod_mod]

namespace Machine

/-! ### The fold over the lanes of a beat -/

/-- Of two numbers the first is the maximum: the greater, or the positive of two zeros (07 R198). -/
def firstIsMax (fm : Fmt) (x y : Nat) : Bool :=
  (fm.dec x).cmp (fm.dec y) == some .gt || ((fm.dec x).cmp (fm.dec y) == some .eq && !(fm.dec x).neg?)

/-- The maximum of a number and a pattern (07 R198). -/
theorem floatExtreme_max {fm : Fmt} {x : Nat} (y : Nat) (hx : (fm.dec x).isNan = false) :
    floatExtreme fm false true x y
      = if (fm.dec y).isNan then fm.enc (fm.dec x) .rne
        else fm.enc (fm.dec (if firstIsMax fm x y then x else y)) .rne := by
  have h := floatExtreme_eq fm false true x y
  simp only [Fmt.decFtz_false, hx, Bool.false_and, Bool.false_eq_true, if_false, if_true] at h
  rw [h, apply_ite (fun z => fm.enc (fm.dec z) .rne)]
  rfl

/-- One lane joins the running maximum (09 R273). -/
def maxStep (ty : Nat) (abs : Bool) (v : Nat) (o : Option Int) (i : Nat) : Option Int :=
  if typeFloat ty ∧ ((typeFmt ty).dec (laneNat ty v i)).isNan then o
  else some ((o.map (maxLane ty (absLane ty abs (laneNat ty v i)))).getD (absLane ty abs (laneNat ty v i)))

section
variable {ty : Nat} {abs : Bool} {v : Nat}

/-- The maximum of the lanes, one after another. -/
theorem foldMax_of_step {step : Option Int → Nat → Option Int} (h : ∀ o i, maxStep ty abs v o i = step o i)
    (o : Option Int) : foldMax ty abs v o = (List.range (laneCount ty)).foldl step o := by
  obtain rfl := funext₂ h
  rfl

/-- The same where the running maximum is a pattern. -/
theorem foldMax_of_natStep {step : Option Nat → Nat → Option Nat}
    (h : ∀ o i, maxStep ty abs v (o.map Int.ofNat) i = (step o i).map Int.ofNat) (o : Option Nat) :
    foldMax ty abs v (o.map Int.ofNat) = ((List.range (laneCount ty)).foldl step o).map Int.ofNat :=
  List.foldl_hom (Option.map Int.ofNat) h

/-- An integer lane. -/
theorem maxStep_int (h : typeFloat ty = false) (o : Option Int) (i : Nat) :
    let x := sx (laneNat ty v i) (typeWidth ty)
    let y : Int := if abs then x.natAbs else x
    maxStep ty abs v o i = some (o.elim y (max y)) := by
  intro x y
  have hnot : ¬(typeFloat ty = true ∧ ((typeFmt ty).dec (laneNat ty v i)).isNan = true) := by simp [h]
  rw [maxStep, if_neg hnot, absLane_int h]
  cases o with
  | none => rfl
  | some z => exact congrArg some (maxLane_int h ..)

/-- A NaN lane is skipped. -/
theorem maxStep_nan {i : Nat} (h : typeFloat ty = true) (hx : ((typeFmt ty).dec (laneNat ty v i)).isNan = true)
    (o : Option Int) : maxStep ty abs v o i = o :=
  if_pos ⟨h, hx⟩

/-- A lane that is a number. -/
theorem maxStep_float {i : Nat} (h : typeFloat ty = true) (hx : ((typeFmt ty).dec (laneNat ty v i)).isNan = false)
    (o : Option Nat) :
    let fm := typeFmt ty
    let y := if abs then laneNat ty v i % 2 ^ (typeWidth ty - 1) else laneNat ty v i
    maxStep ty abs v (o.map Int.ofNat) i = some (Int.ofNat (o.elim y fun z =>
      if (fm.dec z).isNan then fm.enc (fm.dec y) .rne
      else fm.enc (fm.dec (if firstIsMax fm y z then y else z)) .rne)) := by
  intro fm y
  have hy : (fm.dec y).isNan = false := by
    refine Eq.trans ?_ hx
    cases abs
    · rfl
    · simp only [y, fm, if_true, typeWidth_of_float h, typeFmt_isNan_mod]
  have hnot : ¬(typeFloat ty = true ∧ ((typeFmt ty).dec (laneNat ty v i)).isNan = true) := by simp [hx]
  rw [maxStep, if_neg hnot, absLane_float h]
  cases o with
  | none => rfl
  | some z => exact congrArg some ((maxLane_float h y z).trans (congrArg Int.ofNat (floatExtreme_max z hy)))

end

/-! ### The group of a beat -/

/-- A group has a beat. -/
theorem Beat.size_pos {b : Beat} (h : 0 < b.n) (ws : List (BitVec 32)) : 0 < b.size ws :=
  Nat.lt_min.mpr ⟨Nat.succ_pos _, h⟩

/-- The entry of a group's maximum is that of the group of a beat. -/
def Beat.inGroup (b : Beat) (ws : List (BitVec 32)) (x : GroupMax) : Bool :=
  x.serial = b.serial && x.g = b.b / b.size ws

/-- The maximum so far of the group of a beat (09 R273). -/
def DrainSt.groupBest (d : DrainSt) (b : Beat) : Option Int := (d.groups.find? (b.inGroup d.image)).bind GroupMax.best

/-- A drain side behind a `dmax.grp`: the beat has joined the reduction of its group. -/
def DrainSt.joinGroup (d : DrainSt) (b : Beat) (best : Option Int) : DrainSt :=
  { d with groups := ⟨b.serial, b.b / b.size d.image, best⟩ :: d.groups.filter fun x => !b.inGroup d.image x }

theorem DrainSt.groupBest_joinGroup (d : DrainSt) (b : Beat) (best : Option Int) :
    (d.joinGroup b best).groupBest b = best := by
  simp [DrainSt.groupBest, DrainSt.joinGroup, Beat.inGroup]

/-- What a `dmax.grp` does to the round. -/
def DEnv.joinRun (e : DEnv) (ty : Nat) (abs : Bool) (v : Nat) (b : Beat) (r : Run) : Run :=
  r.putDrain e.core ((r.drain e.core).joinGroup b (foldMax ty abs v ((r.drain e.core).groupBest b)))

/-- The drain side of a core that has been put. -/
@[simp] theorem Run.drain_putDrain_self (r : Run) (core : Nat) (d : DrainSt) : (r.putDrain core d).drain core = d :=
  Tab.getD_put_self ..

/-- Those of the other cores stay. -/
theorem Run.drain_putDrain_ne (r : Run) {core c : Nat} (d : DrainSt) (h : c ≠ core) :
    (r.putDrain core d).drain c = r.drain c :=
  Tab.getD_put_ne _ _ _ h

/-- A `dmax.grp` in a beat. -/
theorem execDmaxGrp_beat {s : State} {e : DEnv} {b : Beat} (dd da : BitVec 4) (lt : BitVec 2) (abs : Bool)
    (he : s.drainEnv = some e) (hb : e.beat = some b) (hn : 0 < b.n) :
    exec (.dmaxGrp dd da lt abs) s
      = .next (wordDone s e e.regs e.lens [] (e.joinRun (ltTy lt) abs (e.r da) b)) := by
  have hsize (ws : List (BitVec 32)) : max 1 (b.size ws) = b.size ws := Nat.max_eq_right (b.size_pos hn ws)
  change execDmaxGrp dd da lt abs s = _
  refine drainWith_done he ?_
  simp only [hb, hsize]
  rfl

/-- The register that `dmax.grp` names, in the word behind it (09 R273). -/
theorem DrainSt.beatRegs_behindGroup {d : DrainSt} {b : Beat} {kg : Nat} (hn : 0 < b.n)
    (hwall : progWall d.image = some kg) (hk : b.k = kg + 1) :
    let w := nth d.image (progLoop d.image + 1 + kg) 0
    (d.beatRegs b).1 = setLane b.regs (w.extractLsb' 22 4).toNat
      (BitVec.ofNat 512 (groupValue (w.extractLsb' 12 2) (d.groupBest b))) := by
  have hsize : max 1 (b.size d.image) = b.size d.image := Nat.max_eq_right (b.size_pos hn d.image)
  have hk0 : b.k ≠ 0 := by omega
  simp only [DrainSt.beatRegs, if_neg hk0, hwall, if_pos hk, hsize]
  rfl

/-- A register that has been replaced. -/
theorem lane_setLane_self (x : BitVec 8192) (dd : BitVec 4) (v : Wide) :
    lane 512 (setLane x dd.toNat v) dd.toNat = v := by
  have hdd := dd.isLt
  have h := lane_setLane (u := 512) (q := 1) x dd.toNat v (m := dd.toNat) (by decide) (by omega)
  rw [if_pos (Nat.div_one _), Nat.mod_one] at h
  exact h.trans (BitVec.eq_of_toNat_eq (by simp [lane]))

/-- A register given by a number that fits it. -/
theorem toNat_ofNat_wide {v : Nat} (h : v < 2 ^ 512) : (BitVec.ofNat 512 v).toNat = v :=
  (BitVec.toNat_ofNat v 512).trans (Nat.mod_eq_of_lt h)

/-- A lane of the value of a group. -/
theorem laneNat_groupValue {lt : BitVec 2} {i : Nat} (best : Option Int) (hi : i < laneCount (ltTy lt)) :
    laneNat (ltTy lt) (BitVec.ofNat 512 (groupValue lt best)).toNat i
      = best.elim ((typeFmt (ltTy lt)).nan % 2 ^ typeWidth (ltTy lt)) (lowBits · (typeWidth (ltTy lt))) := by
  change laneNat (ltTy lt) (BitVec.ofNat 512 (mapLanes (ltTy lt) _)).toNat i = _
  rw [toNat_ofNat_wide (mapLanes_lt ..), laneNat_mapLanes _ _ _ hi]
  cases best with
  | none => rfl
  | some v => exact Nat.mod_eq_of_lt (lowBits_lt ..)

/-! ### Conversion -/

/-- A lane type is wide where bit 1 of its field is set (09 R259). -/
theorem typeWidth_ltTy (lt : BitVec 2) : typeWidth (ltTy lt) = if lt.getLsbD 1 then 64 else 32 := by
  revert lt
  decide

theorem dcvtWidens_iff (dlt slt : BitVec 2) :
    dcvtWidens dlt slt = true ↔ typeWidth (ltTy dlt) = 64 ∧ typeWidth (ltTy slt) = 32 := by
  rw [dcvtWidens, typeWidth_ltTy, typeWidth_ltTy]
  cases dlt.getLsbD 1 <;> cases slt.getLsbD 1 <;> decide

theorem dcvtNarrows_iff (dlt slt : BitVec 2) :
    dcvtNarrows dlt slt = true ↔ typeWidth (ltTy dlt) = 32 ∧ typeWidth (ltTy slt) = 64 := by
  rw [dcvtNarrows, typeWidth_ltTy, typeWidth_ltTy]
  cases dlt.getLsbD 1 <;> cases slt.getLsbD 1 <;> decide

/-- The pattern that lane i of a `dcvt` converts (09 R274). -/
def dcvtSource (dlt slt : BitVec 2) (hi : Bool) (a b i : Nat) : Nat :=
  if typeWidth (ltTy dlt) = 64 ∧ typeWidth (ltTy slt) = 32 then laneNat (ltTy slt) a (if hi then i + 8 else i)
  else if typeWidth (ltTy dlt) = 32 ∧ typeWidth (ltTy slt) = 64 then
    (if i < 8 then laneNat (ltTy slt) a i else laneNat (ltTy slt) b (i - 8))
  else laneNat (ltTy slt) a i

theorem dcvtSource_eq (dlt slt : BitVec 2) (hi : Bool) (a b i : Nat) :
    (if dcvtWidens dlt slt then laneNat (ltTy slt) a (if hi then i + 8 else i)
      else if dcvtNarrows dlt slt ∧ 8 ≤ i then laneNat (ltTy slt) b (i - 8) else laneNat (ltTy slt) a i)
      = dcvtSource dlt slt hi a b i := by
  simp only [dcvtWidens_iff, dcvtNarrows_iff, dcvtSource]
  by_cases hw : typeWidth (ltTy dlt) = 64 ∧ typeWidth (ltTy slt) = 32
  · rw [if_pos hw, if_pos hw]
  · rw [if_neg hw, if_neg hw]
    by_cases hn : typeWidth (ltTy dlt) = 32 ∧ typeWidth (ltTy slt) = 64
    · rcases Nat.lt_or_ge i 8 with hi | hi
      · rw [if_neg (by omega), if_pos hn, if_pos hi]
      · rw [if_pos ⟨hn, hi⟩, if_pos hn, if_neg (by omega)]
    · rw [if_neg (by tauto), if_neg hn]

section
variable {dlt slt : BitVec 2}

theorem dcvtLane_toFloat (rm : BitVec 2) (sat : Bool) (x : Nat) (h : typeFloat (ltTy dlt) = true) :
    dcvtLane dlt slt rm sat x = (typeFmt (ltTy dlt)).enc (if typeFloat (ltTy slt) then (typeFmt (ltTy slt)).dec x
      else Val.ofInt (sx x (typeWidth (ltTy slt)))) (Rm.of2 rm) sat := by
  simp only [dcvtLane, h, if_true]
  rfl

theorem dcvtLane_toInt (rm : BitVec 2) (sat : Bool) (x : Nat) (h : typeFloat (ltTy dlt) = false) :
    let w := typeWidth (ltTy dlt)
    let v := sx x (typeWidth (ltTy slt))
    dcvtLane dlt slt rm sat x
      = lowBits (if typeFloat (ltTy slt) then ((typeFmt (ltTy slt)).dec x).toInt (Rm.of2 rm) true w
          else if sat then satS v w else v) w := by
  intro w v
  simp only [dcvtLane, h, Bool.false_eq_true, if_false]
  split <;> rfl

/-- A converted lane fits. -/
theorem dcvtLane_lt (dlt slt rm : BitVec 2) (sat : Bool) (x : Nat) :
    dcvtLane dlt slt rm sat x < 2 ^ typeWidth (ltTy dlt) := by
  cases h : typeFloat (ltTy dlt) with
  | true =>
    rw [dcvtLane_toFloat rm sat x h, typeWidth_of_float h]
    exact Fmt.enc_lt ..
  | false =>
    rw [dcvtLane_toInt rm sat x h]
    exact lowBits_lt ..

/-- A `dcvt` converts the pattern of each lane. -/
theorem DrainLanes.of_dcvt {s : State} {e : DEnv} {dd da db : BitVec 4} {rm : BitVec 2} {sat hi : Bool} {v : Nat → Nat}
    (he : s.drainEnv = some e)
    (hv : ∀ j, dcvtLane dlt slt rm sat (dcvtSource dlt slt hi (e.r da) (e.r db) j) = v j) :
    DrainLanes (.dcvt dd da db dlt rm sat slt hi) s e dd (ltTy dlt) v :=
  .of_patterns he rfl rfl fun j => ⟨(congrArg _ (dcvtSource_eq ..)).trans (hv j), hv j ▸ dcvtLane_lt ..⟩

end

/-- Settles O14: a beat joins the reduction of its group (`DrainSt.groupBest_joinGroup`) by the maximum of its lanes,
taken one after another (`maxStep_int`, `maxStep_float`), which the word behind the wall finds in place
(`DrainSt.beatRegs_behindGroup`); a conversion takes its source lanes by the widths (`dcvtSource_eq`). -/
theorem drainConvert : Obligations.DrainConvert := by
  refine ⟨?maximum, ?conversion⟩
  case maximum =>
    intro dd da lt abs s e b he hb ty best hn
    refine ⟨⟨_, execDmaxGrp_beat dd da lt abs he hb hn, ?joins⟩, fun o hty => ?ints, fun o hty => ?floats,
      fun d kg hwall hk => ?behind⟩
    case joins =>
      exact (congrArg (DrainSt.groupBest · b) (Run.drain_putDrain_self ..)).trans (DrainSt.groupBest_joinGroup ..)
    case ints =>
      refine foldMax_of_step (fun o i => (maxStep_int hty o i).trans ?_) o
      cases o <;> rfl
    case floats =>
      intro fm greater
      refine foldMax_of_natStep (fun o i => ?_) o
      cases hx : ((typeFmt ty).dec (laneNat ty (e.r da) i)).isNan with
      | true => exact (maxStep_nan hty hx _).trans (congrArg (Option.map Int.ofNat) (if_pos hx).symm)
      | false =>
        refine (maxStep_float hty hx o).trans
          (.trans ?_ (congrArg (Option.map Int.ofNat) (if_neg (Bool.eq_false_iff.mp hx)).symm))
        cases o with
        | none => rfl
        | some z => exact congrArg (Option.map Int.ofNat) (apply_ite some ..)
    case behind =>
      intro w dst t i hi
      rw [DrainSt.beatRegs_behindGroup hn hwall hk, lane_setLane_self, laneNat_groupValue _ hi]
      have hbest : best d = d.groupBest b := rfl
      rw [hbest]
      cases d.groupBest b <;> rfl
  case conversion =>
    intro dd da db dlt slt rm sat hi s e he td ts w src int flt is enc
    refine ⟨fun hd hs => .of_dcvt he fun j => ?_, fun hd hs => .of_dcvt he fun j => ?_,
      fun hd hs => .of_dcvt he fun j => ?_, fun hd hs => .of_dcvt he fun j => ?_⟩
    · exact (dcvtLane_toFloat rm sat _ hd).trans (congrArg (fun v => (typeFmt td).enc v _ _) (if_pos hs))
    · exact (dcvtLane_toFloat rm sat _ hd).trans (congrArg (fun v => (typeFmt td).enc v _ _) (if_neg (Bool.eq_false_iff.mp hs)))
    · exact (dcvtLane_toInt rm sat _ hd).trans (congrArg (lowBits · w) (if_pos hs))
    · exact (dcvtLane_toInt rm sat _ hd).trans (congrArg (lowBits · w) (if_neg (Bool.eq_false_iff.mp hs)))

end Machine
end Sys2Proof
end

section
/-! The scale of a quantisation: the least power of two that fits (09 R275). -/
namespace Sys2Proof

/-- A magnitude as a rational number. -/
def magValue (m : Nat) (e : Int) : ℚ := m * 2 ^ e

/-- The exact comparison of two magnitudes. -/
theorem cmpMag_ne_gt_iff (m n : Nat) (x y : Int) : cmpMag m x n y ≠ .gt ↔ magValue m x ≤ magValue n y := by
  have hscale {a b : Int} (h : a ≤ b) : (2 : ℚ) ^ b = (2 ^ (b - a).toNat : Nat) * 2 ^ a := by
    rw [Nat.cast_pow, ← zpow_natCast, Int.toNat_of_nonneg (by omega), Nat.cast_ofNat, ← zpow_add₀ (by norm_num)]
    congr 1
    omega
  have hle {a b : Nat} (z : Int) : (a : ℚ) * 2 ^ z ≤ b * 2 ^ z ↔ a ≤ b := by
    rw [mul_le_mul_iff_left₀ (zpow_pos (by norm_num) z), Nat.cast_le]
  unfold cmpMag magValue
  split
  · next h => rw [compare_le_iff_le, hscale h, ← mul_assoc, ← Nat.cast_mul, hle]
  · next h => rw [compare_le_iff_le, hscale (by omega : y ≤ x), ← mul_assoc, ← Nat.cast_mul, hle]

/-- A number lies between two powers of two. -/
theorem magValue_bounds {m : Nat} (hm : m ≠ 0) (x : Int) :
    (2 : ℚ) ^ (m.log2 + x) ≤ magValue m x ∧ magValue m x < 2 ^ (m.log2 + x + 1) := by
  have hpos : (0 : ℚ) < 2 ^ x := zpow_pos (by norm_num) x
  have hlow : (2 : ℚ) ^ m.log2 ≤ m := by exact_mod_cast Nat.log2_self_le hm
  have hhigh : (m : ℚ) < 2 ^ (m.log2 + 1) := by exact_mod_cast Nat.lt_log2_self
  have hsplit (n : Nat) : (2 : ℚ) ^ (n + x) = 2 ^ n * 2 ^ x := by
    rw [zpow_add₀ (by norm_num), zpow_natCast]
  constructor
  · rw [hsplit]
    exact mul_le_mul_of_nonneg_right hlow hpos.le
  · have hnext : (m.log2 : Int) + x + 1 = (m.log2 + 1 : Nat) + x := by omega
    rw [hnext, hsplit]
    exact mul_lt_mul_of_pos_right hhigh hpos

namespace Machine

/-- A magnitude over 2^p is at most QMAX (09 R275). -/
def ScaleFits (m : Nat) (x : Int) (q : Nat × Int) (p : Int) : Prop := cmpMag m x q.1 (q.2 + p) ≠ .gt

section
variable {m : Nat} {x : Int} {q : Nat × Int}

theorem scaleFits_iff {p : Int} : ScaleFits m x q p ↔ magValue m x ≤ magValue q.1 (q.2 + p) := cmpMag_ne_gt_iff ..

/-- Beyond a power that fits every power does. -/
theorem ScaleFits.mono {p r : Int} (h : ScaleFits m x q p) (hpr : p ≤ r) : ScaleFits m x q r := by
  rw [scaleFits_iff] at *
  refine h.trans (mul_le_mul_of_nonneg_left (zpow_le_zpow_right₀ (by norm_num) ?_) (Nat.cast_nonneg _))
  omega

/-- A search from a power that reaches one that fits, where the power before the start does not, finds the least. -/
theorem leastExp_least (n : Nat) (e : Int) (hend : ScaleFits m x q (e + n)) (hstart : ¬ScaleFits m x q (e - 1)) :
    ScaleFits m x q (leastExp m x q e n) ∧ ¬ScaleFits m x q (leastExp m x q e n - 1) := by
  induction n generalizing e with
  | zero => exact ⟨by simpa [leastExp] using hend, hstart⟩
  | succ n ih =>
    unfold leastExp
    split
    · next h =>
      refine ih (e + 1) ?_ ?_
      · have hnext : e + 1 + (n : Int) = e + (n + 1 : Nat) := by omega
        rwa [hnext]
      · rw [Int.add_sub_cancel]
        exact absurd h
    · next h => exact ⟨h, hstart⟩

/-- The search for a scale starts below every power that fits, and ends within three steps. -/
theorem leastExp_scale (hm : m ≠ 0) (hq : q.1 ≠ 0) :
    let p := leastExp m x q (m.log2 + x - (q.1.log2 + q.2) - 1) 3
    ScaleFits m x q p ∧ ¬ScaleFits m x q (p - 1) := by
  obtain ⟨hlow, hhigh⟩ := magValue_bounds hm x
  have hbounds (p : Int) := magValue_bounds hq (q.2 + p)
  refine leastExp_least 3 _ (scaleFits_iff.mpr ?_) (fun h => ?_)
  · refine hhigh.le.trans (.trans (zpow_le_zpow_right₀ (by norm_num) ?_) (hbounds _).1)
    omega
  · refine absurd (scaleFits_iff.mp h) (not_le.mpr ((hbounds _).2.trans_le (.trans ?_ hlow)))
    exact zpow_le_zpow_right₀ (by norm_num) (by omega)

/-- The least power that fits, or -126 where that is more. -/
theorem leastExp_scale_max (hm : m ≠ 0) (hq : q.1 ≠ 0) :
    let p := max (leastExp m x q (m.log2 + x - (q.1.log2 + q.2) - 1) 3) (-126)
    ScaleFits m x q p ∧ -126 ≤ p ∧ (p = -126 ∨ ¬ScaleFits m x q (p - 1)) := by
  obtain ⟨hfit, hless⟩ := leastExp_scale (x := x) hm hq
  refine ⟨hfit.mono (Int.le_max_left ..), Int.le_max_right .., ?_⟩
  rcases Int.le_total (leastExp m x q (m.log2 + x - (q.1.log2 + q.2) - 1) 3) (-126) with h | h
  · exact .inl (Int.max_eq_right h)
  · exact .inr (by rwa [Int.max_eq_left h])

end

/-! ### Formats -/

/-- The format of a `dqnt` that encodes reals. -/
def qntFloat (k : Nat) : Fmt := [Fmt.t8, .t6, .e4m3, .e5m2, .bf16, .f16].getD k .t8

/-- The code of a value in each format (09 R275). -/
theorem qntCode_eq {k : Nat} (hk : k < 8) (rm : BitVec 2) (sat : Bool) (v : Val) :
    qntCode k rm sat v = if k < 6 then (qntFloat k).enc v (Rm.of2 rm) sat
      else lowBits (v.toInt (Rm.of2 rm) true (if k = 6 then 8 else 16)) (if k = 6 then 8 else 16) := by
  interval_cases k <;> rfl

/-- That of a NaN. -/
theorem qntNan_eq {k : Nat} (hk : k < 8) :
    ((qntFmt k).1.map Fmt.nan).getD 0 = if k < 6 then (qntFloat k).nan else 0 := by
  interval_cases k <;> rfl

/-- QMAX of each format. -/
theorem qntMax_eq {k : Nat} (hk : k < 8) : qntMax k
    = [(4, 0), (4, 0), (448, 0), (57344, 0), (255, 120), (65504, 0), (127, 0), (32767, 0)].getD k (0, 0) := by
  interval_cases k <;> rfl

theorem qntMax_pos {k : Nat} (hk : k < 8) : (qntMax k).1 ≠ 0 := by
  interval_cases k <;> decide

theorem qntFloat_width_le {k : Nat} (hk : k < 6) : (qntFloat k).width ≤ 32 := by
  interval_cases k <;> decide

/-- A code fits an FP32 lane. -/
theorem qntCode_lt {k : Nat} (hk : k < 8) (rm : BitVec 2) (sat : Bool) (v : Val) :
    qntCode k rm sat v < 2 ^ typeWidth 9 := by
  have hwide {c w : Nat} (hc : c < 2 ^ w) (hw : w ≤ 32) : c < 2 ^ typeWidth 9 :=
    Nat.lt_of_lt_of_le hc (Nat.pow_le_pow_right (by decide) hw)
  rw [qntCode_eq hk]
  split
  · next h => exact hwide (Fmt.enc_lt ..) (qntFloat_width_le h)
  · exact hwide (lowBits_lt ..) (by split <;> decide)

theorem qntNan_lt {k : Nat} (hk : k < 8) : ((qntFmt k).1.map Fmt.nan).getD 0 < 2 ^ typeWidth 9 := by
  interval_cases k <;> decide

/-! ### Scales -/

section
variable {x : Nat} (k : Nat)

/-- The scale of a NaN is the NaN, -/
theorem qntScale_nan (h : Fmt.f32.dec x = .nan) : qntScale k x = Fmt.f32.enc .nan .rne := by
  simp only [qntScale, h, Val.abs, Fmt.enc]

/-- as is that of an infinity; -/
theorem qntScale_inf {neg : Bool} (h : Fmt.f32.dec x = .inf neg) : qntScale k x = Fmt.f32.enc .nan .rne := by
  simp only [qntScale, h, Val.abs, Fmt.enc]

/-- that of a zero is 1, -/
theorem qntScale_zero {neg : Bool} {ex : Int} (h : Fmt.f32.dec x = .fin neg 0 ex) :
    qntScale k x = Fmt.f32.enc (.fin false 1 0) .rne := by
  simp only [qntScale, h, Val.abs, if_true]

/-- and that of any other number a power of two (09 R275). -/
theorem qntScale_fin {neg : Bool} {m : Nat} {ex : Int} (h : Fmt.f32.dec x = .fin neg m ex) (hm : m ≠ 0) :
    qntScale k x = Fmt.f32.enc (.fin false 1
      (max (leastExp m ex (qntMax k) (m.log2 + ex - ((qntMax k).1.log2 + (qntMax k).2) - 1) 3) (-126))) .rne := by
  simp only [qntScale, h, Val.abs, if_neg hm]

end

end Machine
end Sys2Proof
end

section
/-! Codes in bytes: the packed and the masked-packed forms, and the place of a conversion (09 R276 to R278). -/
namespace Sys2Proof.Machine

/-! ### Numbers of bytes -/

@[simp] theorem length_bytesOf (v n : Nat) : (bytesOf v n).length = n := by
  induction n generalizing v with
  | zero => rfl
  | succ n ih => simp [bytesOf, ih]

/-- A number of its low bytes. -/
theorem ofBytes_bytesOf (v n : Nat) : ofBytes (bytesOf v n) = v % 2 ^ (8 * n) := by
  induction n generalizing v with
  | zero => simp [bytesOf, ofBytes, Nat.mod_one]
  | succ n ih =>
    have hpow : 2 ^ (8 * (n + 1)) = 256 * 2 ^ (8 * n) := by rw [Nat.mul_succ, Nat.pow_add, Nat.mul_comm]
    rw [bytesOf, ofBytes, ih, Nat.mod_mod, hpow, Nat.mod_mul]

/-- A number of n bytes is below 2^8n. -/
theorem ofBytes_lt (bs : List Nat) : ofBytes bs < 2 ^ (8 * bs.length) := by
  induction bs with
  | nil => exact Nat.one_pos
  | cons b bs ih =>
    have hpow : 2 ^ (8 * (b :: bs).length) = 256 * 2 ^ (8 * bs.length) := by
      rw [List.length_cons, Nat.mul_succ, Nat.pow_add, Nat.mul_comm]
    rw [ofBytes, hpow]
    omega

theorem ofBytes_append (as bs : List Nat) : ofBytes (as ++ bs) = ofBytes as + 2 ^ (8 * as.length) * ofBytes bs := by
  induction as with
  | nil => simp [ofBytes]
  | cons a as ih =>
    have hpow : 2 ^ (8 * (a :: as).length) = 256 * 2 ^ (8 * as.length) := by
      rw [List.length_cons, Nat.mul_succ, Nat.pow_add, Nat.mul_comm]
    rw [List.cons_append, ofBytes, ofBytes, ih, hpow, Nat.mul_add, Nat.mul_assoc, Nat.add_assoc]

/-- Codes of n bytes each, one after another. -/
theorem ofBytes_flatMap_bytesOf {α : Type} (c : α → Nat) (n : Nat) (l : List α) :
    ofBytes (l.flatMap fun i => bytesOf (c i) n) = joinLanes (8 * n) (l.map c) := by
  induction l with
  | nil => rfl
  | cons a l ih =>
    rw [List.flatMap_cons, ofBytes_append, ih, ofBytes_bytesOf, length_bytesOf]
    rfl

/-! ### Masks of indices -/

section
variable (p : Nat → Bool)

/-- The sum of the bits of the indices below n that pass a test. -/
def indexMask (n : Nat) : Nat := ((List.range n).filter p).foldl (fun m i => m + 2 ^ i) 0

/-- The number of the indices below n that pass it. -/
def indexRank (n : Nat) : Nat := ((List.range n).filter p).length

theorem indexMask_succ (n : Nat) : indexMask p (n + 1) = indexMask p n + if p n then 2 ^ n else 0 := by
  rw [indexMask, List.range_succ, List.filter_append, List.foldl_append]
  cases hp : p n <;> simp [indexMask, hp]

theorem indexMask_lt (n : Nat) : indexMask p n < 2 ^ n := by
  induction n with
  | zero => exact Nat.one_pos
  | succ n ih =>
    rw [indexMask_succ, Nat.pow_succ]
    split <;> omega

/-- A bit of the mask. -/
theorem testBit_indexMask {n i : Nat} (hi : i < n) : (indexMask p n).testBit i = p i := by
  induction n with
  | zero => exact absurd hi (Nat.not_lt_zero i)
  | succ n ih =>
    rw [indexMask_succ]
    rcases Nat.lt_succ_iff_lt_or_eq.mp hi with hlt | rfl
    · cases hp : p n with
      | false => simpa [hp] using ih hlt
      | true =>
        rw [if_pos rfl, Nat.add_comm, Nat.testBit_two_pow_add_gt hlt]
        exact ih hlt
    · have hzero : (indexMask p i).testBit i = false := Nat.testBit_lt_two_pow (indexMask_lt p i)
      cases hp : p i with
      | false => simpa [hp] using hzero
      | true =>
        rw [if_pos rfl, Nat.add_comm, Nat.testBit_two_pow_add_eq, hzero]
        rfl

theorem indexRank_le (n : Nat) : indexRank p n ≤ n := by
  simpa [indexRank] using List.length_filter_le p (List.range n)

/-- An index that passes stands behind those below it. -/
theorem getElem?_filter_range {n i : Nat} (hi : i < n) (hp : p i = true) :
    ((List.range n).filter p)[indexRank p i]? = some i := by
  obtain ⟨k, rfl⟩ := Nat.exists_eq_add_of_lt hi
  have hsplit : List.range (i + k + 1) = List.range i ++ i :: (List.range k).map (i + 1 + ·) := by
    rw [Nat.add_assoc, Nat.add_comm k, ← Nat.add_assoc, List.range_add, List.range_succ, List.append_assoc]
    rfl
  rw [hsplit, List.filter_append, indexRank, List.getElem?_append_right (Nat.le_refl _), Nat.sub_self,
    List.filter_cons_of_pos hp]
  rfl

end

/-! ### The masked-packed form -/

section
variable (nz80 : Bool) (esz v : Nat)

/-- Code i of a value. -/
def packedCode (i : Nat) : Nat := laneNat 9 v i % 2 ^ (8 * esz)

/-- It is stored: it counts as no zero (09 R277). -/
def storesCode (i : Nat) : Bool :=
  packedCode esz v i ≠ 0 && !(nz80 && packedCode esz v i = 2 ^ (8 * esz - 1))

/-- The bytes of the form: the mask, and the stored codes. -/
theorem maskedPacked_eq : maskedPacked nz80 esz v = bytesOf (indexMask (storesCode nz80 esz v) 16) 2
    ++ ((List.range 16).filter (storesCode nz80 esz v)).flatMap fun i => bytesOf (packedCode esz v i) esz := by
  have hset : (fun i => !(packedCode esz v i = 0 || (nz80 && packedCode esz v i = 2 ^ (8 * esz - 1))))
      = storesCode nz80 esz v := by
    funext i
    simp [storesCode, Bool.not_or]
  rw [indexMask, ← hset]
  rfl

theorem length_maskedPacked :
    (maskedPacked nz80 esz v).length = 2 + esz * indexRank (storesCode nz80 esz v) 16 := by
  simp [maskedPacked_eq, indexRank, Nat.mul_comm]

theorem ofBytes_maskedPacked : ofBytes (maskedPacked nz80 esz v) = indexMask (storesCode nz80 esz v) 16
    + 2 ^ 16 * joinLanes (8 * esz) (((List.range 16).filter (storesCode nz80 esz v)).map (packedCode esz v)) := by
  rw [maskedPacked_eq, ofBytes_append, ofBytes_flatMap_bytesOf, ofBytes_bytesOf, length_bytesOf,
    Nat.mod_eq_of_lt (indexMask_lt ..)]

theorem maskedPacked_lt :
    ofBytes (maskedPacked nz80 esz v) < 2 ^ (16 + 8 * esz * indexRank (storesCode nz80 esz v) 16) := by
  have h := ofBytes_lt (maskedPacked nz80 esz v)
  rwa [length_maskedPacked, Nat.mul_add, ← Nat.mul_assoc] at h

/-- The form fits a register where a code has one or two bytes. -/
theorem maskedPacked_lt_wide (hesz : esz ≤ 2) : ofBytes (maskedPacked nz80 esz v) < 2 ^ 512 := by
  refine Nat.lt_of_lt_of_le (maskedPacked_lt ..) (Nat.pow_le_pow_right (by decide) ?_)
  have hcodes : 8 * esz * indexRank (storesCode nz80 esz v) 16 ≤ 16 * 16 :=
    Nat.mul_le_mul (by omega) (indexRank_le ..)
  omega

/-- A bit of its mask. -/
theorem testBit_maskedPacked {i : Nat} (hi : i < 16) :
    (ofBytes (maskedPacked nz80 esz v)).testBit i = storesCode nz80 esz v i := by
  rw [ofBytes_maskedPacked, Nat.add_comm, Nat.testBit_two_pow_mul_add _ (indexMask_lt ..), if_pos hi,
    testBit_indexMask _ hi]

/-- A stored code, behind those before it. -/
theorem maskedPacked_code {i : Nat} (hi : i < 16) (hset : storesCode nz80 esz v i = true) :
    ofBytes (maskedPacked nz80 esz v) / 2 ^ (16 + 8 * esz * indexRank (storesCode nz80 esz v) i) % 2 ^ (8 * esz)
      = packedCode esz v i := by
  have hcode : packedCode esz v i < 2 ^ (8 * esz) := Nat.mod_lt _ (Nat.two_pow_pos _)
  rw [ofBytes_maskedPacked, Nat.pow_add, ← Nat.div_div_eq_div_mul, Nat.add_mul_div_left _ _ (Nat.two_pow_pos 16),
    Nat.div_eq_of_lt (indexMask_lt ..), Nat.zero_add, joinLanes_lane, List.getD_eq_getElem?_getD, List.getElem?_map,
    getElem?_filter_range _ hi hset]
  exact Nat.mod_eq_of_lt hcode

end

/-! ### The place of a conversion -/

/-- Numbers with the same bits in a field. -/
theorem field_congr {x y i w : Nat} (h : ∀ j, i ≤ j → j < i + w → x.testBit j = y.testBit j) :
    x / 2 ^ i % 2 ^ w = y / 2 ^ i % 2 ^ w := by
  refine Nat.eq_of_testBit_eq fun b => ?_
  simp only [Nat.testBit_mod_two_pow, Nat.testBit_div_two_pow]
  by_cases hb : b < w
  · rw [h (b + i) (by omega) (by omega)]
  · simp [hb]

section
variable (tgt q : Nat) (sat : Bool) (a old : Nat)

/-- What a `dcvs` in a program leaves in its register: the codes at their place, the other bytes as before (09 R278). -/
def cvtInto : Wide :=
  BitVec.ofNat 512 old &&& ~~~BitVec.ofNat 512 (cvtPlace tgt q sat a).1 ||| BitVec.ofNat 512 (cvtPlace tgt q sat a).2

variable {tgt q sat a old} {j : Nat}

/-- A bit of a conversion: of its codes, or, outside their place, of what stood there. -/
theorem cvtInto_bit (hj : j < 512) : (cvtInto tgt q sat a old).getLsbD j
    = (old.testBit j && !decide (q * cvtBits tgt ≤ j ∧ j < q * cvtBits tgt + cvtBits tgt)
      || (cvtJoined tgt sat a * 2 ^ (q * cvtBits tgt)).testBit j) := by
  rw [cvtInto, cvtPlace_eq, BitVec.getLsbD_or, BitVec.getLsbD_and, BitVec.getLsbD_not, BitVec.getLsbD_ofNat,
    BitVec.getLsbD_ofNat, BitVec.getLsbD_ofNat, testBit_ones_mul_two_pow, decide_eq_true hj]
  simp only [Bool.true_and]

/-- A bit of the other bytes. -/
theorem cvtInto_outside (hj : j < 512) (hout : j < q * cvtBits tgt ∨ q * cvtBits tgt + cvtBits tgt ≤ j) :
    (cvtInto tgt q sat a old).getLsbD j = old.testBit j := by
  have hnot : ¬(q * cvtBits tgt ≤ j ∧ j < q * cvtBits tgt + cvtBits tgt) := by omega
  rw [cvtInto_bit hj, testBit_mul_two_pow_of_outside (cvtJoined_lt ..) hnot, decide_eq_false hnot]
  simp

/-- A bit at its place. -/
theorem cvtInto_inside (hj : j < 512) (hin : q * cvtBits tgt ≤ j ∧ j < q * cvtBits tgt + cvtBits tgt) :
    (cvtInto tgt q sat a old).getLsbD j = (cvtJoined tgt sat a * 2 ^ (q * cvtBits tgt)).testBit j := by
  rw [cvtInto_bit hj, decide_eq_true hin]
  simp

/-- The code of a lane at its place. -/
theorem cvtInto_lane (hj : j < 16) (hfit : q * cvtBits tgt + cvtBits tgt ≤ 512) :
    let w := (cvtFmt tgt).width
    (cvtInto tgt q sat a old).toNat / 2 ^ (q * cvtBits tgt + w * j) % 2 ^ w = cvtCode tgt sat a j % 2 ^ w := by
  intro w
  have hwidth : w * j + w ≤ cvtBits tgt := by
    rw [← Nat.mul_succ, cvtBits, Nat.mul_comm 16]
    exact Nat.mul_le_mul_left w hj
  rw [field_congr fun i hlow hhigh => cvtInto_inside (by omega) (by omega), mul_two_pow_field, cvtJoined,
    joinLanes_lane]
  simp [List.getD, hj, w]

end

end Sys2Proof.Machine
end

section
/-! Quantisation, scales and packing, together (09 R275 to R278). -/
namespace Sys2Proof.Machine

/-- The fields of sixteen codes of n bits, packed from bit 0 (09 R276). -/
theorem packed_fields {n : Nat} (hn : n ≤ 32) (x : Nat → Nat) :
    let r := BitVec.ofNat 512 (joinLanes n ((List.range 16).map fun i => x i % 2 ^ n))
    (∀ i, i < 16 → r.toNat / 2 ^ (n * i) % 2 ^ n = x i % 2 ^ n) ∧ r.toNat < 2 ^ (16 * n) := by
  have hlt {b : Nat} (hb : n * 16 ≤ b) : joinLanes n ((List.range 16).map fun i => x i % 2 ^ n) < 2 ^ b :=
    joinLanes_lt_of_le (by simpa using hb)
  intro r
  rw [toNat_ofNat_wide (hlt (by omega) : _ < 2 ^ 512)]
  exact ⟨fun i hi => joinLanes_map_field hi (Nat.mod_lt _ (Nat.two_pow_pos n)), hlt (by omega)⟩

/-- Settles O15: a code is that of its format (`qntCode_eq`); the search for a scale ends at the least power of two that
fits (`leastExp_scale_max`); a masked-packed form holds its mask and each stored code behind those before it
(`testBit_maskedPacked`, `maskedPacked_code`), and a `dcvs` replaces the bits of its place (`cvtInto_bit`). -/
theorem drainQuantise : Obligations.DrainQuantise := by
  refine ⟨?quantise, ?packing⟩
  case quantise =>
    intro dd da db fmt rm sat s e he hfmt k x sc fm n code qmax scale fits
    have hk : k < 8 := hfmt
    have hcode (v : Val) : qntCode k rm sat v = code v := qntCode_eq hk rm sat v
    have hlt (v : Val) : code v < 2 ^ typeWidth 9 := hcode v ▸ qntCode_lt hk rm sat v
    have hnan : ((qntFmt k).1.map Fmt.nan).getD 0 = if k < 6 then fm.nan else 0 := qntNan_eq hk
    refine ⟨.of_patterns he rfl rfl fun i => ⟨hcode _, hlt _⟩, .of_patterns he rfl rfl fun i => ⟨?_, ?_⟩, ?scales⟩
    · exact congrArg₂ (ite _) hnan (hcode _)
    · exact ite_lt (hnan ▸ qntNan_lt hk) (hlt _)
    case scales =>
      have hscale (v : Val) (hv : qntScale k (laneNat 9 (e.r da) 0) = Fmt.f32.enc v .rne) : scale v :=
        .of_drainSet he rfl (congrArg _ hv) rfl
      cases hx : x 0 with
      | nan => exact hscale .nan (qntScale_nan k hx)
      | inf neg => exact hscale .nan (qntScale_inf k hx)
      | fin neg m ex =>
        refine ⟨fun hm => ?zero, fun hm => ?number⟩
        case zero =>
          subst hm
          exact hscale _ (qntScale_zero k hx)
        case number =>
          have hleast := leastExp_scale_max (x := ex) hm (qntMax_pos hk)
          have hvalue := qntScale_fin k hx hm
          rw [qntMax_eq hk] at hleast hvalue
          obtain ⟨hfit, hmin, hless⟩ := hleast
          exact ⟨_, hscale _ hvalue, hmin, hfit, hless⟩
  case packing =>
    intro dd da cs q tgt nz80 w16 sat s e he x n esz code set rank g at_
    refine ⟨fun _ => ⟨_, .of_drainSet he rfl rfl rfl, ?pack⟩, ⟨_, .of_drainSet he rfl rfl ?length, ?masked⟩,
      fun _ hfit => ⟨cvtInto tgt.toNat q.toNat sat (e.r da) (e.r dd),
        .of_drainSet he rfl (ofNat_toNat_wide _) rfl, fun i hi => cvtInto_lane hi hfit, fun j hj => cvtInto_outside hj⟩⟩
    case pack =>
      exact packed_fields ((by decide : ∀ c : BitVec 2, [8, 16, 6].getD c.toNat 8 ≤ 32) cs) x
    case length => exact length_maskedPacked ..
    case masked =>
      have hesz : esz ≤ 2 := by simp only [esz]; split <;> decide
      have hvalue := toNat_ofNat_wide (maskedPacked_lt_wide nz80 esz (e.r da) hesz)
      refine ⟨fun i hi => ?_, fun i hi hset => ?_, ?_⟩
      · rw [BitVec.getLsbD_ofNat, decide_eq_true (show i < 512 by omega), Bool.true_and]
        exact testBit_maskedPacked nz80 esz (e.r da) hi
      · exact (congrArg (· / _ % _) hvalue).trans (maskedPacked_code nz80 esz (e.r da) hi hset)
      · exact hvalue.trans_lt (maskedPacked_lt nz80 esz (e.r da))

end Sys2Proof.Machine
end

section
/-! What the stream accesses of drain words leave of a round, and the partial words of a drain (09 R267, R269). -/
namespace Sys2Proof.Machine

/-! ### Rounds and their streams -/

/-- A round without its streams and its trap events. -/
def Run.sansStreams (r : Run) : Run := { r with streams := [], events := [] }

/-- A round that differs from another in these alone. -/
theorem Run.eq_of_sansStreams {r t : Run} (h : t.sansStreams = r.sansStreams) :
    t = { r with streams := t.streams, events := t.events } :=
  congrArg (fun x : Run => { x with streams := t.streams, events := t.events }) h

/-- A change of a round moves U of one stream on by n; of the rest of the round it changes trap events alone. -/
structure MovesStream (key n : Nat) (h : Run → Run) : Prop where
  sans : ∀ r, (h r).sansStreams = r.sansStreams
  other : ∀ r q, q ≠ key → (h r).stream q = r.stream q
  moved : ∀ r, ((h r).stream key).u = (r.stream key).u + n

section
variable {key n m : Nat} {g h : Run → Run}

theorem MovesStream.id (key : Nat) : MovesStream key 0 id := ⟨fun _ => rfl, fun _ _ _ => rfl, fun _ => rfl⟩

theorem MovesStream.comp (hg : MovesStream key n g) (hh : MovesStream key m h) :
    MovesStream key (n + m) fun r => h (g r) where
  sans r := (hh.sans _).trans (hg.sans r)
  other r q hq := (hh.other _ q hq).trans (hg.other r q hq)
  moved r := by rw [hh.moved, hg.moved, Nat.add_assoc]

theorem MovesStream.putStream {x : Run → StreamSt} (hx : ∀ r, (x r).u = (r.stream key).u + n) :
    MovesStream key n fun r => r.putStream key (x r) where
  sans _ := rfl
  other _ _ hq := Tab.getD_put_ne _ _ _ hq
  moved r := by rw [Run.stream_putStream_self, hx]

theorem MovesStream.addEvent (key pe ops idx : Nat) (c : BitVec 16) (v : Word) :
    MovesStream key 0 fun r => r.addEvent pe ops idx c v := ⟨fun _ => rfl, fun _ _ _ => rfl, fun _ => rfl⟩

/-- The telling of a failure notes it in the stream and adds an event, or does nothing (08 R241). -/
theorem Run.tellFail_cases (r : Run) (pe ops key w : Nat) (pages : List Nat) : r.tellFail pe ops key w pages = r
    ∨ ∃ fails c v, r.tellFail pe ops key w pages
        = (r.putStream key { r.stream key with fails := fails }).addEvent pe ops 0 c v := by
  unfold Run.tellFail
  dsimp only
  split
  · split
    · exact .inl rfl
    · exact .inr ⟨_, _, _, rfl⟩
  · exact .inl rfl

theorem MovesStream.tellFail (pe ops key w : Nat) : MovesStream key 0 fun r => r.tellFail pe ops key w where
  sans r := by
    rcases r.tellFail_cases pe ops key w [] with h | ⟨fails, c, v, h⟩ <;> rw [h]
    rfl
  other r q hq := by
    rcases r.tellFail_cases pe ops key w [] with h | ⟨fails, c, v, h⟩ <;> rw [h]
    exact Tab.getD_put_ne _ _ _ hq
  moved r := r.tellFail_u ..

/-- A stream that takes a step of n words. -/
theorem MovesStream.advance (d : StreamDesc) (cyc n : Nat) {x : Run → StreamSt} (hx : ∀ r, (x r).u = (r.stream key).u) :
    MovesStream key (64 * n) fun r => r.putStream key (d.advance cyc n (x r)) :=
  .putStream fun r => by rw [StreamDesc.advance_u, hx]

end

/-- A word that is written leaves U. -/
theorem State.storeWord_moves {s t : State} {ctx kh pe ops key w path : Nat} {v : Wide} {ls : List Landing}
    {run : Run → Run}
    (h : s.storeWord ctx kh pe ops key w v path = .go t ls run) : MovesStream key 0 run := by
  unfold State.storeWord at h
  split at h
  next => cases h
  split at h
  next =>
    cases h
    exact .id key
  next d _ =>
    dsimp only at h
    split at h
    next => cases h
    split at h
    next =>
      cases h
      exact .tellFail ..
    split at h
    next => cases h
    split at h
    next => cases h
    split at h
    next => cases h
    cases h
    split
    · exact .putStream fun _ => rfl
    · refine .comp (n := 0) (m := 0) (.putStream ?_) (.addEvent ..)
      exact fun _ => rfl

/-- The word that a drain word has filled moves U on, where its stream stands in the table. -/
theorem State.putOut_moves {s t : State} {e : DEnv} {key : Nat} {bytes : List Nat} {ls : List Landing} {run : Run → Run}
    (h : s.putOut e key bytes = .go t ls run) :
    ∃ n, MovesStream key n run ∧ ((e.k.strm? key).isSome = true → n = 64) := by
  unfold State.putOut at h
  split at h
  next hd =>
    cases h
    exact ⟨0, .id key, fun hsome => by simp [hd] at hsome⟩
  next d _ =>
    dsimp only at h
    split at h
    next => cases h
    split at h
    next => cases h
    next t ls run hword =>
      cases h
      exact ⟨_, (State.storeWord_moves hword).comp (.advance d e.t 1 fun _ => rfl), fun _ => rfl⟩

/-! ### Partial words -/

/-- A partial word that has been replaced. -/
theorem DrainSt.part_putPart (d : DrainSt) (serial key : Nat) (bytes : List Nat) :
    (d.putPart serial key bytes).part serial key = bytes := by
  have hnone (n : Nat) (hn : n = serial ∨ n = 0) :
      (d.parts.filter fun p => p.key ≠ key || (p.serial ≠ serial && p.serial ≠ 0)).find?
        (fun p => p.serial = n && p.key = key) = none := by
    refine List.find?_eq_none.mpr fun p hp => ?_
    have hkeep := (List.mem_filter.mp hp).2
    simp only [ne_eq, Bool.or_eq_true, Bool.and_eq_true, decide_eq_true_eq] at hkeep ⊢
    omega
  unfold DrainSt.putPart DrainSt.part
  by_cases hb : bytes = []
  · simp only [hb, if_true, hnone serial (.inl rfl), hnone 0 (.inr rfl)]
    rfl
  · simp only [hb, if_false, List.find?_append, hnone serial (.inl rfl)]
    simp

/-! ### Rounds and their drain sides -/

/-- A change of a round touches the drain side of one core alone. -/
def OnlyDrain (core : Nat) (h : Run → Run) : Prop :=
  ∀ r, h r = { r with drains := (h r).drains } ∧ ∀ c, c ≠ core → (h r).drain c = r.drain c

theorem OnlyDrain.putDrain {core : Nat} (g : Run → DrainSt) : OnlyDrain core fun r => r.putDrain core (g r) :=
  fun r => ⟨rfl, fun _ hc => r.drain_putDrain_ne (g r) hc⟩

section
variable {s t : State} {e : DEnv}

/-- The partial word of the drain of a word is replaced. -/
def DEnv.keepPart (e : DEnv) (key : Nat) (bytes : List Nat) (r : Run) : Run :=
  r.putDrain e.core ((r.drain e.core).putPart ((e.beat.map Beat.serial).getD 0) key bytes)

theorem DEnv.part_keepPart (e : DEnv) (key : Nat) (bytes : List Nat) (r : Run) :
    ((e.keepPart key bytes r).drain e.core).part ((e.beat.map Beat.serial).getD 0) key = bytes := by
  rw [DEnv.keepPart, Run.drain_putDrain_self, DrainSt.part_putPart]

/-! ### The words -/

/-- The stream that a word names. -/
def DEnv.key (e : DEnv) (m : Bool) (st : BitVec 4) : Nat := streamKey e.core m st.toNat

/-- The bytes that a `dst` finds appended to the partial word of its stream (09 R269). -/
def DEnv.appended (e : DEnv) (key : Nat) (da : BitVec 4) : List Nat :=
  e.d.part ((e.beat.map Beat.serial).getD 0) key ++ bytesOf (e.r da) (e.len da)

/-- A `dst.g` in a beat that is not the first of its group does nothing. -/
def DEnv.skips (e : DEnv) (gf : Bool) : Bool := gf && e.beat.any fun b => b.b % max 1 (b.size e.d.image) ≠ 0

theorem DEnv.skips_eq_true {b : Beat} (hb : e.beat = some b) (hrest : b.b % max 1 (b.size e.d.image) ≠ 0) :
    e.skips true = true := by
  simp [DEnv.skips, hb, hrest]

theorem DEnv.skips_eq_false {gf : Bool}
    (h : gf = false ∨ ∀ b, e.beat = some b → b.b % max 1 (b.size e.d.image) = 0) : e.skips gf = false := by
  rcases h with rfl | hfirst
  · rfl
  · cases hb : e.beat with
    | none => simp [DEnv.skips, hb]
    | some b => simp [DEnv.skips, hb, hfirst b hb]

section
variable {da st : BitVec 4} {gf m : Bool}

/-! A `dst` (09 R269) does nothing, adds to the partial word, waits for the window, or writes the word that is full. -/

theorem execDst_skips (he : s.drainEnv = some e) (hskip : e.skips gf = true) :
    exec (.dst da gf m st) s = .next (wordDone s e e.regs e.lens) := by
  change execDst da gf m st s = _
  exact drainWith_done he (if_pos hskip)

theorem execDst_appends (he : s.drainEnv = some e) (hskip : e.skips gf = false)
    (hroom : (e.appended (e.key m st) da).length < 64) :
    exec (.dst da gf m st) s = .next (wordDone s e e.regs e.lens []
      (e.keepPart (e.key m st) (e.appended (e.key m st) da))) := by
  change execDst da gf m st s = _
  refine drainWith_done he ?_
  refine (if_neg (Bool.eq_false_iff.mp hskip)).trans ((if_pos hroom).trans ?_)
  unfold DEnv.appended DEnv.key at hroom ⊢
  rw [if_pos hroom]
  rfl

theorem execDst_waits (he : s.drainEnv = some e) (hskip : e.skips gf = false)
    (hfull : 64 ≤ (e.appended (e.key m st) da).length)
    (hput : s.putOut e (e.key m st) ((e.appended (e.key m st) da).take 64) = .wait t) :
    exec (.dst da gf m st) s = .next (t.lateWord e) := by
  change execDst da gf m st s = _
  refine drainWith_late he ?_
  refine (if_neg (Bool.eq_false_iff.mp hskip)).trans ((if_neg (Nat.not_lt.mpr hfull)).trans ?_)
  unfold DEnv.appended DEnv.key at hput
  rw [hput]

theorem execDst_writes {ls : List Landing} {run : Run → Run} (he : s.drainEnv = some e) (hskip : e.skips gf = false)
    (hfull : 64 ≤ (e.appended (e.key m st) da).length)
    (hput : s.putOut e (e.key m st) ((e.appended (e.key m st) da).take 64) = .go t ls run) :
    exec (.dst da gf m st) s = .next (wordDone t e e.regs e.lens ls fun r =>
      e.keepPart (e.key m st) ((e.appended (e.key m st) da).drop 64) (run r)) := by
  change execDst da gf m st s = _
  refine drainWith_done he ?_
  refine (if_neg (Bool.eq_false_iff.mp hskip)).trans ((if_neg (Nat.not_lt.mpr hfull)).trans ?_)
  have hnot : ¬(e.appended (e.key m st) da).length < 64 := Nat.not_lt.mpr hfull
  unfold DEnv.appended DEnv.key at hput hnot ⊢
  rw [hput, if_neg hnot]
  rfl

end

/-- What a `dld` from a stream does to the round. -/
def DEnv.takeWord (e : DEnv) (key : Nat) (d : StreamDesc) (w : Nat) (r : Run) : Run :=
  (r.putStream key (d.advance e.t 1 ((r.stream key).use w))).tellFail e.pe e.idx key w

theorem DEnv.takeWord_moves (e : DEnv) (key : Nat) (d : StreamDesc) (w : Nat) :
    MovesStream key 64 (e.takeWord key d w) :=
  (MovesStream.advance d e.t 1 fun _ => StreamSt.use_u ..).comp (.tellFail e.pe e.idx key w)

section
variable {dd st : BitVec 4} {m : Bool} {d : StreamDesc}

/-- A `dld` of a word on its way is late (09 R267). -/
theorem execDldStream_late (he : s.drainEnv = some e) (hd : e.k.strm? (e.key m st) = some d)
    (hlate : let x := e.k.run.stream (e.key m st); x.wordLate (x.u / 64) = true) :
    exec (.dldStream dd m st) s = .next (s.lateWord e) := by
  change execDldStream dd m st s = _
  refine drainWith_late he ?_
  unfold DEnv.key at *
  dsimp only at hlate ⊢
  rw [hd]
  exact if_pos hlate

/-- A `dld` of a word that has arrived takes it, and moves U on. -/
theorem execDldStream_word (he : s.drainEnv = some e) (hd : e.k.strm? (e.key m st) = some d)
    (hlate : let x := e.k.run.stream (e.key m st); x.wordLate (x.u / 64) = false) :
    let key := e.key m st
    let x := e.k.run.stream key
    exec (.dldStream dd m st) s = .next (wordDone s e (setLane e.regs dd.toNat (x.word (x.u / 64)))
      (e.lens.set dd.toNat 64) [] (e.takeWord key d (x.u / 64))) := by
  intro key x
  change execDldStream dd m st s = _
  refine drainWith_done he ?_
  obtain ⟨mask, hword⟩ := StreamDesc.read_eq_data (d.tail_le_head (e.k.run.stream (e.key m st)))
  unfold DEnv.key at *
  dsimp only at hlate ⊢
  rw [hd]
  refine (if_neg (Bool.eq_false_iff.mp hlate)).trans ?_
  rw [hword]
  exact congrArg (fun v => DRes.done s (setLane e.regs dd.toNat v) _ _ _) (ofNat_toNat_wide _)

end

/-- The drain side of a core behind the `dend` of a beat: where no other beat of its drain is left, the partial words of
the drain are to be padded in the next cycle (09 R269). -/
def DrainSt.endBeat (d : DrainSt) (vcc : Nat) (b : Beat) : DrainSt :=
  let beats := d.beats.filter fun c => c.serial ≠ b.serial || c.b ≠ b.b
  let ended := beats.all (fun c => c.serial ≠ b.serial) && d.cur.all fun c => c.serial ≠ b.serial
  { d with beats := beats, pads := if ended then d.pads ++ [(vcc + 1, b.serial)] else d.pads,
           groups := if ended then d.groups.filter fun g => g.serial ≠ b.serial else d.groups }

/-- `dend` in a beat. -/
theorem execDend_beat {b : Beat} (he : s.drainEnv = some e) (hb : e.beat = some b) :
    exec .dend s = .next (s.modRun e.ctx e.kh fun r =>
      r.putDrain e.core ((r.drain e.core).endBeat r.vcc b)) := by
  change execDend s = _
  simp only [execDend, he, hb]
  rfl

/-- The beats left are the others. -/
theorem DrainSt.mem_endBeat {d : DrainSt} {vcc : Nat} {b c : Beat} :
    c ∈ (d.endBeat vcc b).beats ↔ c ∈ d.beats ∧ ¬(c.serial = b.serial ∧ c.b = b.b) := by
  simp only [DrainSt.endBeat, List.mem_filter]
  simp only [ne_eq, Bool.or_eq_true, decide_eq_true_eq, not_and_or]

/-- Beats of the drain of a beat are left, or still to come. -/
def DrainSt.MoreBeats (d : DrainSt) (b : Beat) : Prop :=
  (∃ c, c ∈ d.beats ∧ c.serial = b.serial ∧ c.b ≠ b.b) ∨ ∃ c, d.cur = some c ∧ c.serial = b.serial

/-- They are none where no beat that is left is of that drain, and the drain path has gone on to another. -/
theorem DrainSt.endBeat_ended_iff (d : DrainSt) (b : Beat) :
    ((d.beats.filter fun c => c.serial ≠ b.serial || c.b ≠ b.b).all (fun c => c.serial ≠ b.serial)
      && d.cur.all fun c => c.serial ≠ b.serial) = true ↔ ¬d.MoreBeats b := by
  rw [DrainSt.MoreBeats, Bool.and_eq_true, not_or]
  refine and_congr ?_ ?_
  · simp only [List.all_eq_true, List.mem_filter, ne_eq, Bool.or_eq_true, decide_eq_true_eq, not_exists, not_and,
      not_not]
    constructor
    · intro h c hc hserial
      by_contra hb
      exact h c ⟨hc, .inr hb⟩ hserial
    · rintro h c ⟨hc, hother⟩ hserial
      exact hother.elim (· hserial) (· (h c hc hserial))
  · cases d.cur <;> simp

theorem DrainSt.endBeat_pads_of_more {d : DrainSt} {b : Beat} (vcc : Nat) (h : d.MoreBeats b) :
    (d.endBeat vcc b).pads = d.pads :=
  if_neg fun hend => (d.endBeat_ended_iff b).mp hend h

theorem DrainSt.endBeat_pads_of_last {d : DrainSt} {b : Beat} (vcc : Nat) (h : ¬d.MoreBeats b) :
    (d.endBeat vcc b).pads = d.pads ++ [(vcc + 1, b.serial)] :=
  if_pos ((d.endBeat_ended_iff b).mpr h)

end

end Sys2Proof.Machine
end

section
/-! The movement of drain words, together (09 R258, R267 to R269). -/
namespace Sys2Proof.Machine

/-- Settles O16: a word that reads or fills a word of a stream moves its U on (`DEnv.takeWord_moves`,
`State.putOut_moves`), a `dst` leaves what it did not write in the partial word (`DEnv.part_keepPart`), and `dend` takes
its beat from those of the drain (`DrainSt.mem_endBeat`), the last one making the padding due
(`DrainSt.endBeat_pads_of_last`). -/
theorem drainMovement : Obligations.DrainMovement := by
  intro dd da st g m fl gf v s e he key x regs lens serial first bytes part keeps moves full stores
  have hskip : stores → e.skips gf = false := DEnv.skips_eq_false
  have hmoves {n : Nat} {h : Run → Run} (hm : MovesStream key n h) (hn : (e.k.strm? key).isSome = true → n = 64) :
      moves h := fun r => ⟨fun q hq => hm.other r q hq, fun hd => hn hd ▸ hm.moved r⟩
  have hkeeps (bs : List Nat) : keeps (e.keepPart key bs) := OnlyDrain.putDrain _
  refine ⟨fun b hb => ?beat, fun d hd => ⟨fun hlate => ?wait, fun hlate _ => ?word⟩, ?copy, ?immediate,
    fun b hb hn hgf hfirst => ?skip, fun hs hf => ?append, fun hs hf t hput => ?full, fun hs hf t ls run hput => ?write,
    ?loop, fun b hb => ?ends⟩
  case beat => exact .of_drainSet he rfl (by simp [hb]) rfl
  case wait => exact execDldStream_late he hd hlate
  case word =>
    exact ⟨_, execDldStream_word he hd hlate, hmoves (e.takeWord_moves key d _) fun _ => rfl,
      fun r => Run.eq_of_sansStreams ((e.takeWord_moves key d _).sans r)⟩
  case copy => exact .of_drainSet he rfl rfl rfl
  case immediate =>
    exact .of_patterns he rfl rfl fun _ => ⟨rfl, ite_lt (Fmt.enc_lt .f32 _ _ _) (lowBits_lt _ 32)⟩
  case skip =>
    subst hgf
    exact execDst_skips he (DEnv.skips_eq_true hb hfirst)
  case append =>
    exact ⟨_, execDst_appends he (hskip hs) (Nat.not_le.mp hf), hkeeps _, fun r => e.part_keepPart key _ r⟩
  case full => exact execDst_waits he (hskip hs) hf hput
  case write =>
    obtain ⟨n, hm, hn⟩ := State.putOut_moves hput
    refine ⟨_, execDst_writes he (hskip hs) hf hput, ?_, fun r => ?_, fun r => e.part_keepPart key _ _⟩
    · exact fun r => hmoves hm hn r
    · exact congrArg (fun x : Run => { x with drains := (e.keepPart key (bytes.drop 64) (run r)).drains })
        (Run.eq_of_sansStreams (hm.sans r))
  case loop =>
    change execDloop g s = _
    simp only [execDloop, he]
  case ends =>
    refine ⟨_, execDend_beat he hb, OnlyDrain.putDrain _, fun r => ?_⟩
    intro d y more
    have hy : y = d.endBeat r.vcc b := Run.drain_putDrain_self ..
    rw [hy]
    exact ⟨fun c => DrainSt.mem_endBeat, DrainSt.endBeat_pads_of_more r.vcc, DrainSt.endBeat_pads_of_last r.vcc, rfl⟩

end Sys2Proof.Machine
end

section
/-! What the traffic of memory leaves of threads, published buffers and engines: posted operations, write-combining
buffers and counted lines (11 R330, 13 R356, R361). -/
namespace Sys2Proof.Machine

/-- An engine but for the end that a cause binds it to (10 R304). -/
def Engine.sansEnd (x : Engine) : Engine := { x with bound := none, cause := 0, addr := 0 }

/-- The state t is s but for what memory's traffic changes: each thread stands at its instruction with its registers,
the published buffers are the same, and each engine is the same but for an end that a cause has bound it to. -/
structure State.Keeps (s t : State) : Prop where
  cur : t.cur = s.cur
  pc : ∀ n, (t.thr n).pc = (s.thr n).pc
  x : ∀ n, (t.thr n).x = (s.thr n).x
  pubs : ∀ n, (t.ctx n).pubs = (s.ctx n).pubs
  eng : ∀ n, (t.eng n).sansEnd = (s.eng n).sansEnd

namespace State.Keeps
variable {s₀ s t : State}

theorem refl (s : State) : s.Keeps s := ⟨rfl, fun _ => rfl, fun _ => rfl, fun _ => rfl, fun _ => rfl⟩

theorem trans (h : s₀.Keeps s) (k : s.Keeps t) : s₀.Keeps t :=
  ⟨k.cur.trans h.cur, fun n => (k.pc n).trans (h.pc n), fun n => (k.x n).trans (h.x n), fun n => (k.pubs n).trans (h.pubs n),
    fun n => (k.eng n).trans (h.eng n)⟩

/-- Fields beside threads, contexts and engines may change. -/
theorem of_fields (hcur : t.cur = s.cur) (hthrs : t.thrs = s.thrs) (hctxs : t.ctxs = s.ctxs) (hengs : t.engs = s.engs) :
    s.Keeps t := by
  refine ⟨hcur, fun n => ?_, fun n => ?_, fun n => ?_, fun n => ?_⟩
  · rw [State.thr, State.thr, hthrs]
  · rw [State.thr, State.thr, hthrs]
  · rw [State.ctx, State.ctx, hctxs]
  · rw [State.eng, State.eng, hengs]

theorem putThr {n : Nat} {y : Thr} (hpc : y.pc = (s.thr n).pc) (hx : y.x = (s.thr n).x) : s.Keeps (s.putThr n y) := by
  have hthr (m : Nat) : ((s.putThr n y).thr m).pc = (s.thr m).pc ∧ ((s.putThr n y).thr m).x = (s.thr m).x := by
    by_cases hm : m = n
    · subst hm
      simp [hpc, hx]
    · simp [State.thr_putThr_ne s y hm]
  exact ⟨rfl, fun m => (hthr m).1, fun m => (hthr m).2, fun _ => rfl, fun _ => rfl⟩

theorem putCtx {n : Nat} {y : Ctx} (hpubs : y.pubs = (s.ctx n).pubs) : s.Keeps (s.putCtx n y) := by
  refine ⟨rfl, fun _ => rfl, fun _ => rfl, fun m => ?_, fun _ => rfl⟩
  by_cases hm : m = n
  · subst hm
    simp [hpubs]
  · simp [State.ctx_putCtx_ne s y hm]

/-- A context put back as it stood before some traffic, but for what is not kept. -/
theorem putCtx_behind {n : Nat} {y : Ctx} (h : s.Keeps t) (hpubs : y.pubs = (s.ctx n).pubs) : s.Keeps (t.putCtx n y) :=
  h.trans (putCtx (hpubs.trans (h.pubs n).symm))

theorem putEng {n : Nat} {y : Engine} (hy : y.sansEnd = (s.eng n).sansEnd) : s.Keeps (s.putEng n y) := by
  refine ⟨rfl, fun _ => rfl, fun _ => rfl, fun _ => rfl, fun m => ?_⟩
  by_cases hm : m = n
  · subst hm
    simp [hy]
  · simp [State.eng_putEng_ne s y hm]

theorem foldl {α : Type} {f : State → α → State} (hf : ∀ (s : State) a, s.Keeps (f s a)) (l : List α) (s : State) :
    s.Keeps (l.foldl f s) := by
  induction l generalizing s with
  | nil => exact refl s
  | cons a l ih => exact (hf s a).trans (ih (f s a))

theorem faultEngine (en : Nat) (cause : BitVec 16) (info : Nat) : s.Keeps (s.faultEngine en cause info) := putEng rfl

theorem modRun (ctx kh : Nat) (f : Run → Run) : s.Keeps (s.modRun ctx kh f) := by
  unfold State.modRun State.modKernel
  split
  · exact putCtx rfl
  · exact refl s

end State.Keeps

/-! ### Writes at home -/

@[simp] theorem Thr.wake_pc (t : Thr) (pa n : Nat) : (t.wake pa n).pc = t.pc := by
  unfold Thr.wake
  split <;> rfl

@[simp] theorem Thr.wake_x (t : Thr) (pa n : Nat) : (t.wake pa n).x = t.x := by
  unfold Thr.wake
  split <;> rfl

/-- Each thread re-checks its watch when lines are written. -/
@[simp] theorem State.thr_wakeRange (s : State) (pa n k : Nat) : (s.wakeRange pa n).thr k = (s.thr k).wake pa n := by
  simp only [State.wakeRange, State.thr, Tab.getD, Tab.get?_mapVal]
  cases Tab.get? s.thrs k with
  | none => simp [Thr.wake]
  | some t => rfl

@[simp] theorem State.thr_touched (s : State) (keep : Option Nat) (pa n k : Nat) :
    (s.touched keep pa n).thr k = (s.thr k).wake pa n := (s.breakResvs pa n).thr_wakeRange pa n k

namespace State.Keeps
variable {s : State}

theorem wakeRange (s : State) (pa n : Nat) : s.Keeps (s.wakeRange pa n) :=
  ⟨rfl, fun _ => by simp, fun _ => by simp, fun _ => rfl, fun _ => rfl⟩

theorem touched (s : State) (keep : Option Nat) (pa n : Nat) : s.Keeps (s.touched keep pa n) :=
  ⟨rfl, fun _ => by simp, fun _ => by simp, fun _ => rfl, fun _ => rfl⟩

theorem with_mem {t : State} {m : List Host.Cell} {c : Tab CodecEnt} (h : s.Keeps t) :
    s.Keeps { t with mem := m, codec := c } := h.trans (of_fields rfl rfl rfl rfl)

theorem mergeBlock (s : State) (cri b : Nat) (wr : Nat → Option Nat) : s.Keeps (s.mergeBlock cri b wr) := by
  unfold State.mergeBlock
  dsimp only
  split
  · exact refl s
  · exact with_mem (trans (of_fields rfl rfl rfl rfl : s.Keeps (s.unpoison _ _)) (foldl (fun s _ => touched s ..) _ _))

theorem merge (s : State) (pa : Nat) (v en : List Nat) : s.Keeps (s.merge pa v en) :=
  foldl (fun s b => mergeBlock s _ b _) _ s

theorem poke (s : State) (pa : Nat) (v en : List Nat) (keep : Option Nat) : s.Keeps (s.poke pa v en keep) := by
  unfold State.poke
  dsimp only
  split
  · split
    · exact merge s pa v en
    · exact refl s
  · split
    · exact (touched s keep pa v.length).trans (merge _ pa v en)
    · refine (touched s keep pa v.length).trans ?_
      split <;> exact of_fields rfl rfl rfl rfl

theorem pokeLE (s : State) (pa n v : Nat) : s.Keeps (s.pokeLE pa n v) := poke s ..

theorem sysPoke (s : State) (pa n v : Nat) : s.Keeps (s.sysPoke pa n v) := by
  unfold State.sysPoke
  split
  · exact pokeLE s pa n v
  · exact refl s

/-! ### Counted lines -/

theorem notice (s : State) (ctx unit key : Nat) (cs : List Nat) : s.Keeps (s.notice ctx unit key cs) := by
  unfold State.notice
  dsimp only
  have hcounts : s.Keeps { s with counts := Tab.put s.counts key (List.replicate 8 0) } := of_fields rfl rfl rfl rfl
  split
  · exact putCtx_behind
      ((((hcounts.trans (sysPoke ..)).trans (sysPoke ..)).trans (sysPoke ..)).trans (sysPoke ..)) rfl
  · exact putCtx_behind (hcounts.trans (sysPoke ..)) rfl

theorem countHome (s : State) (ctx clu pa : Nat) : s.Keeps (s.countHome ctx clu pa) := by
  unfold State.countHome
  split
  · exact refl s
  · dsimp only
    split
    · exact notice s ..
    · exact of_fields rfl rfl rfl rfl

/-! ### Posted operations and write-combining buffers -/

theorem postedFault (s : State) (b : BankOp) (c : BitVec 16) (i : Nat) : s.Keeps (s.postedFault b c i) := by
  unfold State.postedFault
  dsimp only
  split
  · split
    · exact putThr rfl rfl
    · exact refl s
  · split
    · split
      · exact faultEngine ..
      · exact refl s
    · split
      · exact modRun ..
      · exact refl s

theorem perform (s : State) (b : BankOp) : s.Keeps (s.perform b) := by
  unfold State.perform
  dsimp only
  split
  · exact poke s ..
  · split
    · exact postedFault s ..
    · exact pokeLE s ..

theorem drainBanks (s : State) (p : BankOp → Bool) : s.Keeps (s.drainBanks p) :=
  (foldl perform (s.banks.filter p) s).trans (of_fields rfl rfl rfl rfl)

theorem settle (s : State) (pa n : Nat) : s.Keeps (s.settle pa n) := drainBanks s _

theorem wcDrain (s : State) (key : Nat) : s.Keeps (s.wcDrain key) := by
  unfold State.wcDrain
  split
  · exact refl s
  · dsimp only
    split
    · exact of_fields rfl rfl rfl rfl
    · have hpoke {t : State} (a : Nat) (v en : List Nat) (k : Option Nat) (w : Tab WcBuf) :
          t.Keeps { t.poke a v en k with wc := w } := (poke t a v en k).trans (of_fields rfl rfl rfl rfl)
      split
      · exact ((settle s _ _).trans (hpoke ..)).trans (countHome ..)
      · exact (settle s _ _).trans (hpoke ..)

theorem arriveAt (s : State) (a n : Nat) : s.Keeps (s.arriveAt a n) := (foldl wcDrain _ s).trans (settle _ a n)

/-- What a release of a context waits for (10 R310). -/
theorem flushCtx (s : State) (ctx : Nat) : s.Keeps (s.flushCtx ctx) := (foldl wcDrain _ s).trans (drainBanks _ _)

/-- What an entry's completion waits for (10 R298). -/
theorem flushEngine (s : State) (c : CEnv) : s.Keeps (s.flushEngine c) := (wcDrain s _).trans (drainBanks _ _)

end State.Keeps

end Sys2Proof.Machine
end

section
/-! What an engine on the move does: the entry that it performs, and where the entry leaves it (10 R286, R287, R300). -/
namespace Sys2Proof.Machine

/-! ### One engine changed -/

@[simp] theorem State.eng_modEng_self (s : State) (n : Nat) (f : Engine → Engine) : (s.modEng n f).eng n = f (s.eng n) :=
  s.eng_putEng_self n _

theorem State.eng_modEng_ne (s : State) {n m : Nat} (f : Engine → Engine) (h : m ≠ n) : (s.modEng n f).eng m = s.eng m :=
  s.eng_putEng_ne _ h

/-- An instruction whose state is t but for a change of the engine on the move. -/
theorem EngineTo.of_modEng {i : Instr} {s t : State} {f : Engine → Engine}
    (h : exec i s = .next (t.modEng s.cur.eng f)) : EngineTo i s t (f (t.eng s.cur.eng)) :=
  ⟨_, h, t.eng_modEng_self _ f, fun _ hn => t.eng_modEng_ne f hn, rfl⟩

/-! ### The engine behind an entry -/

section
variable (x : Engine)

@[simp] theorem Engine.finish_st : x.finish.st = x.st := by
  unfold Engine.finish
  split <;> rfl

@[simp] theorem Engine.finish_elem : x.finish.elem = x.elem := by
  unfold Engine.finish
  split <;> rfl

@[simp] theorem Engine.finish_entry : x.finish.entry = x.entry := by
  unfold Engine.finish
  split <;> rfl

@[simp] theorem Engine.finish_run : x.finish.run = x.run := by
  unfold Engine.finish
  split <;> rfl

@[simp] theorem Engine.finish_flights : x.finish.flights = x.flights := by
  unfold Engine.finish
  split <;> rfl

@[simp] theorem Engine.nextEntry_st : x.nextEntry.st = x.st := by
  unfold Engine.nextEntry
  split
  · rfl
  · split <;> rfl

@[simp] theorem Engine.nextEntry_elem : x.nextEntry.elem = 0 := by
  unfold Engine.nextEntry
  split
  · rfl
  · split <;> rfl

@[simp] theorem Engine.nextEntry_flights : x.nextEntry.flights = x.flights := by
  unfold Engine.nextEntry
  split
  · rfl
  · split <;> rfl

/-- An entry with another behind it in its run. -/
theorem Engine.nextEntry_within (h : x.entry + 1 < x.launch.nent) :
    x.nextEntry.entry = x.entry + 1 ∧ x.nextEntry.run = x.run := by
  rw [Engine.nextEntry, if_pos h]
  exact ⟨rfl, rfl⟩

end

/-- The engine y has gone on from where x stands: to the next entry of its run, if there is one. -/
def Engine.Past (y x : Engine) : Prop :=
  y.elem = 0 ∧ (x.entry + 1 < x.launch.nent → y.entry = x.entry + 1 ∧ y.run = x.run)

theorem Engine.past_nextEntry (x : Engine) : x.nextEntry.finish.Past x :=
  ⟨by simp, fun h => by simpa using x.nextEntry_within h⟩

/-- Behind an engine that is x but for the end that a cause binds it to. -/
theorem Engine.Past.of_sansEnd {y z x : Engine} (h : y.Past z) (hz : z.sansEnd = x.sansEnd) : y.Past x := by
  have hentry : z.entry = x.entry := (congrArg Engine.entry hz :)
  have hrun : z.run = x.run := (congrArg Engine.run hz :)
  have hlaunch : z.launch = x.launch := (congrArg Engine.launch hz :)
  rwa [Engine.Past, hentry, hrun, hlaunch] at h

/-! ### The entry in hand -/

section
variable {s t : State} {e : CopyEnt} {c : CEnv} {kind : Nat}

@[simp] theorem State.eng_atEntry (s : State) (e : CopyEnt) :
    (s.atEntry e).eng s.cur.eng = { s.eng s.cur.eng with bounds := e.bounds } := s.eng_modEng_self _ _

/-- An engine's domain is the same with an entry in hand. -/
@[simp] theorem State.engKernel_atEntry (s : State) (e : CopyEnt) :
    (s.atEntry e).engKernel s.cur.eng = s.engKernel s.cur.eng := by
  simp only [State.engKernel, State.eng_atEntry]
  rfl

/-- A beat is due whether or not its entry is in hand. -/
@[simp] theorem State.beatDue_atEntry (s : State) (e : CopyEnt) :
    (s.atEntry e).beatDue s.cur.eng = s.beatDue s.cur.eng := by
  simp only [State.beatDue, State.engKernel_atEntry, State.eng_atEntry]
  rfl

/-- The surroundings of an entry are those of its engine. -/
theorem State.cenv_eq_some_iff {en : Nat} : s.cenv en kind e = some c ↔
    ∃ ctx, (s.eng en).own = some ctx ∧ c = ⟨en, ctx, en / 16, kind, e, (s.eng en).launch, (s.eng en).kern, false⟩ := by
  rw [State.cenv, Option.map_eq_some_iff]
  exact exists_congr fun ctx => and_congr_right' eq_comm

theorem CopyReady.env (h : CopyReady s kind e c) :
    c.en = s.cur.eng ∧ c.kind = kind ∧ c.ent = e ∧ c.l = (s.eng s.cur.eng).launch := by
  obtain ⟨hc, -⟩ := h
  obtain ⟨ctx, -, rfl⟩ := State.cenv_eq_some_iff.mp hc
  exact ⟨rfl, rfl, rfl, rfl⟩

/-- Each kind of entry is performed by its engine. -/
theorem exec_copyEntry (s : State) (e : CopyEnt) (h1 : 1 ≤ kind) (h9 : kind ≤ 9) :
    exec (copyEntry kind e) s = .next (s.copyRun kind e) := by
  match kind, h1, h9 with
  | 1, _, _ | 2, _, _ | 3, _, _ | 4, _, _ | 5, _, _ | 6, _, _ | 7, _, _ | 8, _, _ | 9, _, _ => rfl

/-- What an engine that is ready performs. -/
theorem State.copyRun_ready (h : CopyReady s kind e c) : s.copyRun kind e =
    if (s.eng s.cur.eng).launch.timed then
      (if s.beatDue s.cur.eng then (s.atEntry e).beatStep c else s.atEntry e)
    else if kind = 9 then (s.atEntry e).waitsStep c
    else if kind = 7 then (s.atEntry e).pubStep c
    else if kind = 8 ∨ (s.eng s.cur.eng).elem ≥ entElems e then (s.atEntry e).entryDone c
    else (s.atEntry e).elementStep c := by
  obtain ⟨hc, hst, hhalted, hbound, hended, hstalled, hok⟩ := h
  have hrun : (!((s.eng s.cur.eng).st = .running || (kind = 9 && (s.eng s.cur.eng).st = .waiting))) = false := by
    simpa using hst.resolve_left
  have hgoes : ¬((s.eng s.cur.eng).bound.isSome = true ∨ (s.eng s.cur.eng).ended = true
      ∨ s.copyStalled c.ctx s.cur.eng = true
      ∨ (!((s.eng s.cur.eng).st = .running || (kind = 9 && (s.eng s.cur.eng).st = .waiting))) = true) := by
    simp [hbound, hended, hstalled, hrun]
  have hok' : (!(s.atEntry e).entryOk c) = false := by simp [hok]
  rw [State.copyRun]
  simp only [hc, hhalted, Bool.false_eq_true, if_false, if_neg hgoes]
  change (if (!(s.atEntry e).entryOk c) = true then _
    else if _ then if (s.atEntry e).beatDue s.cur.eng = true then _ else _ else _) = _
  simp only [hok', Bool.false_eq_true, if_false, State.beatDue_atEntry]
  rfl

/-- A free-running engine with an entry of one of the last three kinds. -/
theorem exec_pub (h : CopyReady s 7 e c) (ht : (s.eng s.cur.eng).launch.timed = false) :
    exec (.pub e) s = .next ((s.atEntry e).pubStep c) := by
  have hrun := State.copyRun_ready h
  simp only [ht] at hrun
  exact congrArg Host.Outcome.next hrun

theorem exec_copyCnt (h : CopyReady s 8 e c) (ht : (s.eng s.cur.eng).launch.timed = false) :
    exec (.copyCnt e) s = .next ((s.atEntry e).entryDone c) := by
  have hrun := State.copyRun_ready h
  simp only [ht] at hrun
  exact congrArg Host.Outcome.next hrun

theorem exec_waits (h : CopyReady s 9 e c) (ht : (s.eng s.cur.eng).launch.timed = false) :
    exec (.waits e) s = .next ((s.atEntry e).waitsStep c) := by
  have hrun := State.copyRun_ready h
  simp only [ht] at hrun
  exact congrArg Host.Outcome.next hrun

/-- A timed engine performs the beat that is due. -/
theorem exec_beat (h1 : 1 ≤ kind) (h9 : kind ≤ 9) (h : CopyReady s kind e c) (hdue : s.beatDue s.cur.eng = true) :
    exec (copyEntry kind e) s = .next ((s.atEntry e).beatStep c) := by
  have ht : (s.eng s.cur.eng).launch.timed = true := by
    simp only [State.beatDue, Bool.and_eq_true] at hdue
    exact hdue.1.1.1.1
  rw [exec_copyEntry s e h1 h9, State.copyRun_ready h, if_pos ht, if_pos hdue]

end

end Sys2Proof.Machine
end

section
/-! The entries PUB, CNT and WAITS of a free-running engine, and the beats of a timed one (10 R286, R295 to R300). -/
namespace Sys2Proof.Machine

section
variable {s t : State} {e : CopyEnt} {c : CEnv} {k : Kernel} {kind v : Nat}

/-! ### Completion (10 R298) -/

theorem State.entryDone_uncounted (hcnt : 16 ≤ c.ent.cnt.toNat) :
    s.entryDone c = (s.flushEngine c).modEng c.en fun x => (x.forget false).nextEntry.finish := by
  simp only [State.entryDone, if_neg (Nat.not_lt.mpr hcnt)]

theorem State.entryDone_counted (hcnt : c.ent.cnt.toNat < 16)
    (hadd : s.copyCount c (elemKey (s.eng c.en).elem 10) (nth c.l.ctrs c.ent.cnt.toNat 0) c.ent.cntinc = .ok () t) :
    s.entryDone c = t.modEng c.en fun x => (x.forget false).nextEntry.finish := by
  simp only [State.entryDone, if_pos hcnt, hadd]

/-- What an engine forgets, and its state, do not tell where it stands. -/
theorem Engine.past_forget (x : Engine) : (x.forget false).nextEntry.finish.Past x :=
  Engine.past_nextEntry (x.forget false)

theorem Engine.past_running (x : Engine) : ({ x with st := .running } : Engine).nextEntry.finish.Past x :=
  Engine.past_nextEntry { x with st := .running }

/-- An entry without a counter leaves its engine past it, whatever end the writes before it have met. -/
theorem State.entryDone_past (hcnt : 16 ≤ c.ent.cnt.toNat) : ((s.entryDone c).eng c.en).Past (s.eng c.en) := by
  rw [State.entryDone_uncounted hcnt, State.eng_modEng_self]
  exact (Engine.past_forget _).of_sansEnd ((State.Keeps.flushEngine s c).eng c.en)

/-! ### PUB, WAITS (10 R295, R297) -/

theorem State.pubStep_publishes (helem : (s.eng c.en).elem = 0)
    (hpub : s.copyPublish c (c.l.buf c.ent.dbuf.toNat).shandle = .ok () t) :
    s.pubStep c = t.modEng c.en fun x => { x with elem := 1 } := by
  simp only [State.pubStep, if_pos helem, hpub]

theorem State.pubStep_completes (helem : (s.eng c.en).elem = 1) : s.pubStep c = s.entryDone c := by
  simp only [State.pubStep, helem, Nat.one_ne_zero, if_false]

theorem State.waitsStep_satisfied (hv : s.waitsValue c = .ok v t) (hreached : c.awaited (t.eng c.en).run ≤ v) :
    s.waitsStep c = t.modEng c.en fun x => ({ x with st := .running } : Engine).nextEntry.finish := by
  simp only [State.waitsStep, hv, ge_iff_le, if_pos hreached]

theorem State.waitsStep_waits (hv : s.waitsValue c = .ok v t) (hbelow : v < c.awaited (t.eng c.en).run) :
    s.waitsStep c = t.modEng c.en fun x => { x with st := .waiting } := by
  simp only [State.waitsStep, hv, ge_iff_le, if_neg (Nat.not_le.mpr hbelow)]

theorem State.waitsStep_late (hv : s.waitsValue c = .wait t) : s.waitsStep c = t := by
  simp only [State.waitsStep, hv]

theorem State.waitsStep_fault {cause : BitVec 16} {info : Nat} (hv : s.waitsValue c = .fault cause info t) :
    s.waitsStep c = t.engineFailed c.en cause info := by
  simp only [State.waitsStep, hv]
  rfl

/-- An engine performs the entry that it has read (10 R286). -/
theorem State.entryStep_performs {en : Nat} {p : Nat × CopyEnt} (hp : s.fetchEntry en = .ok p t) (h1 : 1 ≤ p.1)
    (h9 : p.1 ≤ 9) : exec (copyEntry p.1 p.2) t = .next (s.entryStep en) := by
  rw [exec_copyEntry t p.2 h1 h9, State.entryStep, hp]

theorem exec_waitsSatisfied (hst : (s.eng s.cur.eng).st = .waiting) (hbound : (s.eng s.cur.eng).bound = none) :
    exec .waitsSatisfied s = .next (s.entryStep s.cur.eng) := by
  change execWaitsSatisfied s = _
  simp [execWaitsSatisfied, hst, hbound]

/-! ### Beats (10 R300) -/

theorem exec_copyArmedStart_reached (hk : s.engKernel s.cur.eng = some k) (hst : (s.eng s.cur.eng).st = .armed)
    (hbound : (s.eng s.cur.eng).bound = none) (hrun : k.state = .running)
    (hreached : (s.eng s.cur.eng).beatCycle ≤ k.run.vcc) :
    exec .copyArmedStart s = .next (s.modEng s.cur.eng fun x => { x with st := .running }) := by
  change execCopyArmedStart s = _
  simp [execCopyArmedStart, hk, hst, hbound, hrun, hreached]

theorem exec_copyArmedStart_before (hk : s.engKernel s.cur.eng = some k)
    (hbefore : k.run.vcc < (s.eng s.cur.eng).beatCycle) : exec .copyArmedStart s = .next s := by
  change execCopyArmedStart s = _
  simp [execCopyArmedStart, hk, Nat.not_le.mpr hbefore]

theorem exec_copyBeat (hdue : s.beatDue s.cur.eng = true) : exec .copyBeat s = .next (s.entryStep s.cur.eng) := by
  change execCopyBeat s = _
  rw [execCopyBeat, if_pos hdue]

theorem State.beatStep_ok (h : s.beatGo c = .ok () t) : s.beatStep c = t.modEng c.en Engine.finish := by
  simp only [State.beatStep, State.beatWhole, h]

theorem State.beatStep_wait (h : s.beatGo c = .wait t) :
    s.beatStep c = t.modEng c.en fun x => x.backTo (s.eng c.en) := by
  simp only [State.beatStep, State.beatWhole, h]

theorem State.beatStep_fault {cause : BitVec 16} {info : Nat} (h : s.beatGo c = .fault cause info t) :
    s.beatStep c = t.engineFailed c.en cause info := by
  simp only [State.beatStep, State.beatWhole, h]
  rfl

/-- What a beat does to memory is under way to the end of the 23rd cycle behind it. -/
theorem State.flights_fly (hk : s.engKernel c.en = some k) (acts : List FlightAct) (fmt : Option PageFmt) :
    ((s.fly c acts fmt).eng c.en).flights = (s.eng c.en).flights ++ acts.map fun a => ⟨k.run.vcc + 23, a, fmt⟩ := by
  simp only [State.fly, hk, Option.map_some, Option.getD_some, State.eng_modEng_self]

/-- The completion add of an entry, if it has one. -/
def CEnv.adds (c : CEnv) : List FlightAct :=
  if c.ent.cnt.toNat < 16 then [.count (nth c.l.ctrs c.ent.cnt.toNat 0) c.ent.cntinc] else []

/-- The beat of a CNT completes it. -/
theorem State.beatGo_cnt (hkind : c.kind = 8) :
    s.beatGo c = .ok () ((s.fly c (c.adds)).modEng c.en fun x => (x.forget false).nextEntry) := by
  simp [State.beatGo, hkind, dataKind, CEnv.adds]

/-- The beat of a PUB publishes and completes. -/
theorem State.beatGo_pub (hkind : c.kind = 7) :
    s.beatGo c = .ok () ((s.fly c (.publish (c.l.buf c.ent.dbuf.toNat).shandle :: c.adds)).modEng c.en
      fun x => (x.forget false).nextEntry) := by
  simp [State.beatGo, hkind, dataKind, CEnv.adds]

/-- The flights of an engine behind a beat that has completed its entry. -/
theorem State.beatStep_flights {acts : List FlightAct} (hk : s.engKernel c.en = some k)
    (h : s.beatGo c = .ok () ((s.fly c acts).modEng c.en fun x => (x.forget false).nextEntry)) :
    ((s.beatStep c).eng c.en).flights = (s.eng c.en).flights ++ acts.map fun a => ⟨k.run.vcc + 23, a, none⟩ := by
  rw [State.beatStep_ok h, State.eng_modEng_self, State.eng_modEng_self, Engine.finish_flights, Engine.nextEntry_flights,
    ← State.flights_fly hk]
  rfl

end

/-! ### The statement -/

/-- Settles O34: an engine that is ready performs the step of its entry (`State.copyRun_ready`); an entry that completes
leaves it past where it stood (`State.entryDone_past`, since what it flushes binds it to an end at most,
`State.Keeps.flushEngine`), a WAITS goes by the value that it reads, and a beat is its reading, 23 cycles before what it
does lands (`State.beatStep_flights`). -/
theorem copyTimed : Obligations.CopyTimed := by
  constructor
  · intro s t e c v cause info p en x b past waits
    refine ⟨fun hready ht => ?pub, fun hready ht => ?cnt, fun hready ht => ?waits, fun hcnt hready => ?stage, rfl,
      fun hst hbound hp _ h1 h9 => ?again⟩
    case pub =>
      obtain ⟨hen, -, rfl, -⟩ := hready.env
      refine ⟨fun helem hpub => ?_, fun helem hcnt => ⟨_, exec_pub hready ht, ?_⟩⟩
      · refine .of_modEng (f := fun x => { x with elem := 1 }) ?_
        rw [exec_pub hready ht, State.pubStep_publishes (by rwa [hen, State.eng_atEntry]) hpub, hen]
      · have hpast := State.entryDone_past (s := s.atEntry c.ent) hcnt
        rw [hen, State.eng_atEntry] at hpast
        rw [State.pubStep_completes (by rwa [hen, State.eng_atEntry])]
        exact hpast
    case cnt =>
      obtain ⟨hen, -, rfl, -⟩ := hready.env
      refine ⟨fun hcnt => ⟨_, exec_copyCnt hready ht, ?_⟩, fun hcnt hadd => ⟨_, exec_copyCnt hready ht, ?_⟩⟩
      · have hpast := State.entryDone_past (s := s.atEntry c.ent) hcnt
        rwa [hen, State.eng_atEntry] at hpast
      · rw [State.entryDone_counted hcnt (by rwa [hen, State.eng_atEntry]), hen]
        refine ⟨?_, rfl⟩
        change ((t.modEng en _).eng en).Past (t.eng en)
        rw [State.eng_modEng_self]
        exact Engine.past_forget _
    case waits =>
      obtain ⟨hen, -, rfl, -⟩ := hready.env
      have hexec := exec_waits hready ht
      refine ⟨fun hv hreached => ⟨_, hexec, ?_⟩, fun hv hbelow => ?_, fun hv => ?_, fun hv => ?_⟩
      · rw [State.waitsStep_satisfied hv (by rwa [hen]), hen]
        change ((t.modEng en _).eng en).Past (t.eng en) ∧ _
        rw [State.eng_modEng_self]
        exact ⟨Engine.past_running _, by simp⟩
      · refine .of_modEng (f := fun x => { x with st := .waiting }) ?_
        rw [hexec, State.waitsStep_waits hv (by rwa [hen]), hen]
      · rw [hexec, State.waitsStep_late hv]
      · rw [hexec, State.waitsStep_fault hv, hen]
    case stage =>
      obtain ⟨hen, -, rfl, -⟩ := hready.env
      change State.waitsValue _ c = _
      rw [State.waitsValue, if_pos hcnt, hen, State.eng_atEntry]
    case again => exact ⟨_, exec_waitsSatisfied hst hbound, State.entryStep_performs hp h1 h9⟩
  · intro s t kind e c k cause info p en x b go count hk
    refine ⟨fun hst hbound hrun hreached => ?starts, fun _ hbefore => ?armed, fun hdue hp _ h1 h9 => ?performs,
      fun h1 h9 hready hdue => ?beat, fun acts fmt hen => ?flies, fun ht hdue => ⟨fun hready => ?cnt, fun hready => ?pub⟩⟩
    case starts => exact .of_modEng (exec_copyArmedStart_reached hk hst hbound hrun hreached)
    case armed => exact exec_copyArmedStart_before hk hbefore
    case performs => exact ⟨_, exec_copyBeat hdue, State.entryStep_performs hp h1 h9⟩
    case beat =>
      obtain ⟨hen, -, -, -⟩ := hready.env
      have hexec := exec_beat h1 h9 hready hdue
      refine ⟨fun hgo => ?_, fun hgo => ?_, fun hgo => ?_, ?_, ?_⟩
      · refine .of_modEng ?_
        rw [hexec, State.beatStep_ok hgo, hen]
      · refine .of_modEng (f := fun x => x.backTo (b.eng en)) ?_
        rw [hexec, State.beatStep_wait hgo, hen]
      · rw [hexec, State.beatStep_fault hgo, hen]
      · exact (congrArg Engine.elem (s.eng_atEntry e) :)
      · exact (congrArg Engine.flights (s.eng_atEntry e) :)
    case flies =>
      have hflies := State.flights_fly (c := c) (by rwa [hen]) acts fmt
      rwa [hen] at hflies
    case cnt =>
      obtain ⟨hen, hkind, rfl, -⟩ := hready.env
      refine ⟨_, exec_beat (kind := 8) (by decide) (by decide) hready hdue, ?_⟩
      have hflights := State.beatStep_flights (s := s.atEntry c.ent) (by rwa [hen, State.engKernel_atEntry])
        (State.beatGo_cnt hkind)
      rw [hen, State.eng_atEntry] at hflights
      exact hflights
    case pub =>
      obtain ⟨hen, hkind, rfl, -⟩ := hready.env
      refine ⟨_, exec_beat (kind := 7) (by decide) (by decide) hready hdue, ?_⟩
      have hflights := State.beatStep_flights (s := s.atEntry c.ent) (by rwa [hen, State.engKernel_atEntry])
        (State.beatGo_pub hkind)
      rw [hen, State.eng_atEntry] at hflights
      exact hflights

end Sys2Proof.Machine
end

section
/-! Host threads that go on, memory that they write, and the copy instructions (10 R305 to R310). -/
namespace Sys2Proof.Machine

/-! ### A thread that goes on -/

section
variable {s t : State} {i : Instr}

theorem State.retire_eq (s : State) : s.retire = s.modMe fun h => h.moved 0 0 4 := rfl

theorem State.retireWith_eq (s : State) (rd : Reg) (v : Word) : s.retireWith rd v = s.modMe fun h => h.moved rd v 4 := by
  have hmoved := Thr.setReg_pc_eq_moved s.me rd v 4
  simp only [State.retireWith, State.retire, State.retireN, State.modMe, State.modThr, State.putThr_cur,
    State.thr_putThr_self, State.putThr_putThr]
  exact congrArg (s.putThr s.cur.thr) hmoved

/-- An instruction whose state is t but for a change of the thread on the move. -/
theorem HostTo.of_modMe {f : Thr → Thr} (h : exec i s = .next (t.modMe f)) : HostTo i s t (f t.me) :=
  ⟨_, h, t.me_modMe f, fun _ hn => t.thr_putThr_ne _ hn, rfl⟩

theorem HostTo.of_retire (h : exec i s = .next t.retire) : HostTo i s t (t.me.moved 0 0 4) :=
  .of_modMe (f := fun h => h.moved 0 0 4) h

theorem HostTo.of_retireWith {rd : Reg} {v : Word} (h : exec i s = .next (t.retireWith rd v)) :
    HostTo i s t (t.me.moved rd v 4) := .of_modMe (by rw [h, State.retireWith_eq])

@[simp] theorem State.me_retire (s : State) : s.retire.me = s.me.moved 0 0 4 := s.me_modMe _

@[simp] theorem State.me_retireWith (s : State) (rd : Reg) (v : Word) : (s.retireWith rd v).me = s.me.moved rd v 4 := by
  rw [State.retireWith_eq, State.me_modMe]

theorem State.disarm_retire (s : State) :
    s.disarm.retire = s.modMe fun h => { h.moved 0 0 4 with watch := {}, again := false } := by
  simp only [State.retire_eq, State.disarm, State.modMe, State.modThr, State.putThr_cur, State.thr_putThr_self,
    State.putThr_putThr]
  rfl

@[simp] theorem State.eng_retire (s : State) (n : Nat) : s.retire.eng n = s.eng n := rfl

@[simp] theorem State.eng_retireWith (s : State) (rd : Reg) (v : Word) (n : Nat) : (s.retireWith rd v).eng n = s.eng n := rfl

end

/-! ### Numbers in memory -/

/-- A sum that saturates (12 R352). -/
theorem accAdd_toNat (v : Word) (n : Nat) : (accAdd v n).toNat = min (v.toNat + n) (2 ^ 64 - 1) :=
  Nat.mod_eq_of_lt (Nat.lt_of_le_of_lt (Nat.min_le_right _ _) (by decide))

theorem Memory.readLE_lt (m : List Host.Cell) (a n : Nat) : Memory.readLE m a n < 2 ^ (8 * n) := by
  induction n generalizing a with
  | zero => exact Nat.one_pos
  | succ n ih =>
    have hrest := ih (a + 1)
    have hbyte : (Memory.read m a).toNat < 256 := BitVec.isLt _
    have hpow : 2 ^ (8 * (n + 1)) = 256 * 2 ^ (8 * n) := by rw [Nat.mul_succ, Nat.pow_add, Nat.mul_comm]
    rw [Memory.readLE, hpow]
    omega

/-- A number written reads its low bytes. -/
theorem Memory.readLE_writeEn_bytesOf {m : List Host.Cell} (a v n : Nat) (w : Memory.wf m = true) :
    Memory.readLE (Memory.writeEn m a (bytesOf v n) (List.replicate n 1)) a n = v % 2 ^ (8 * n) := by
  induction n generalizing m a v with
  | zero => simp [Memory.readLE, Nat.mod_one]
  | succ n ih =>
    have hpow : 2 ^ (8 * (n + 1)) = 256 * 2 ^ (8 * n) := by rw [Nat.mul_succ, Nat.pow_add, Nat.mul_comm]
    have hfirst : (Memory.read (Memory.write m a (BitVec.ofNat 8 (v % 256))) a).toNat = v % 256 := by
      rw [Memory.read_write_self a _ w]
      simp
    rw [bytesOf, List.replicate_succ, Memory.writeEn, if_pos Nat.one_ne_zero, Memory.readLE,
      ih _ _ (Memory.wf_write _ _ w), Memory.read_writeEn_outside _ _ _ _ (.inl (Nat.lt_succ_self a)), hfirst, hpow,
      Nat.mod_mul]

/-! ### Writes to plain memory -/

section
variable {s : State} {pa n : Nat}

/-- No failed channel meets plain bytes. -/
theorem State.plain.failedAt (h : s.plain pa n) : s.failedAt pa n = none := by
  obtain ⟨-, -, herr⟩ := h
  unfold State.readError at herr
  split at herr
  · cases herr
  · assumption

/-- A number written over plain bytes stands in memory, and nothing else there changes. -/
theorem State.pokeLE_plain (h : s.plain pa n) (hn : 0 < n) (v : Nat) :
    (s.pokeLE pa n v).mem = Memory.writeEn s.mem pa (bytesOf v n) (List.replicate n 1) := by
  have hfailed : s.failedAt pa (bytesOf v n).length = none := by rw [length_bytesOf]; exact h.failedAt
  have hcodec : s.isCodec pa = false := h.2.1 0 hn
  simp only [State.pokeLE, State.poke, hfailed, hcodec, Option.isSome_none, Bool.false_eq_true, if_false]
  split <;> rfl

theorem State.counterAdd_plain (h : s.plain pa 8) (v : Word) :
    s.counterAdd pa v = s.pokeLE pa 8 (min (Memory.readLE s.mem pa 8 + v.toNat) (2 ^ 64 - 1)) := by
  rw [State.counterAdd, State.load_plain h]

end

/-! ### Accesses of the thread on the move -/

section
variable {s t : State} {va pa n : Nat} {leaf : Word}

/-- A load that can be watched reads plain memory (15 R399). -/
theorem State.watchLoad_reaches (h : HostReach s va 8 .read pa leaf t) (hcached : cachedPol leaf = true)
    (hregion : regionOf pa ≠ 2) : s.watchLoad va = .ok (Word.of (Memory.readLE t.mem pa 8), pa) t := by
  obtain ⟨halign, hdev, -, ⟨w, hhit, -, herr, -, ht⟩, hplain, -⟩ := h
  rw [if_pos hcached] at ht
  subst ht
  simp [State.watchLoad, halign, hhit, hcached, hregion, hdev, herr, State.load_plain hplain]

/-- An atomic that is paid for reaches its place (13 R369). -/
theorem State.hostAtomPlace_reaches (h : AtomReach s va n pa t) : s.hostAtomPlace va n = .ok pa t := by
  obtain ⟨halign, leaf, u, w, hhit, hmoving, herr, hupset, hpaid, rfl, -⟩ := h
  simp [State.hostAtomPlace, halign, hhit, hmoving, herr, State.upsetMe, hupset, hpaid]

end

theorem State.Keeps.me_pc {s t : State} (h : s.Keeps t) : t.me.pc = s.me.pc := by
  rw [State.me, h.cur, h.pc, State.me]

theorem State.Keeps.me_x {s t : State} (h : s.Keeps t) : t.me.x = s.me.x := by
  rw [State.me, h.cur, h.x, State.me]

/-! ### The instructions -/

section
variable {s t : State} {rd rs1 rs2 : Reg} {l : Launch} {en : Nat}

/-- A record launched on the first engine that is free (10 R306). -/
theorem execCstart_launches (hhold : s.pow.hold = false)
    (hl : s.readLaunch s.me.ctx s.myClu (s.me.reg rs1).toNat false (some s.cur.thr) = .ok (.ok l) t)
    (hfree : (t.freeEngines t.myCtx t.myClu).head? = some en) :
    exec (.cstart rd rs1) s =
      let u := t.launchCopy en l (s.me.reg rs1).toNat t.myCtx (some t.cur.thr) none (t.groupsOf t.myCtx t.cur.thr)
      .next (u.retireWith rd (u.engHandle en)) := by
  obtain ⟨ens, hens⟩ := List.head?_eq_some_iff.mp hfree
  change execCstart rd rs1 s = _
  simp only [execCstart, hhold, Bool.false_eq_true, if_false]
  change ((s.readLaunch s.me.ctx s.myClu (s.me.reg rs1).toNat false (some s.cur.thr)).host s).andThen _ = _
  rw [hl]
  simp only [Rd.host, HAcc.andThen, hens]
  rfl

theorem execCstep_adds (hen : s.engOf? (s.me.reg rs1) = some en) (hdone : (s.eng en).st ≠ .done)
    (hfaulted : (s.eng en).st ≠ .faulted) : exec (.cstep rs1 rs2) s
      = .next (s.modEng en fun x => { x with stg := accAdd x.stg (s.me.reg rs2).toNat }).retire := by
  change execCstep rs1 rs2 s = _
  simp [execCstep, State.reg, hen, hdone, hfaulted]

theorem execCstep_none (hen : s.engOf? (s.me.reg rs1) = none) : exec (.cstep rs1 rs2) s = .next s.retire := by
  change execCstep rs1 rs2 s = _
  simp [execCstep, State.reg, hen]

theorem execCstat_none (hen : s.engOf? (s.me.reg rs1) = none) :
    exec (.cstat rd rs1) s = .next (s.retireWith rd (BitVec.allOnes 64)) := by
  change execCstat rd rs1 s = _
  simp [execCstat, State.reg, hen]

theorem execCstat_some (hen : s.engOf? (s.me.reg rs1) = some en) : exec (.cstat rd rs1) s = .next
    (if (s.eng en).st = .faulted then (s.retireWith rd (s.eng en).statusWord).putEng en (s.eng en).freed
      else s.retireWith rd (s.eng en).statusWord) := by
  change execCstat rd rs1 s = _
  simp [execCstat, State.reg, hen]

theorem mwaitHolds_geu (v x : Word) : mwaitHolds .geu v x = decide (x.toNat ≤ v.toNat) := by
  rw [mwaitHolds, BitVec.ult, Bool.eq_iff_iff]
  simp

/-- `cwait` goes on once the counter has reached its operand (10 R308). -/
theorem execCwait_reached {v : Word} {pa : Nat} (h : s.watchLoad (s.me.reg rs1).toNat = .ok (v, pa) t)
    (hv : (s.me.reg rs2).toNat ≤ v.toNat) : exec (.cwait rs1 rs2) s
      = .next (t.modMe fun h => { h.moved 0 0 4 with watch := {}, again := false }) := by
  rw [← State.disarm_retire]
  change execCwait rs1 rs2 s = _
  simp only [execCwait, State.reg, h, HAcc.andThen, mwaitHolds_geu, hv, decide_true, if_true]

/-- It sleeps until then. -/
theorem execCwait_sleeps {v : Word} {pa : Nat} (h : s.watchLoad (s.me.reg rs1).toNat = .ok (v, pa) t)
    (hv : v.toNat < (s.me.reg rs2).toNat) : exec (.cwait rs1 rs2) s
      = .next (t.sleep .cwait (s.me.reg rs1).toNat pa (s.me.reg rs2) MwaitCond.geu.code) := by
  change execCwait rs1 rs2 s = _
  simp only [execCwait, State.reg, h, HAcc.andThen, mwaitHolds_geu, Nat.not_le.mpr hv, decide_false, Bool.false_eq_true,
    if_false]

theorem execCadd_reaches {pa : Nat} (h : s.hostAtomPlace (s.me.reg rs1).toNat 8 = .ok pa t) :
    exec (.cadd rs1 rs2) s = .next (t.flushMine.counterAdd pa (t.me.reg rs2)).retire := by
  change execCadd rs1 rs2 s = _
  simp only [execCadd, State.reg, h, HAcc.andThen]

theorem execCpub_eq (sc : Scope) : exec (.cpub sc rs1) s = .next
    ((if (Tab.get? (s.ctx s.me.ctx).pubs (s.me.reg rs1).toNat).any (·.valid) then
      (s.flushCtx s.me.ctx).publish s.me.ctx (s.me.reg rs1).toNat else s).retire) := rfl

/-- A publish of a valid entry inverts its CUR, behind what arrives and before what shows it. -/
theorem State.publish_keeps {ctx h : Nat} {p : PubEnt} (hp : Tab.get? (s.ctx ctx).pubs h = some p) (hv : p.valid = true) :
    ∃ (a : State) (x : Ctx), s.Keeps a
      ∧ (a.putCtx ctx { x with pubs := Tab.put x.pubs h { p with cur := !p.cur } }).Keeps (s.publish ctx h) := by
  rw [State.publish, hp]
  dsimp only
  rw [if_pos hv]
  exact ⟨_, _, .arriveAt .., ((State.Keeps.sysPoke ..).trans (.wakeRange ..)).trans (.wakeRange ..)⟩

/-- The record of a launch on an engine (10 R306). -/
theorem State.eng_launchCopy (a ctx : Nat) (thr : Option Nat) (queue : Option (Nat × Nat)) (gs : List Nat) :
    (s.launchCopy en l a ctx thr queue gs).eng en = { (s.eng en).launched l a ctx gs with thr := thr, queue := queue } :=
  s.eng_putEng_self _ _

end

/-! ### The statement -/

/-- Settles O32, an equation per instruction and outcome (`execCstart_launches`, `execCstep_adds`, …). A counter
is added to by a write over plain memory (`State.pokeLE_plain`); a publish makes its context's writes reach memory
first and its page table last, neither of which moves a thread or a table of published buffers
(`State.publish_keeps`). -/
theorem copyControl : Obligations.CopyControl := by
  intro s t rd rs1 rs2 sc l en pa leaf p h a v here x status engs old
  refine ⟨fun hhold hl ht hfree htimed => ?cstart, fun hen hdone hfaulted => ?cstep,
    fun hen => ⟨.of_retire (execCstep_none hen), .of_retireWith (execCstat_none hen)⟩, fun hen hst => ?cstat,
    fun hen hst => ?frees, fun hreach hcached hregion ht => ?cwait, fun hreach ht hinv hflushed => ?cadd,
    fun hp hvalid => ?cpub, fun hnone => ?unpublished⟩
  case cstart =>
    have hfree' : (t.freeEngines t.myCtx t.myClu).head? = some en := by rwa [State.myCtx, ht]
    refine ⟨_, execCstart_launches hhold hl hfree', ?_, ?_, ?_, ?_, ?_, ?_, rfl⟩
    · rw [State.eng_retireWith, State.eng_launchCopy]
      rfl
    · rw [State.eng_retireWith, State.eng_launchCopy]
      simp [Engine.launched, htimed]
    · rw [State.eng_retireWith, State.eng_launchCopy]
      rfl
    · rw [State.eng_retireWith, State.eng_launchCopy]
    · rw [State.eng_retireWith, State.eng_launchCopy]
      rfl
    · rw [State.me_retireWith, State.engHandle, State.eng_launchCopy]
      change t.me.moved _ _ _ = _
      rw [ht]
      rfl
  case cstep =>
    refine ⟨_, _, execCstep_adds hen hdone hfaulted, State.me_retire _, ⟨rfl, fun n hn => ?_⟩, ?_, ?_⟩
    · rw [State.eng_retire, State.eng_modEng_ne _ _ hn]
    · rw [State.eng_retire, State.eng_modEng_self]
      exact accAdd_toNat _ _
    · rw [State.eng_retire, State.eng_modEng_self]
  case cstat => exact .of_retireWith (by rw [execCstat_some hen, if_neg hst]; rfl)
  case frees =>
    refine ⟨_, execCstat_some hen, ?_⟩
    rw [if_pos hst]
    refine ⟨State.me_retireWith .., ?_, ?_⟩
    · rw [State.eng_putEng_self]
      rfl
    · rw [State.eng_putEng_self]
      rfl
  case cwait =>
    have hload := State.watchLoad_reaches hreach hcached hregion
    have hold : (Word.of old).toNat = old := Nat.mod_eq_of_lt (Memory.readLE_lt t.mem pa 8)
    refine ⟨fun hle => ?_, fun hlt => ?_⟩
    · have hto := HostTo.of_modMe (execCwait_reached hload (by rwa [hold]))
      rwa [ht] at hto
    · have hto := HostTo.of_modMe (execCwait_sleeps hload (by rwa [hold]))
      rwa [ht] at hto
  case cadd =>
    obtain ⟨-, -, -, -, -, -, -, -, -, -, hplain⟩ := id hreach
    have hexec := execCadd_reaches (rs2 := rs2) (State.hostAtomPlace_reaches hreach)
    have hsum : min (Memory.readLE t.mem pa 8 + (h.reg rs2).toNat) (2 ^ 64 - 1) < 2 ^ (8 * 8) :=
      Nat.lt_of_le_of_lt (Nat.min_le_right _ _) (by decide)
    rw [hflushed, State.counterAdd_plain hplain, ht] at hexec
    generalize min (Memory.readLE t.mem pa 8 + (h.reg rs2).toNat) (2 ^ 64 - 1) = sum at hexec hsum
    have hkeeps := State.Keeps.pokeLE t pa 8 sum
    have hmem := State.pokeLE_plain hplain (by decide) sum
    refine ⟨_, hexec, ?_, ?_, ?_, fun b hb => ?_⟩
    · rw [State.me_retire, ← ht]
      exact congrArg (· + 4#64) hkeeps.me_pc
    · rw [State.me_retire, ← ht]
      exact hkeeps.me_x
    · change Memory.readLE (t.pokeLE pa 8 sum).mem pa 8 = _
      rw [hmem, Memory.readLE_writeEn_bytesOf _ _ _ hinv]
      exact Nat.mod_eq_of_lt hsum
    · change Memory.read (t.pokeLE pa 8 sum).mem b = _
      rw [hmem, Memory.read_writeEn_outside _ _ _ _ (by rwa [length_bytesOf])]
  case cpub =>
    have hflushed := State.Keeps.flushCtx s h.ctx
    obtain ⟨b, y, harrived, hshown⟩ := State.publish_keeps (s := s.flushCtx h.ctx) (by rwa [hflushed.pubs]) hvalid
    have hkept := hflushed.trans harrived
    have hexec := execCpub_eq (s := s) (rs1 := rs1) sc
    have hany : (Tab.get? (s.ctx s.me.ctx).pubs (s.me.reg rs1).toNat).any (·.valid) = true := by
      rw [hp]
      exact hvalid
    rw [if_pos hany] at hexec
    refine ⟨_, hexec, ?_, ?_, ?_⟩
    · rw [State.me_retire]
      exact congrArg (· + 4#64) (hshown.me_pc.trans hkept.me_pc)
    · rw [State.me_retire]
      exact hshown.me_x.trans hkept.me_x
    · refine (congrArg (Tab.get? · a) (hshown.pubs h.ctx)).trans ?_
      rw [State.ctx_putCtx_self, Tab.get?_put_self]
  case unpublished =>
    refine .of_retire ?_
    have hany : (Tab.get? (s.ctx s.me.ctx).pubs (s.me.reg rs1).toNat).any (·.valid) ≠ true := fun hvalid => by
      obtain ⟨q, hq, hv⟩ := (Option.any_eq_true ..).mp hvalid
      exact Bool.false_ne_true ((hnone q hq).symm.trans hv)
    rw [execCpub_eq, if_neg hany]

end Sys2Proof.Machine
end

section
/-! MOVEC from a page whose format descriptor is poisoned (02 R55, 10 R291, 13 R378). -/
namespace Sys2Proof.Machine

/-- A translation answers a place and leaves the machine. -/
def State.hitsAt (s : State) (ctx clu va : Nat) (a : Acc) (pa : Nat) (leaf : Word) : Bool :=
  match s.hostXlate ctx clu va a with
  | .hit p l t => decide (p = pa ∧ l = leaf ∧ t = s)
  | .miss _ _ => false

theorem State.hostXlate_of_hitsAt {s : State} {ctx clu va : Nat} {a : Acc} {pa : Nat} {leaf : Word}
    (h : s.hitsAt ctx clu va a pa leaf = true) : s.hostXlate ctx clu va a = .hit pa leaf s := by
  unfold State.hitsAt at h
  split at h
  · obtain ⟨rfl, rfl, rfl⟩ := of_decide_eq_true h
    assumption
  · cases h

/-! ### The machine -/

namespace PoisonedDescriptor

/-- The format of the page: descriptor 1, signed bytes. -/
def format : PageFmt := ⟨1, false, 1⟩

/-- A cached page of that format that may be read and written. -/
def leaf : Word := 0x0010000000000047#64

/-- Engine 0 of context 0, which moves from 0x10000 to 0x10400; the formats of both buffers are known. -/
def engine : Engine :=
  { st := .running, own := some 0, launch := { bufs := [{ base := 0x10000 }, { base := 0x10400 }] },
    fmts := [(0, format), (1, format)] }

/-- One element from buffer 0 to buffer 1, times 1. -/
def entry : CopyEnt :=
  ⟨0, 0, 1, 0x3F800000, 0, 0, [1, 1, 1, 1, 1], 255, 0, [0, 0, 0, 0, 0], [0, 0, 0, 0, 0]⟩

/-- The surroundings of the entry. -/
def env : CEnv := ⟨0, 0, 0, 2, entry, engine.launch, none, false⟩

/-- The page lies in the explicit pool; its descriptor, the 32 bytes at 0x20, in a poisoned unit of storage. -/
def machine : State :=
  { engs := [(0, engine)], clus := [(0, {})], mem := [(0x24, 1)], poison := [0], steps := [(0, 0)],
    tlb := [{ clu := 0, asid := 0, va := 0x10000, pa := poolBase, size := 4096, leaf := leaf }] }

/-- The machine with the entry in hand. -/
def started : State := machine.atEntry entry

theorem ready : CopyReady machine 2 entry env :=
  ⟨rfl, .inl (by decide +kernel), by decide +kernel, by decide +kernel, by decide +kernel, by decide +kernel,
    by decide +kernel⟩

theorem plain_source : started.plain poolBase 1 :=
  ⟨fun _ hb => absurd hb List.not_mem_nil, by decide +kernel, by decide +kernel⟩

theorem plain_destination : started.plain (poolBase + 0x400) 1 :=
  ⟨fun _ hb => absurd hb List.not_mem_nil, by decide +kernel, by decide +kernel⟩

/-- Both sides of the element are at hand. -/
theorem side {a : Acc} {va pa : Nat} (hhit : started.hitsAt 0 0 va a pa leaf = true)
    (hline : ∃ q, started.hitsAt 0 0 (128 * (va / 128)) .read q leaf = true) (hplain : started.plain pa 1)
    (hmoving : started.movingAt 0 pa = false) (hregion : regionOf pa ≠ 3) (hframe : pa % 4096 + 1 ≤ 4096) :
    CopySide started env a format [va] pa leaf := by
  have hbyte {j : Nat} (hj : j < [va].length) : j = 0 := Nat.lt_one_iff.mp hj
  refine ⟨Nat.one_pos, fun j hj => ?_, fun _ v hv => ?_, rfl, by decide, by decide, by decide, by decide, hmoving, hregion,
    hframe, hplain, fun j hj => ?_⟩
  · obtain rfl := hbyte hj
    exact State.hostXlate_of_hitsAt hhit
  · obtain rfl := List.mem_singleton.mp hv
    obtain ⟨q, hq⟩ := hline
    exact ⟨q, leaf, State.hostXlate_of_hitsAt hq, by decide⟩
  · obtain rfl := hbyte hj
    exact hplain

theorem source_side : CopySide started env .read format [0x10000] poolBase leaf :=
  side (by decide +kernel) ⟨poolBase, by decide +kernel⟩ plain_source (by decide +kernel) (by decide +kernel)
    (by decide +kernel)

theorem destination_side : CopySide started env .write format [0x10400] (poolBase + 0x400) leaf :=
  side (by decide +kernel) ⟨poolBase + 0x400, by decide +kernel⟩ plain_destination (by decide +kernel) (by decide +kernel)
    (by decide +kernel)

/-- The read of the source leaves the machine: its line is in no write-combining buffer and in no pool. -/
theorem copyOwn_source : started.copyOwn env [0x10000] = started := by decide +kernel

/-- The write of the destination leaves the machine but for its bytes. -/
theorem countAccess_destination : started.countAccess 0 0 (poolBase + 0x400) false true = started := by decide +kernel

/-- The engine is bound for FAULTED with the cause of its descriptor, the element not performed. -/
theorem copyRun_faults : machine.copyRun 2 entry = started.engineFailed 0 0x0401#16 0x20 := by decide +kernel

theorem elem_of_faulted : ((machine.copyRun 2 entry).eng 0).elem = 0 := by
  rw [copyRun_faults]
  rfl

end PoisonedDescriptor

open PoisonedDescriptor in
/-- Refutes O33: the clause on completed elements asks of a MOVEC that the descriptor of its source is valid, but not that
it can be read. Here it lies in a poisoned unit of storage: the element is not converted,
and the engine is bound for FAULTED with 0x0401 (13 R378), still at element 0. The clause lacks the hypothesis that
`State.fmtError` answers none. -/
theorem not_copyElements : ¬ Obligations.CopyElements := by
  intro h
  obtain ⟨-, -, -, hcompletes⟩ := h
  have hr : CopySide (started.copyOwn env [0x10000]) env .read format [0x10000] poolBase leaf := by
    rw [copyOwn_source]
    exact source_side
  have hw : CopySide (started.copyOwn env [0x10000]) env .write format [0x10400] (poolBase + 0x400) leaf := by
    rw [copyOwn_source]
    exact destination_side
  have hp : (started.countAccess 0 0 (poolBase + 0x400) false true).plain (poolBase + 0x400) 1 := by
    rw [countAccess_destination]
    exact plain_destination
  have hinv : (started.countAccess 0 0 (poolBase + 0x400) false true).Inv := by
    rw [countAccess_destination]
    rfl
  obtain ⟨hwrites, -⟩ := hcompletes machine started started 2 entry env format format poolBase (poolBase + 0x400) leaf leaf
    (by decide) (by decide) ready (by decide +kernel) (by decide +kernel) (by decide +kernel) (by decide +kernel)
    (by decide +kernel) (by decide +kernel) (by decide +kernel) (by decide +kernel) (by decide +kernel) (by decide +kernel)
    (by decide +kernel) (by decide +kernel) (by decide +kernel) (by decide +kernel) (by decide +kernel) (by decide +kernel)
    source_side (by decide +kernel) source_side hr hw (by decide +kernel)
    hp hinv
  obtain ⟨u, ⟨hexec, helem, -⟩, -⟩ := hwrites (by decide)
  obtain rfl : machine.copyRun 2 entry = u := Host.Outcome.next.inj hexec
  exact absurd (elem_of_faulted.symm.trans helem) (by decide +kernel)

end Sys2Proof.Machine
end
